-- ==== Sys2Proof/Word.lean ====
section
/-! DEFINITION. The word types of the ZNP-7140 and their plainest arithmetic (R11, R17). -/

namespace Sys2Proof

/-- A byte of memory. -/
abbrev Byte := BitVec 8
/-- A mask register, or one lane of a vector register (R17, R20). -/
abbrev W32 := BitVec 32
/-- A scalar register (R17). -/
abbrev W64 := BitVec 64

/-- A natural number as a 64-bit word, wrapped. -/
def w64 (n : Nat) : W64 := BitVec.ofNat 64 n
/-- A natural number as a 32-bit word, wrapped. -/
def w32 (n : Nat) : W32 := BitVec.ofNat 32 n
/-- A natural number as a byte, wrapped. -/
def byte (n : Nat) : Byte := BitVec.ofNat 8 n

end Sys2Proof
end

