-- ==== Sys2Proof/Machine/Bits.lean ====
section
/-! DEFINITION. Bit fields, byte order, sign extension and bit counts (R11, R93). -/

namespace Sys2Proof

/-- The field `[hi:lo]` of a word (R11). -/
def bits {w : Nat} (x : BitVec w) (hi lo : Nat) : Nat := x.toNat / 2 ^ lo % 2 ^ (hi + 1 - lo)

/-- Bit `n` of a word. -/
def bit {w : Nat} (x : BitVec w) (n : Nat) : Bool := x.getLsbD n

/-- The `n` bytes of a number, least significant first (R11). -/
def toBytes : (n : Nat) → (x : Nat) → List Byte
  | 0, _ => []
  | n + 1, x => byte x :: toBytes n (x / 256)

/-- The number that bytes stand for, least significant first (R11). -/
def ofBytes : List Byte → Nat
  | [] => 0
  | b :: bs => b.toNat + 256 * ofBytes bs

/-- The two's complement value of the low `w` bits of a number. -/
def sext (w : Nat) (x : Nat) : Int :=
  if 2 ^ (w - 1) ≤ x % 2 ^ w then (x % 2 ^ w : Nat) - (2 ^ w : Nat) else (x % 2 ^ w : Nat)

/-- An integer modulo `2 ^ w`, as a natural number (the helper `Wrap` of R93). -/
def wrapTo (w : Nat) (x : Int) : Nat := (x % (2 ^ w : Nat)).toNat

/-- Number of set bits of a natural number below `2 ^ n`. -/
def popcount : (n : Nat) → (x : Nat) → Nat
  | 0, _ => 0
  | n + 1, x => x % 2 + popcount n (x / 2)

/-- Trailing zeros of `x` seen as `n` bits; `n` for zero. -/
def ctz : (n : Nat) → (x : Nat) → Nat
  | 0, _ => 0
  | n + 1, x => if x % 2 = 1 then 0 else 1 + ctz n (x / 2)

/-- Leading zeros of `x` seen as `n` bits; `n` for zero. -/
def clz (n x : Nat) : Nat := if x % 2 ^ n = 0 then n else n - 1 - Nat.log2 (x % 2 ^ n)

/-- The bit reversal of the low `n` bits of `x`. -/
def brev : (n : Nat) → (x : Nat) → Nat
  | 0, _ => 0
  | n + 1, x => (x % 2) * 2 ^ n + brev n (x / 2)

end Sys2Proof
end

