-- ==== Sys2Proof/Machine/Tab.lean ====
section
/-! DEFINITION. Tables: lists with a default entry, and lists of keyed entries. -/

namespace Sys2Proof.Machine

/-- Entry `i` of a list with default `d`. -/
def tget {α : Type} (d : α) (l : List α) (i : Nat) : α := l.getD i d

/-- The list with entry `i` set, extended with the default where it is shorter. -/
def tset {α : Type} (d : α) : (l : List α) → (i : Nat) → (v : α) → List α
  | [], 0, v => [v]
  | [], i + 1, v => d :: tset d [] i v
  | _ :: t, 0, v => v :: t
  | x :: t, i + 1, v => x :: tset d t i v

/-- The entry with key `k`. -/
def aget {κ α : Type} [DecidableEq κ] : (l : List (κ × α)) → (k : κ) → Option α
  | [], _ => none
  | (a, v) :: t, k => if a = k then some v else aget t k

/-- The entries without key `k`. -/
def adel {κ α : Type} [DecidableEq κ] : (l : List (κ × α)) → (k : κ) → List (κ × α)
  | [], _ => []
  | (a, v) :: t, k => if a = k then adel t k else (a, v) :: adel t k

/-- The list with key `k` bound to `v`: in its place where it has one, else at the end. -/
def aput {κ α : Type} [DecidableEq κ] : (l : List (κ × α)) → (k : κ) → (v : α) → List (κ × α)
  | [], k, v => [(k, v)]
  | (a, w) :: t, k, v => if a = k then (a, v) :: t else (a, w) :: aput t k v

/-- Inserts before the first element that `lt` places after it. -/
def insertBy {α : Type} (lt : α → α → Bool) (x : α) : List α → List α
  | [] => [x]
  | y :: t => if lt x y then x :: y :: t else y :: insertBy lt x t

/-- Inserts before every element that is not less. -/
def insertFront {α : Type} (lt : α → α → Bool) (x : α) : List α → List α
  | [] => [x]
  | y :: t => if lt y x then y :: insertFront lt x t else x :: y :: t

/-- A stable sort: equal elements keep their order. -/
def sortBy {α : Type} (lt : α → α → Bool) : List α → List α
  | [] => []
  | x :: t => insertFront lt x (sortBy lt t)

/-- The elements without later repeats. -/
def dedup {α : Type} [DecidableEq α] : List α → List α
  | [] => []
  | x :: t => x :: (dedup t).filter (· ≠ x)

/-- Lexicographic order of task keys (R267, R303). -/
def keyLt : List Nat → List Nat → Bool
  | [], [] => false
  | [], _ :: _ => true
  | _ :: _, [] => false
  | a :: s, b :: t => decide (a < b) || (a == b && keyLt s t)

/-- The first index from `i` on, below `i + n`, that satisfies `p`. -/
def firstFrom (p : Nat → Bool) (i : Nat) : (n : Nat) → Option Nat
  | 0 => none
  | n + 1 => if p i then some i else firstFrom p (i + 1) n

end Sys2Proof.Machine
end

