-- ==== Sys2Proof/Machine/Num.lean ====
section
/-! DEFINITION. Number formats, exact values, rounding, special values and conversions (R78 to R93, R422). -/

namespace Sys2Proof.Machine

/-- How a format writes its special values (R78). -/
inductive FmtKind where
  /-- Infinities and NaNs with an exponent of all ones. -/
  | ieee
  /-- No infinity; the code S.1111.111 is NaN. -/
  | e4m3
  /-- Neither (e2m1). -/
  | finite
  deriving DecidableEq, Repr

/-- A floating-point format (R78): mantissa and exponent bits, bias, and special values. -/
structure Fmt where
  mbits : Nat
  ebits : Nat
  bias : Nat
  kind : FmtKind
  deriving DecidableEq, Repr

/-- f32. -/
def fF32 : Fmt := { mbits := 23, ebits := 8, bias := 127, kind := .ieee }
/-- f16. -/
def fF16 : Fmt := { mbits := 10, ebits := 5, bias := 15, kind := .ieee }
/-- bf16. -/
def fBF16 : Fmt := { mbits := 7, ebits := 8, bias := 127, kind := .ieee }
/-- e4m3. -/
def fE4M3 : Fmt := { mbits := 3, ebits := 4, bias := 7, kind := .e4m3 }
/-- e5m2. -/
def fE5M2 : Fmt := { mbits := 2, ebits := 5, bias := 15, kind := .ieee }
/-- e2m1. -/
def fE2M1 : Fmt := { mbits := 1, ebits := 2, bias := 1, kind := .finite }

/-- Bits of a format. -/
def Fmt.width (f : Fmt) : Nat := 1 + f.ebits + f.mbits
/-- The sign bit of a format as a number. -/
def Fmt.signBit (f : Fmt) : Nat := 2 ^ (f.ebits + f.mbits)
/-- The code of the largest finite value (R78). -/
def Fmt.maxCode (f : Fmt) : Nat :=
  match f.kind with
  | .ieee => (2 ^ f.ebits - 1) * 2 ^ f.mbits - 1
  | .e4m3 => 2 ^ (f.ebits + f.mbits) - 2
  | .finite => 2 ^ (f.ebits + f.mbits) - 1
/-- The code of +infinity, or of the positive NaN that stands for it (R78, R86). -/
def Fmt.infCode (f : Fmt) : Nat :=
  match f.kind with
  | .ieee => (2 ^ f.ebits - 1) * 2 ^ f.mbits
  | .e4m3 => 2 ^ (f.ebits + f.mbits) - 1
  | .finite => f.maxCode

/-- An exact value: a NaN with its sign and payload at the top of 23 bits, an infinity, a zero, or sign, magnitude and
power of two of a nonzero real (R78, R88). -/
inductive FVal where
  | nan (neg : Bool) (payload : Nat)
  | inf (neg : Bool)
  | zero (neg : Bool)
  | fin (neg : Bool) (m : Nat) (e : Int)
  deriving DecidableEq, Repr

/-- The canonical NaN (R88). -/
def FVal.canonical : FVal := .nan false 0x400000

/-- `Val(bits, fmt)` (R78 to R82, R93). -/
def Fmt.val (f : Fmt) (code : Nat) : FVal :=
  let neg := decide (f.signBit ≤ code % (2 * f.signBit))
  let e := code / 2 ^ f.mbits % 2 ^ f.ebits
  let m := code % 2 ^ f.mbits
  let top : Bool := e = 2 ^ f.ebits - 1
  if f.kind = .ieee ∧ top = true then (if m = 0 then .inf neg else .nan neg (m * 2 ^ (23 - f.mbits)))
  else if f.kind = .e4m3 ∧ top = true ∧ m = 2 ^ f.mbits - 1 then .nan neg (m * 2 ^ (23 - f.mbits))
  else if e = 0 then (if m = 0 then .zero neg else .fin neg m (1 - (f.bias : Int) - f.mbits))
  else .fin neg (2 ^ f.mbits + m) ((e : Int) - f.bias - f.mbits)

/-- The rounding codes (R85). -/
inductive Rnd where
  | rne | rtz | rup | rdn | rna | rsr
  deriving DecidableEq, Repr

/-- The rounding code of a prefix field (R53, R85). -/
def Rnd.of (n : Nat) : Rnd :=
  match n with | 0 => .rne | 1 => .rtz | 2 => .rup | 3 => .rdn | 4 => .rna | _ => .rsr

/-- Whether a magnitude with integer part `t` and discarded fraction `rem / den` takes the neighbour of larger magnitude
(R85, R87). -/
def roundsUp (rm : Rnd) (rnd : Nat) (neg : Bool) (t rem den : Nat) : Bool :=
  if rem = 0 then false
  else match rm with
  | .rne => decide (den < 2 * rem) || (decide (2 * rem = den) && t % 2 == 1)
  | .rtz => false
  | .rup => !neg
  | .rdn => neg
  | .rna => decide (den ≤ 2 * rem)
  | .rsr => decide (2 ^ 32 ≤ rem * 2 ^ 32 / den + rnd)

/-- The magnitude `num / den` times `2 ^ -q`, as an integer part, a remainder and its divisor. -/
def scaleDiv (num den : Nat) (q : Int) : Nat × Nat × Nat :=
  let n := if q < 0 then num * 2 ^ q.natAbs else num
  let d := if q < 0 then den else den * 2 ^ q.natAbs
  (n / d, n % d, d)

/-- floor(log2 (num / den)) for positive numbers. -/
def floorLog2 (num den : Nat) : Int :=
  let k : Int := (Nat.log2 num : Int) - (Nat.log2 den : Int)
  let below : Bool := if 0 ≤ k then decide (num < den * 2 ^ k.natAbs) else decide (num * 2 ^ k.natAbs < den)
  if below then k - 1 else k

/-- What an overflow writes (R86). -/
def overflowCode (f : Fmt) (rm : Rnd) (sat neg : Bool) : Nat :=
  let big := if sat then f.maxCode else match rm with
    | .rtz => f.maxCode
    | .rup => if neg then f.maxCode else f.infCode
    | .rdn => if neg then f.infCode else f.maxCode
    | _ => f.infCode
  if neg then f.signBit + big else big

/-- Rounds the nonzero magnitude `num / den` with a sign to a format (R85, R86). -/
def roundMag (f : Fmt) (rm : Rnd) (sat : Bool) (rnd : Nat) (neg : Bool) (num den : Nat) : Nat :=
  let emin : Int := 1 - (f.bias : Int)
  let e := max (floorLog2 num den) emin
  let (t, rem, d) := scaleDiv num den (e - f.mbits)
  let t' := if roundsUp rm rnd neg t rem d then t + 1 else t
  let code := (e - emin).toNat * 2 ^ f.mbits + t'
  if code ≤ f.maxCode then (if neg then f.signBit + code else code) else overflowCode f rm sat neg

/-- The code of a NaN in a format (R88). -/
def nanCode (f : Fmt) (neg : Bool) (payload : Nat) : Nat :=
  let s := if neg then f.signBit else 0
  match f.kind with
  | .ieee => if f.mbits ≤ 2 then s + (f.signBit - 1) else
      s + f.infCode + Nat.lor (payload / 2 ^ (23 - f.mbits)) (2 ^ (f.mbits - 1))
  | _ => s + (f.signBit - 1)

/-- A magnitude times a power of two, as a fraction. -/
def fracOf (m : Nat) (e : Int) : Nat × Nat := if e < 0 then (m, 2 ^ e.natAbs) else (m * 2 ^ e.natAbs, 1)

/-- Rounds an exact value to a format (R85 to R89). An exact infinity stays one. -/
def FVal.round (x : FVal) (f : Fmt) (rm : Rnd) (sat : Bool) (rnd : Nat) : Nat :=
  match x with
  | .nan neg p => nanCode f neg p
  | .inf neg => (if neg then f.signBit else 0) + (if f.kind = .finite then f.maxCode else f.infCode)
  | .zero neg => if neg then f.signBit else 0
  | .fin neg m e => let (n, d) := fracOf m e; roundMag f rm sat rnd neg n d

/-- Converts a value to a narrower format (R91): an infinite source converts as an overflow of its sign (R86). -/
def FVal.convert (x : FVal) (f : Fmt) (rm : Rnd) (sat : Bool) (rnd : Nat) : Nat :=
  match x with
  | .inf neg => overflowCode f rm sat neg
  | x => x.round f rm sat rnd

/-- The value with its sign changed. -/
def FVal.neg : FVal → FVal
  | .nan s p => .nan (!s) p
  | .inf s => .inf (!s)
  | .zero s => .zero (!s)
  | .fin s m e => .fin (!s) m e

/-- The value with a positive sign. -/
def FVal.absV : FVal → FVal
  | .nan _ p => .nan false p
  | .inf _ => .inf false
  | .zero _ => .zero false
  | .fin _ m e => .fin false m e

/-- The value is a NaN. -/
def FVal.isNan : FVal → Bool | .nan _ _ => true | _ => false
/-- The value is a zero. -/
def FVal.isZero : FVal → Bool | .zero _ => true | _ => false
/-- The sign of a value. -/
def FVal.sign : FVal → Bool | .nan s _ => s | .inf s => s | .zero s => s | .fin s _ _ => s

/-- The zero an exact sum of zero gives (R89). -/
def zeroSum (rm : Rnd) : FVal := .zero (rm == .rdn)

/-- A signed integer times a power of two as a value; zero gets the sign of an exact zero sum (R89). -/
def ofScaled (rm : Rnd) (n e : Int) : FVal := if n = 0 then zeroSum rm else .fin (decide (n < 0)) n.natAbs e

/-- The signed integer of a magnitude at a lower power of two. -/
def alignTo (neg : Bool) (m : Nat) (e e0 : Int) : Int := (if neg then -1 else 1) * ((m * 2 ^ (e - e0).toNat : Nat) : Int)

/-- The exact sum (R88, R89): the first NaN operand, the canonical NaN for opposite infinities. -/
def FVal.add (rm : Rnd) (a b : FVal) : FVal :=
  match a, b with
  | .nan s p, _ => .nan s p
  | _, .nan s p => .nan s p
  | .inf s, .inf t => if s = t then .inf s else .canonical
  | .inf s, _ => .inf s
  | _, .inf s => .inf s
  | .zero s, .zero t => if s = t then .zero s else zeroSum rm
  | .zero _, x => x
  | x, .zero _ => x
  | .fin s m e, .fin t n f =>
    let e0 := min e f
    ofScaled rm (alignTo s m e e0 + alignTo t n f e0) e0

/-- The exact product (R88, R89). -/
def FVal.mul (a b : FVal) : FVal :=
  match a, b with
  | .nan s p, _ => .nan s p
  | _, .nan s p => .nan s p
  | .inf s, .zero _ => let _ := s; .canonical
  | .zero _, .inf _ => .canonical
  | .inf s, x => .inf (s != x.sign)
  | x, .inf s => .inf (s != x.sign)
  | .zero s, x => .zero (s != x.sign)
  | x, .zero s => .zero (s != x.sign)
  | .fin s m e, .fin t n f => .fin (s != t) (m * n) (e + f)

/-- An exact result of an instruction with products: a zero from operands that are not all zeros is +0, or -0 under `rdn`
(R89, as R369 has it for `vcmul`; notes/assumptions/10.md). -/
def zeroFrom (rm : Rnd) (operands : List FVal) (x : FVal) : FVal :=
  if x.isZero && !operands.all FVal.isZero then zeroSum rm else x

/-- The exact a * b + c (R88, R89): the first NaN among a, b and c. -/
def FVal.fma (rm : Rnd) (a b c : FVal) : FVal :=
  match a, b, c with
  | .nan s p, _, _ => .nan s p
  | _, .nan s p, _ => .nan s p
  | _, _, .nan s p => .nan s p
  | a, b, c => zeroFrom rm [a, b, c] ((a.mul b).add rm c)

/-- a < b for numbers; false with a NaN (R143). -/
def FVal.lt (a b : FVal) : Bool :=
  match a, b with
  | .nan _ _, _ => false
  | _, .nan _ _ => false
  | .inf s, .inf t => s && !t
  | .inf s, _ => s
  | _, .inf t => !t
  | .zero _, .zero _ => false
  | .zero _, .fin t _ _ => !t
  | .fin s _ _, .zero _ => s
  | .fin s m e, .fin t n f =>
    let e0 := min e f
    decide (alignTo s m e e0 < alignTo t n f e0)

/-- a = b for numbers, zeros equal whatever their signs; false with a NaN. -/
def FVal.eqV (a b : FVal) : Bool := !a.isNan && !b.isNan && !a.lt b && !b.lt a

/-- a < b where -0 is less than +0 (R89). -/
def FVal.ltZ (a b : FVal) : Bool :=
  match a, b with
  | .zero s, .zero t => s && !t
  | a, b => a.lt b

/-- A finite value rounded to an integer (R91); the fraction is discarded by the rounding code. -/
def roundInt (rm : Rnd) (rnd : Nat) (neg : Bool) (m : Nat) (e : Int) : Int :=
  let (n, d) := fracOf m e
  let t := n / d
  let u := if roundsUp rm rnd neg t (n % d) d then t + 1 else t
  if neg then -(u : Int) else (u : Int)

/-- The bounds of an integer type (R92). -/
def intBounds (w : Nat) (signed : Bool) : Int × Int :=
  if signed then (-(2 ^ (w - 1) : Int), (2 ^ (w - 1) : Int) - 1) else (0, (2 ^ w : Int) - 1)

/-- An integer clamped to a type (R92). -/
def clampInt (w : Nat) (signed : Bool) (x : Int) : Int :=
  let (lo, hi) := intBounds w signed
  max lo (min hi x)

/-- `RoundInt(x, rm, w, signed)` (R91): NaN gives 0; a value outside the type gives the nearest bound. -/
def FVal.toInt (x : FVal) (rm : Rnd) (rnd w : Nat) (signed : Bool) : Int :=
  match x with
  | .nan _ _ => 0
  | .inf neg => if neg then (intBounds w signed).1 else (intBounds w signed).2
  | .zero _ => 0
  | .fin neg m e => clampInt w signed (roundInt rm rnd neg m e)

/-- An integer as an exact value. -/
def FVal.ofInt (n : Int) : FVal := if n = 0 then .zero false else .fin (decide (n < 0)) n.natAbs 0

/-- A 32-bit word's f32 value. -/
def valF32 (x : W32) : FVal := fF32.val x.toNat
/-- A value rounded to f32. -/
def roundF32 (x : FVal) (rm : Rnd) (rnd : Nat) : W32 := w32 (x.round fF32 rm false rnd)
/-- `FAddF32(a, b)` (R93). -/
def faddF32 (a b : W32) : W32 := roundF32 ((valF32 a).add .rne (valF32 b)) .rne 0
/-- The bf16 counterpart (R93, R172). -/
def faddBF16 (a b : Nat) : Nat := ((fBF16.val a).add .rne (fBF16.val b)).round fBF16 .rne false 0

/-- The hash step of R87. -/
def mix64 (x : W64) : W64 :=
  let a := (x ^^^ (x >>> 31)) * 0xB4927E3A51C8D6F1
  let b := (a ^^^ (a >>> 29)) * 0x7A3DC5E19F2486B3
  b ^^^ (b >>> 32)

/-- `RsrBits(seed, g, n, k)` (R87). -/
def rsrBits (seed g n k : W64) : Nat := bits (mix64 (mix64 (seed ^^^ g) ^^^ (n <<< 8) ^^^ k)) 63 32

/-- The value of an e8m0 code (R82, R91). -/
def valE8M0 (code : Nat) : FVal := if code % 256 = 0xFF then .canonical else .fin false 1 ((code % 256 : Nat) - 127)

/-- `RoundE8M0(x, rm, sat)` (R422). -/
def roundE8M0 (x : FVal) (rm : Rnd) (sat : Bool) (rnd : Nat) : Nat :=
  match x with
  | .nan _ _ => 0xFF
  | .zero _ => 0
  | .inf _ => if sat then 0xFE else 0xFF
  | .fin _ m e =>
    let (n, d) := fracOf m e
    let k := floorLog2 n d
    if k < -127 then 0
    else
      let (_, rem, den) := scaleDiv n d k
      let up := if rem = 0 then false else match rm with
        | .rne => decide (den < 2 * rem) || (decide (2 * rem = den) && decide ((k + 127) % 2 ≠ 0))
        | .rna => decide (den ≤ 2 * rem)
        | .rtz => false
        | .rdn => false
        | .rup => true
        | .rsr => decide (2 ^ 32 ≤ rem * 2 ^ 32 / den + rnd)
      let k' := if up then k + 1 else k
      if 127 < k' then (if sat then 0xFE else 0xFF) else (k' + 127).toNat

/-- A value times a power of two. -/
def FVal.scale (x : FVal) (k : Int) : FVal :=
  match x with | .fin s m e => .fin s m (e + k) | x => x

/-- `BlockE2M1(x, rm)` (R84): the scale and the codes. `rnds` are the draws of the elements. -/
def blockE2M1 (xs : List FVal) (rm : Rnd) (rnds : List Nat) : Nat × List Nat :=
  let special := xs.any (fun x => match x with | .nan _ _ => true | .inf _ => true | _ => false)
  if special then (0xFF, xs.map (fun _ => 0))
  else
    let amax := xs.foldl (fun a x => if a.lt x.absV then x.absV else a) (.zero false)
    let ex : Int := match amax with
      | .fin _ m e => let (n, d) := fracOf m e; max (-127) (min 127 (floorLog2 n d - 2))
      | _ => 0
    ((ex + 127).toNat, xs.zipIdx.map (fun (x, k) => (x.scale (-ex)).round fE2M1 rm true (tget 0 rnds k)))

/-- The value of element `code` of a block with scale code `sc` (R83). -/
def blockVal (sc code : Nat) : FVal :=
  if sc % 256 = 0xFF then .canonical else (fE2M1.val code).scale ((sc % 256 : Nat) - 127)

/-- The first NaN among values, or the canonical NaN (R88, R93). -/
def nanPick : List FVal → FVal
  | [] => .canonical
  | .nan s p :: _ => .nan s p
  | _ :: t => nanPick t

end Sys2Proof.Machine
end

