-- ==== Sys2Proof/Machine/Hash.lean ====
section
/-! DEFINITION. Where a byte of local HBM lives: the address hash (R319 to R321). -/

namespace Sys2Proof.Machine

/-- The b of R319 for a partition of `n` dies: log2 of its number of stacks. -/
def stackLog (n : Nat) : Nat := if n = 1 then 1 else if n = 2 then 2 else 3

/-- The line index of a physical address within its channel, the Q of R320. -/
def lineInChannel (b pa : Nat) : Nat := pa / 2 ^ (12 + b) % 2 ^ 24

/-- The stack and channel selection of R320. -/
def homeSel (b pa : Nat) : Nat :=
  let q := lineInChannel b pa
  let g := Nat.xor (q % 256) (Nat.xor (q / 256 % 256) (q / 65536 % 256))
  Nat.xor (pa / 128 % 2 ^ (b + 5)) (g % 2 ^ (b + 5))

/-- The channel within its stack (R320). -/
def homeChannel (b pa : Nat) : Nat := homeSel b pa % 32

/-- The stack within the partition (R320). -/
def homeStack (b pa : Nat) : Nat := homeSel b pa / 32

/-- The rotation of a 16-bit value left by `r` (R321). -/
def rotl16 (x r : Nat) : Nat := (x * 2 ^ (r % 16) + x / 2 ^ (16 - r % 16)) % 65536

/-- The mask M(v, i) of R321. -/
def foldMask (v i : Nat) : Nat := if v = 0 then 0 else rotl16 0x0421 (3 * i + 5 * v)

/-- The bank fold F(v, row) of R321. -/
def bankFold (v row : Nat) : Nat :=
  let f i := popcount 16 (Nat.land row (foldMask v i)) % 2
  f 0 + 2 * f 1 + 4 * f 2 + 8 * f 3 + 16 * f 4

/-- The bank B of a line under a hash version (R321): pseudo-channel, bank group and bank in its bits. -/
def bankOf (v b pa : Nat) : Nat :=
  let q := lineInChannel b pa
  Nat.xor (q / 8 % 32) (bankFold v (q / 256 % 65536))

end Sys2Proof.Machine
end

