-- ==== Sys2Proof/Config.lean ====
section
/-! DEFINITION. What an implementation fixes and the values the spec leaves free: opaque constants, of which nothing
can be proved. -/

namespace Sys2Proof.Config

/-- Bytes of the private region that a spilled mask-stack entry takes (R26), and a spilled spawn item (R268): the spec states
neither size. UNVERIFIED, notes/assumptions/6.md. -/
opaque stackEntry : Nat
/-- Bytes of the private region that a spilled spawn item takes (R268). UNVERIFIED, notes/assumptions/6.md. -/
opaque spawnItem : Nat

/-- Where in the private region a spilled mask-stack entry lies (R364), numbered by the state's `tick`. UNVERIFIED,
notes/assumptions/54.md. -/
opaque spillPlace (tick index : Nat) : Nat

/-- A free byte, numbered by the state's `tick` (notes/assumptions/2.md). -/
opaque freeByte (tick index : Nat) : Byte

/-- The module's serial number (R413). -/
opaque serial : W64
/-- The fused rollback counter (R411, R413). -/
opaque rollback : W64
/-- The image that RECOVER names, or none for that of the module flash; its version (R411, R413). -/
opaque imageVersion (image : Option (List Byte)) : W64
/-- Its signature is valid, with a public key that hashes to the fused value (R411). -/
opaque imageSigned (image : Option (List Byte)) : Bool
/-- SHA-384 of the boot ROM (R413): the first 48 bytes. -/
opaque romDigest : List Byte
/-- SHA-384 of the body of an Unfort image (R413): the first 48 bytes. -/
opaque imageDigest (image : Option (List Byte)) : List Byte
/-- The ECDSA signature over bytes 0 to 319 of a report, r then s (R413): the first 96 bytes. -/
opaque sign (report : List Byte) : List Byte
/-- The bytes of the Zenost certificate of the part's public key, in DER form (R412). -/
opaque certificateByte (index : Nat) : Byte
/-- The length of the certificate in bytes, less 1. PRESUMED, notes/assumptions/12.md: at least 1 byte and at most 65,536. -/
opaque certificateSize : BitVec 16
/-- The certificate. -/
def certificate : List Byte := (List.range (certificateSize.toNat + 1)).map certificateByte

/-- The fused bounds of a supply domain, in mV (R419). -/
opaque vlow (domain : Nat) : BitVec 16
/-- The fused upper bound of a supply domain, in mV (R419). -/
opaque vhigh (domain : Nat) : BitVec 16

end Sys2Proof.Config
end

