-- ==== Sys2Proof/Syntax.lean ====
section
/-! DEFINITION. The syntax of the Sorkotos instruction set: one constructor of `Instr` for each row of the
opcode table. An encoded row carries its issue group (R50) and its operand fields (R47); a row that no word
encodes (a step of the part, 95_what_each_step_holds.md) carries what timing or the outside world chooses. -/

namespace Sys2Proof

/-- The prefix word's fields (R53). -/
structure Pfx where
  mask : BitVec 3
  rnd : BitVec 3
  op4 : BitVec 7
  zero : Bool
  sat : Bool
  typ : BitVec 4
  nega : Bool
  negb : Bool
  abs : Bool
  deriving DecidableEq, Repr

/-- The payload of a modifier hint (R60). -/
structure Modifier where
  policy : BitVec 2
  nt : Bool
  line : BitVec 2
  deriving DecidableEq, Repr

/-- What accompanies an instruction word in its group (R50): the stall field, the stall extension, the
`limm` payloads in order, the prefix and the modifier hint. -/
structure Grp where
  stall : BitVec 2
  ext : Option (BitVec 8)
  limms : List (BitVec 24)
  pfx : Option Pfx
  modifier : Option Modifier
  deriving DecidableEq, Repr

/-- The group of a word that stands alone, with the given stall count. -/
def Grp.alone (stall : BitVec 2) : Grp := { stall := stall, ext := none, limms := [], pfx := none, modifier := none }

/-- Operands of the format S3: `sd`, `sa`, `sb` (R47). -/
structure OpS3 where
  (d a b : BitVec 6)
  deriving DecidableEq, Repr

/-- Operands of the format S3 with `sb` = 0 (R47). -/
structure OpS2 where
  (d a : BitVec 6)
  deriving DecidableEq, Repr

/-- Operands of the format S3 with `sd` = 0 (R47). -/
structure OpSR where
  (a b : BitVec 6)
  deriving DecidableEq, Repr

/-- Operands of the format SI (R47). -/
structure OpSI where
  d : BitVec 6
  imm : BitVec 16
  deriving DecidableEq, Repr

/-- Operands of the format B (R47). -/
structure OpFB where
  off : BitVec 20
  deriving DecidableEq, Repr

/-- Operands of the format BS (R47). -/
structure OpFBS where
  a : BitVec 6
  off : BitVec 16
  deriving DecidableEq, Repr

/-- Operands of the format F with a mask and a label (R47). -/
structure OpFIf where
  m : BitVec 3
  off : BitVec 18
  deriving DecidableEq, Repr

/-- Operands of the format F with a label (R47). -/
structure OpFLab where
  off : BitVec 18
  deriving DecidableEq, Repr

/-- Operands of the format F with a mask (R47). -/
structure OpFM where
  m : BitVec 3
  deriving DecidableEq, Repr

/-- Operands of the format C with `sa` (R47). -/
structure OpCA where
  a : BitVec 6
  deriving DecidableEq, Repr

/-- Operands of the format C with `sa` and imm6 (R47). -/
structure OpCAN where
  (a n : BitVec 6)
  deriving DecidableEq, Repr

/-- Operands of the format C with `sa` and a barrier (R47). -/
structure OpCAK where
  a : BitVec 6
  k : BitVec 4
  deriving DecidableEq, Repr

/-- Operands of the format C with `sd` and imm6 (R47). -/
structure OpCDN where
  (d n : BitVec 6)
  deriving DecidableEq, Repr

/-- Operands of the format C with a tile code (R173) (R47). -/
structure OpCT where
  t : BitVec 12
  deriving DecidableEq, Repr

/-- Operands of the format C with `sd` and a tile code (R47). -/
structure OpCDT where
  d : BitVec 6
  t : BitVec 12
  deriving DecidableEq, Repr

/-- Operands of the format C with `sd` (R47). -/
structure OpCD where
  d : BitVec 6
  deriving DecidableEq, Repr

/-- Operands of the format C with a fragment group and `sa` (R204) (R47). -/
structure OpCGA where
  g : BitVec 5
  a : BitVec 6
  deriving DecidableEq, Repr

/-- Operands of the format C with a register tile and an accumulator tile (R204) (R47). -/
structure OpCVK where
  n : BitVec 4
  k : BitVec 6
  deriving DecidableEq, Repr

/-- Operands of the format C with an accumulator tile (R47). -/
structure OpCK where
  k : BitVec 6
  deriving DecidableEq, Repr

/-- Operands of the format C of `trace` (R235) (R47). -/
structure OpCNGK where
  (n g : BitVec 4)
  k : BitVec 6
  deriving DecidableEq, Repr

/-- Operands of the format C of `rast` (R235) (R47). -/
structure OpCNA where
  n : BitVec 4
  a : BitVec 6
  deriving DecidableEq, Repr

/-- Operands of the format C of `callx` (R235) (R47). -/
structure OpCDAN where
  (d a n : BitVec 6)
  deriving DecidableEq, Repr

/-- Operands of the format C of `fence` (R174) (R47). -/
structure OpCFence where
  kind : BitVec 2
  scope : BitVec 3
  deriving DecidableEq, Repr

/-- Operands of the format V3 (R47). -/
structure OpV3 where
  (d a b : BitVec 7)
  deriving DecidableEq, Repr

/-- Operands of the format V3 with vb = 0 (R47). -/
structure OpV2 where
  (d a : BitVec 7)
  deriving DecidableEq, Repr

/-- Operands of the format V3 with va = vb = 0 (R47). -/
structure OpV1 where
  d : BitVec 7
  deriving DecidableEq, Repr

/-- Operands of the format VI (R47). -/
structure OpVI where
  (d a imm : BitVec 7)
  deriving DecidableEq, Repr

/-- Operands of the format V3 or VI with a 5-bit count (R47). -/
structure OpVSh where
  (d a : BitVec 7)
  n : BitVec 5
  deriving DecidableEq, Repr

/-- Operands of the format VI with va = 0 (R47). -/
structure OpVL where
  (d imm : BitVec 7)
  deriving DecidableEq, Repr

/-- Operands of the format V3 with an element selector and a type code (R145) (R47). -/
structure OpVC where
  (d a : BitVec 7)
  sel : BitVec 2
  ty : BitVec 5
  deriving DecidableEq, Repr

/-- Operands of the format V3 of `vwfin` (R150) (R47). -/
structure OpVW where
  (d a : BitVec 7)
  k : Bool
  deriving DecidableEq, Repr

/-- Operands of the format V3 of `vbcast` (R151) (R47). -/
structure OpVB where
  d : BitVec 7
  a : BitVec 6
  deriving DecidableEq, Repr

/-- Operands of the format V3 of `vext` (R151) (R47). -/
structure OpVE where
  d : BitVec 6
  a : BitVec 7
  n : BitVec 5
  deriving DecidableEq, Repr

/-- Operands of the format V3 with a scalar destination (R152) (R47). -/
structure OpVS where
  d : BitVec 6
  a : BitVec 7
  deriving DecidableEq, Repr

/-- Operands of the format V3 with a mask destination (R152) (R47). -/
structure OpVBM where
  k : BitVec 3
  a : BitVec 7
  deriving DecidableEq, Repr

/-- Operands of the format V3 with a reduction operation (R153) (R47). -/
structure OpVR where
  (d a : BitVec 7)
  op : BitVec 3
  deriving DecidableEq, Repr

/-- Operands of the format V3 with a scalar operand in vb (R228, R232) (R47). -/
structure OpVH where
  (d a : BitVec 7)
  b : BitVec 6
  deriving DecidableEq, Repr

/-- Operands of the format M with by = 0 (R47). -/
structure OpM where
  ds : BitVec 7
  sb : BitVec 6
  vo : BitVec 7
  deriving DecidableEq, Repr

/-- Operands of the format M with the bypass bit (R47). -/
structure OpMB where
  byp : Bool
  ds : BitVec 7
  sb : BitVec 6
  vo : BitVec 7
  deriving DecidableEq, Repr

/-- Operands of the format M of `vldl` (R163) (R47). -/
structure OpML where
  byp : Bool
  ds : BitVec 7
  sb : BitVec 6
  n : BitVec 2
  deriving DecidableEq, Repr

/-- Operands of the format M of the prefetches (R165) (R47). -/
structure OpMP where
  sb : BitVec 6
  vo : BitVec 7
  deriving DecidableEq, Repr

/-- Operands of the format X (R47). -/
structure OpX where
  (na nb zc : Bool)
  c : BitVec 6
  (va vb : BitVec 5)
  ext : Bool
  deriving DecidableEq, Repr

/-- The operations that act on a word at its home (R124 to R126, R170, R172). -/
inductive AmoOp where
  | add | minI | maxI | minN | maxN | and | or | xor | xchg | cas | incw | faddb
  | faddF32 | faddBf16x2 | racq | rrel | wacq | wrel
  deriving DecidableEq, Repr

/-- Where the front end takes a launch record from (R255): a host queue of a context, or the device launches
waiting at a die. -/
inductive LaunchSource where
  | host (aspace cls : Nat)
  | device (die : Nat)
  deriving DecidableEq, Repr

/-- What one other member of a collective has sent (R247, R392): its package and partition, its record word
w2, its SRC bytes, whether its group entry's digest agrees, and whether it sent a second command. -/
structure CollPeer where
  package : Nat
  part : Nat
  w2 : W64
  src : List Byte
  digestOk : Bool
  second : Bool
  deriving DecidableEq, Repr

/-- The access of a peer request (R376, R377). -/
inductive PeerAccess where
  | read (size : Nat)
  | write (data : List Byte)
  | atomic (op : AmoOp) (size : Nat) (value compare : W64)
  deriving DecidableEq, Repr

/-- A request that another package sends over the link (R375, R378). -/
structure PeerRequest where
  package : Nat
  part : Nat
  offset : Nat
  access : PeerAccess
  /-- The page has SCENE (R389). -/
  scene : Bool
  tag : Nat
  deriving DecidableEq, Repr

/-- A flit as it arrives at a port (R380, R381, R383): its flow, its sequence number in the flow, whether its
check code is good, and what it carries. -/
structure Flit where
  source : Nat
  dest : Nat
  die : Nat
  cls : BitVec 2
  sequence : Nat
  good : Bool
  payload : List Byte
  deriving DecidableEq, Repr

/-- One health sample (R419). -/
inductive HealthSample where
  | temp (core : Nat) (value : BitVec 12)
  | supply (domain : Nat) (mv : BitVec 16)
  | proc (die : Nat) (count : BitVec 24)
  deriving DecidableEq, Repr

/-- The instructions and steps of the ZNP-7140: one constructor for each row of the opcode table. -/
inductive Instr where
  /-- `SADD` (R100). -/
  | sadd (g : Grp) (o : OpS3)
  /-- `SSUB` (R100). -/
  | ssub (g : Grp) (o : OpS3)
  /-- `SMUL` (R100). -/
  | smul (g : Grp) (o : OpS3)
  /-- `SMULH_I` (R100). -/
  | smulhI (g : Grp) (o : OpS3)
  /-- `SMULH_N` (R100). -/
  | smulhN (g : Grp) (o : OpS3)
  /-- `SDIV_I` (R101). -/
  | sdivI (g : Grp) (o : OpS3)
  /-- `SDIV_N` (R101). -/
  | sdivN (g : Grp) (o : OpS3)
  /-- `SREM_I` (R101). -/
  | sremI (g : Grp) (o : OpS3)
  /-- `SREM_N` (R101). -/
  | sremN (g : Grp) (o : OpS3)
  /-- `SAND` (R100). -/
  | sand (g : Grp) (o : OpS3)
  /-- `SOR` (R100). -/
  | sor (g : Grp) (o : OpS3)
  /-- `SXOR` (R100). -/
  | sxor (g : Grp) (o : OpS3)
  /-- `SANDN` (R100). -/
  | sandn (g : Grp) (o : OpS3)
  /-- `SSHL` (R100). -/
  | sshl (g : Grp) (o : OpS3)
  /-- `SSHR` (R100). -/
  | sshr (g : Grp) (o : OpS3)
  /-- `SSAR` (R100). -/
  | ssar (g : Grp) (o : OpS3)
  /-- `SMIN_I` (R100). -/
  | sminI (g : Grp) (o : OpS3)
  /-- `SMIN_N` (R100). -/
  | sminN (g : Grp) (o : OpS3)
  /-- `SMAX_I` (R100). -/
  | smaxI (g : Grp) (o : OpS3)
  /-- `SMAX_N` (R100). -/
  | smaxN (g : Grp) (o : OpS3)
  /-- `SCMP_EQ` (R100). -/
  | scmpEq (g : Grp) (o : OpS3)
  /-- `SCMP_NE` (R100). -/
  | scmpNe (g : Grp) (o : OpS3)
  /-- `SCMP_LT_I` (R100). -/
  | scmpLtI (g : Grp) (o : OpS3)
  /-- `SCMP_LT_N` (R100). -/
  | scmpLtN (g : Grp) (o : OpS3)
  /-- `SCMP_LE_I` (R100). -/
  | scmpLeI (g : Grp) (o : OpS3)
  /-- `SCMP_LE_N` (R100). -/
  | scmpLeN (g : Grp) (o : OpS3)
  /-- `SSEL` (R100). -/
  | ssel (g : Grp) (o : OpS3)
  /-- `SMOV` (R100). -/
  | smov (g : Grp) (o : OpS2)
  /-- `SCLZ` (R100). -/
  | sclz (g : Grp) (o : OpS2)
  /-- `SCTZ` (R100). -/
  | sctz (g : Grp) (o : OpS2)
  /-- `SPOPC` (R100). -/
  | spopc (g : Grp) (o : OpS2)
  /-- `SBREV` (R100). -/
  | sbrev (g : Grp) (o : OpS2)
  /-- `SBFE_I` (R102). -/
  | sbfeI (g : Grp) (o : OpS3)
  /-- `SBFE_N` (R102). -/
  | sbfeN (g : Grp) (o : OpS3)
  /-- `SBFI` (R102). -/
  | sbfi (g : Grp) (o : OpS3)
  /-- `SADR_1` (R100). -/
  | sadr1 (g : Grp) (o : OpS3)
  /-- `SADR_2` (R100). -/
  | sadr2 (g : Grp) (o : OpS3)
  /-- `SADR_3` (R100). -/
  | sadr3 (g : Grp) (o : OpS3)
  /-- `SXT_I8` (R100). -/
  | sxtI8 (g : Grp) (o : OpS2)
  /-- `SXT_I16` (R100). -/
  | sxtI16 (g : Grp) (o : OpS2)
  /-- `SXT_I32` (R100). -/
  | sxtI32 (g : Grp) (o : OpS2)
  /-- `SXT_N8` (R100). -/
  | sxtN8 (g : Grp) (o : OpS2)
  /-- `SXT_N16` (R100). -/
  | sxtN16 (g : Grp) (o : OpS2)
  /-- `SXT_N32` (R100). -/
  | sxtN32 (g : Grp) (o : OpS2)
  /-- `SLI` (R103). -/
  | sli (g : Grp) (o : OpSI)
  /-- `SLUI` (R103). -/
  | slui (g : Grp) (o : OpSI)
  /-- `SADDI` (R103). -/
  | saddi (g : Grp) (o : OpSI)
  /-- `SANDI` (R103). -/
  | sandi (g : Grp) (o : OpSI)
  /-- `SLD_8` (R123). -/
  | sld8 (g : Grp) (o : OpS3)
  /-- `SLD_16` (R123). -/
  | sld16 (g : Grp) (o : OpS3)
  /-- `SLD_32` (R123). -/
  | sld32 (g : Grp) (o : OpS3)
  /-- `SLD_64` (R123). -/
  | sld64 (g : Grp) (o : OpS3)
  /-- `SST_8` (R123). -/
  | sst8 (g : Grp) (o : OpS3)
  /-- `SST_16` (R123). -/
  | sst16 (g : Grp) (o : OpS3)
  /-- `SST_32` (R123). -/
  | sst32 (g : Grp) (o : OpS3)
  /-- `SST_64` (R123). -/
  | sst64 (g : Grp) (o : OpS3)
  /-- `SAMO_ADD` (R124). -/
  | samoAdd (g : Grp) (o : OpS3)
  /-- `SAMO_MIN_I` (R124). -/
  | samoMinI (g : Grp) (o : OpS3)
  /-- `SAMO_MAX_I` (R124). -/
  | samoMaxI (g : Grp) (o : OpS3)
  /-- `SAMO_MIN_N` (R124). -/
  | samoMinN (g : Grp) (o : OpS3)
  /-- `SAMO_MAX_N` (R124). -/
  | samoMaxN (g : Grp) (o : OpS3)
  /-- `SAMO_AND` (R124). -/
  | samoAnd (g : Grp) (o : OpS3)
  /-- `SAMO_OR` (R124). -/
  | samoOr (g : Grp) (o : OpS3)
  /-- `SAMO_XOR` (R124). -/
  | samoXor (g : Grp) (o : OpS3)
  /-- `SAMO_XCHG` (R124). -/
  | samoXchg (g : Grp) (o : OpS3)
  /-- `SAMO_CAS` (R124). -/
  | samoCas (g : Grp) (o : OpS3)
  /-- `SAMO_INCW` (R124). -/
  | samoIncw (g : Grp) (o : OpS3)
  /-- `SAMO_FADDB` (R124). -/
  | samoFaddb (g : Grp) (o : OpS3)
  /-- `SRWL_RACQ` (R125). -/
  | srwlRacq (g : Grp) (o : OpS2)
  /-- `SRWL_RREL` (R125). -/
  | srwlRrel (g : Grp) (o : OpS2)
  /-- `SRWL_WACQ` (R125). -/
  | srwlWacq (g : Grp) (o : OpS3)
  /-- `SRWL_WREL` (R125). -/
  | srwlWrel (g : Grp) (o : OpS2)
  /-- `SRED_ADD` (R126). -/
  | sredAdd (g : Grp) (o : OpSR)
  /-- `SRED_ADD_F32` (R126). -/
  | sredAddF32 (g : Grp) (o : OpSR)
  /-- `BR` (R104). -/
  | br (g : Grp) (o : OpFB)
  /-- `CALL` (R104). -/
  | call (g : Grp) (o : OpFB)
  /-- `BRZ` (R104). -/
  | brz (g : Grp) (o : OpFBS)
  /-- `BRNZ` (R104). -/
  | brnz (g : Grp) (o : OpFBS)
  /-- `BRN` (R104). -/
  | brn (g : Grp) (o : OpFBS)
  /-- `BRNN` (R104). -/
  | brnn (g : Grp) (o : OpFBS)
  /-- `RET` (R105). -/
  | ret (g : Grp) (o : OpCA)
  /-- `END` (R116). -/
  | opEnd (g : Grp)
  /-- `STEP` (R114). -/
  | step (g : Grp) (o : OpCAN)
  /-- `BAR` (R115). -/
  | bar (g : Grp) (o : OpCAK)
  /-- `TRAP` (R117). -/
  | trap (g : Grp) (o : OpCDN)
  /-- `SPAWN` (R118). -/
  | spawn (g : Grp) (o : OpCAN)
  /-- `LAUNCH` (R119). -/
  | launch (g : Grp) (o : OpCA)
  /-- `SRD` (R121). -/
  | srd (g : Grp) (o : OpCDN)
  /-- `SWR` (R121). -/
  | swr (g : Grp) (o : OpCAN)
  /-- `IF` (R109). -/
  | opIf (g : Grp) (o : OpFIf)
  /-- `ELSE` (R109). -/
  | opElse (g : Grp) (o : OpFLab)
  /-- `ENDIF` (R109). -/
  | endif (g : Grp)
  /-- `LOOP` (R109). -/
  | loop (g : Grp) (o : OpFLab)
  /-- `BRK` (R109). -/
  | brk (g : Grp) (o : OpFM)
  /-- `NXT` (R109). -/
  | nxt (g : Grp) (o : OpFM)
  /-- `ENDL` (R109). -/
  | endl (g : Grp) (o : OpFLab)
  /-- `VADD` (R134). -/
  | vadd (g : Grp) (o : OpV3)
  /-- `VSUB` (R134). -/
  | vsub (g : Grp) (o : OpV3)
  /-- `VMUL` (R134). -/
  | vmul (g : Grp) (o : OpV3)
  /-- `VMULH` (R134). -/
  | vmulh (g : Grp) (o : OpV3)
  /-- `VMAD` (R134). -/
  | vmad (g : Grp) (o : OpV3)
  /-- `VMIN` (R134). -/
  | vmin (g : Grp) (o : OpV3)
  /-- `VMAX` (R134). -/
  | vmax (g : Grp) (o : OpV3)
  /-- `VABS` (R134). -/
  | vabs (g : Grp) (o : OpV2)
  /-- `VAND` (R135). -/
  | vand (g : Grp) (o : OpV3)
  /-- `VOR` (R135). -/
  | vor (g : Grp) (o : OpV3)
  /-- `VXOR` (R135). -/
  | vxor (g : Grp) (o : OpV3)
  /-- `VANDN` (R135). -/
  | vandn (g : Grp) (o : OpV3)
  /-- `VSHL` (R135). -/
  | vshl (g : Grp) (o : OpV3)
  /-- `VSHR` (R135). -/
  | vshr (g : Grp) (o : OpV3)
  /-- `VSAR` (R135). -/
  | vsar (g : Grp) (o : OpV3)
  /-- `VSEL` (R135). -/
  | vsel (g : Grp) (o : OpV3)
  /-- `VCLZ` (R136). -/
  | vclz (g : Grp) (o : OpV2)
  /-- `VCTZ` (R136). -/
  | vctz (g : Grp) (o : OpV2)
  /-- `VFFS` (R136). -/
  | vffs (g : Grp) (o : OpV2)
  /-- `VPOPC` (R136). -/
  | vpopc (g : Grp) (o : OpV2)
  /-- `VBREV` (R136). -/
  | vbrev (g : Grp) (o : OpV2)
  /-- `VBFE` (R137). -/
  | vbfe (g : Grp) (o : OpV3)
  /-- `VBFI` (R137). -/
  | vbfi (g : Grp) (o : OpV3)
  /-- `VDP4` (R138). -/
  | vdp4 (g : Grp) (o : OpV3)
  /-- `VCMP_EQ` (R139). -/
  | vcmpEq (g : Grp) (o : OpV3)
  /-- `VCMP_NE` (R139). -/
  | vcmpNe (g : Grp) (o : OpV3)
  /-- `VCMP_LT` (R139). -/
  | vcmpLt (g : Grp) (o : OpV3)
  /-- `VCMP_LE` (R139). -/
  | vcmpLe (g : Grp) (o : OpV3)
  /-- `VCMP_GT` (R139). -/
  | vcmpGt (g : Grp) (o : OpV3)
  /-- `VCMP_GE` (R139). -/
  | vcmpGe (g : Grp) (o : OpV3)
  /-- `VDP2` (R138). -/
  | vdp2 (g : Grp) (o : OpV3)
  /-- `VMOV` (R139). -/
  | vmov (g : Grp) (o : OpV2)
  /-- `VFADD` (R141). -/
  | vfadd (g : Grp) (o : OpV3)
  /-- `VFSUB` (R141). -/
  | vfsub (g : Grp) (o : OpV3)
  /-- `VFMUL` (R141). -/
  | vfmul (g : Grp) (o : OpV3)
  /-- `VFMA` (R141). -/
  | vfma (g : Grp) (o : OpV3)
  /-- `VFNMA` (R141). -/
  | vfnma (g : Grp) (o : OpV3)
  /-- `VFMIN` (R142). -/
  | vfmin (g : Grp) (o : OpV3)
  /-- `VFMAX` (R142). -/
  | vfmax (g : Grp) (o : OpV3)
  /-- `VFABS` (R141). -/
  | vfabs (g : Grp) (o : OpV2)
  /-- `VFCMP_EQ` (R143). -/
  | vfcmpEq (g : Grp) (o : OpV3)
  /-- `VFCMP_LT` (R143). -/
  | vfcmpLt (g : Grp) (o : OpV3)
  /-- `VFCMP_LE` (R143). -/
  | vfcmpLe (g : Grp) (o : OpV3)
  /-- `VFCMP_UN` (R143). -/
  | vfcmpUn (g : Grp) (o : OpV3)
  /-- `VFCLASS` (R143). -/
  | vfclass (g : Grp) (o : OpV2)
  /-- `VFRND` (R143). -/
  | vfrnd (g : Grp) (o : OpV2)
  /-- `VFNEG` (R143). -/
  | vfneg (g : Grp) (o : OpV2)
  /-- `VFCPSGN` (R143). -/
  | vfcpsgn (g : Grp) (o : OpV3)
  /-- `VFMIN_NAN` (R142). -/
  | vfminNan (g : Grp) (o : OpV3)
  /-- `VFMAX_NAN` (R142). -/
  | vfmaxNan (g : Grp) (o : OpV3)
  /-- `VFDOT2` (R144). -/
  | vfdot2 (g : Grp) (o : OpV3)
  /-- `VFSCL` (R144). -/
  | vfscl (g : Grp) (o : OpV3)
  /-- `VFEXP` (R144). -/
  | vfexp (g : Grp) (o : OpV2)
  /-- `VFMANT` (R144). -/
  | vfmant (g : Grp) (o : OpV2)
  /-- `VFLERP` (R144). -/
  | vflerp (g : Grp) (o : OpV3)
  /-- `VCVT_F` (R145). -/
  | vcvtF (g : Grp) (o : OpVC)
  /-- `VCVT_I` (R145). -/
  | vcvtI (g : Grp) (o : OpVC)
  /-- `VCVT_N` (R145). -/
  | vcvtN (g : Grp) (o : OpVC)
  /-- `VCVT_PK16` (R145). -/
  | vcvtPk16 (g : Grp) (o : OpV3)
  /-- `VCVT_PK8` (R145). -/
  | vcvtPk8 (g : Grp) (o : OpV3)
  /-- `VCVT_UNPK` (R145). -/
  | vcvtUnpk (g : Grp) (o : OpVC)
  /-- `VCVT_BS` (R146). -/
  | vcvtBs (g : Grp) (o : OpV2)
  /-- `VRCP` (R147). -/
  | vrcp (g : Grp) (o : OpV2)
  /-- `VRSQ` (R147). -/
  | vrsq (g : Grp) (o : OpV2)
  /-- `VSQRT` (R147). -/
  | vsqrt (g : Grp) (o : OpV2)
  /-- `VEXP2` (R147). -/
  | vexp2 (g : Grp) (o : OpV2)
  /-- `VLOG2` (R147). -/
  | vlog2 (g : Grp) (o : OpV2)
  /-- `VSINP` (R147). -/
  | vsinp (g : Grp) (o : OpV2)
  /-- `VCOSP` (R147). -/
  | vcosp (g : Grp) (o : OpV2)
  /-- `VTANH` (R147). -/
  | vtanh (g : Grp) (o : OpV2)
  /-- `VCMUL` (R149). -/
  | vcmul (g : Grp) (o : OpV3)
  /-- `VCFMA` (R149). -/
  | vcfma (g : Grp) (o : OpV3)
  /-- `VCCONJ` (R149). -/
  | vcconj (g : Grp) (o : OpV3)
  /-- `VCABS2` (R149). -/
  | vcabs2 (g : Grp) (o : OpV3)
  /-- `VWELF` (R150). -/
  | vwelf (g : Grp) (o : OpV2)
  /-- `VWMRG` (R150). -/
  | vwmrg (g : Grp) (o : OpV2)
  /-- `VWFIN` (R150). -/
  | vwfin (g : Grp) (o : OpVW)
  /-- `VLI` (R140). -/
  | vli (g : Grp) (o : OpVL)
  /-- `VADDI` (R140). -/
  | vaddi (g : Grp) (o : OpVI)
  /-- `VANDI` (R140). -/
  | vandi (g : Grp) (o : OpVI)
  /-- `VORI` (R140). -/
  | vori (g : Grp) (o : OpVI)
  /-- `VXORI` (R140). -/
  | vxori (g : Grp) (o : OpVI)
  /-- `VSHLI` (R140). -/
  | vshli (g : Grp) (o : OpVSh)
  /-- `VSHRI` (R140). -/
  | vshri (g : Grp) (o : OpVSh)
  /-- `VSARI` (R140). -/
  | vsari (g : Grp) (o : OpVSh)
  /-- `VSHFL_IDX` (R151). -/
  | vshflIdx (g : Grp) (o : OpV3)
  /-- `VSHFL_UP` (R151). -/
  | vshflUp (g : Grp) (o : OpVSh)
  /-- `VSHFL_DN` (R151). -/
  | vshflDn (g : Grp) (o : OpVSh)
  /-- `VSHFL_XOR` (R151). -/
  | vshflXor (g : Grp) (o : OpVSh)
  /-- `VXSEL` (R151). -/
  | vxsel (g : Grp) (o : OpV3)
  /-- `VBCAST` (R151). -/
  | vbcast (g : Grp) (o : OpVB)
  /-- `VLANE` (R151). -/
  | vlane (g : Grp) (o : OpV1)
  /-- `VEXT` (R151). -/
  | vext (g : Grp) (o : OpVE)
  /-- `VVOTE_ANY` (R152). -/
  | vvoteAny (g : Grp) (o : OpVS)
  /-- `VVOTE_ALL` (R152). -/
  | vvoteAll (g : Grp) (o : OpVS)
  /-- `VVOTE_UNI` (R152). -/
  | vvoteUni (g : Grp) (o : OpVS)
  /-- `VBALLOT` (R152). -/
  | vballot (g : Grp) (o : OpVS)
  /-- `VBALLOT_MASK` (R152). -/
  | vballotMask (g : Grp) (o : OpVBM)
  /-- `VREDUX` (R153). -/
  | vredux (g : Grp) (o : OpVR)
  /-- `VSCAN_IN` (R154). -/
  | vscanIn (g : Grp) (o : OpVR)
  /-- `VSCAN_EX` (R154). -/
  | vscanEx (g : Grp) (o : OpVR)
  /-- `VMATCH` (R155). -/
  | vmatch (g : Grp) (o : OpV2)
  /-- `VLD_8` (R160). -/
  | vld8 (g : Grp) (o : OpMB)
  /-- `VLD_8S` (R160). -/
  | vld8s (g : Grp) (o : OpMB)
  /-- `VLD_16` (R160). -/
  | vld16 (g : Grp) (o : OpMB)
  /-- `VLD_16S` (R160). -/
  | vld16s (g : Grp) (o : OpMB)
  /-- `VLD_32` (R160). -/
  | vld32 (g : Grp) (o : OpMB)
  /-- `VLD_64` (R160). -/
  | vld64 (g : Grp) (o : OpMB)
  /-- `VLD_128` (R160). -/
  | vld128 (g : Grp) (o : OpMB)
  /-- `VST_8` (R166). -/
  | vst8 (g : Grp) (o : OpM)
  /-- `VST_16` (R166). -/
  | vst16 (g : Grp) (o : OpM)
  /-- `VST_32` (R166). -/
  | vst32 (g : Grp) (o : OpM)
  /-- `VST_64` (R166). -/
  | vst64 (g : Grp) (o : OpM)
  /-- `VST_128` (R166). -/
  | vst128 (g : Grp) (o : OpM)
  /-- `VLDL` (R163). -/
  | vldl (g : Grp) (o : OpML)
  /-- `VLDG` (R164). -/
  | vldg (g : Grp) (o : OpM)
  /-- `PREF_L1` (R165). -/
  | prefL1 (g : Grp) (o : OpMP)
  /-- `PREF_L2` (R165). -/
  | prefL2 (g : Grp) (o : OpMP)
  /-- `VLSP_8` (R168). -/
  | vlsp8 (g : Grp) (o : OpM)
  /-- `VLSP_32` (R168). -/
  | vlsp32 (g : Grp) (o : OpM)
  /-- `VLSP_64` (R168). -/
  | vlsp64 (g : Grp) (o : OpM)
  /-- `VLSP_128` (R168). -/
  | vlsp128 (g : Grp) (o : OpM)
  /-- `VSSP_8` (R169). -/
  | vssp8 (g : Grp) (o : OpM)
  /-- `VSSP_32` (R169). -/
  | vssp32 (g : Grp) (o : OpM)
  /-- `VSSP_64` (R169). -/
  | vssp64 (g : Grp) (o : OpM)
  /-- `VSSP_128` (R169). -/
  | vssp128 (g : Grp) (o : OpM)
  /-- `VAMO_ADD` (R171). -/
  | vamoAdd (g : Grp) (o : OpM)
  /-- `VAMO_MIN` (R170). -/
  | vamoMin (g : Grp) (o : OpM)
  /-- `VAMO_MAX` (R170). -/
  | vamoMax (g : Grp) (o : OpM)
  /-- `VAMO_AND` (R170). -/
  | vamoAnd (g : Grp) (o : OpM)
  /-- `VAMO_OR` (R170). -/
  | vamoOr (g : Grp) (o : OpM)
  /-- `VAMO_XOR` (R170). -/
  | vamoXor (g : Grp) (o : OpM)
  /-- `VAMO_XCHG` (R170). -/
  | vamoXchg (g : Grp) (o : OpM)
  /-- `VAMO_CAS` (R170). -/
  | vamoCas (g : Grp) (o : OpM)
  /-- `VAMO_INCW` (R170). -/
  | vamoIncw (g : Grp) (o : OpM)
  /-- `VAMO_FADDB` (R170). -/
  | vamoFaddb (g : Grp) (o : OpM)
  /-- `VAMO_FADD_F32` (R170). -/
  | vamoFaddF32 (g : Grp) (o : OpM)
  /-- `VRED_ADD` (R172). -/
  | vredAdd (g : Grp) (o : OpM)
  /-- `VRED_ADD_F32` (R172). -/
  | vredAddF32 (g : Grp) (o : OpM)
  /-- `VRED_ADD_BF16X2` (R172). -/
  | vredAddBf16x2 (g : Grp) (o : OpM)
  /-- `VRED_MIN` (R172). -/
  | vredMin (g : Grp) (o : OpM)
  /-- `VRED_MAX` (R172). -/
  | vredMax (g : Grp) (o : OpM)
  /-- `VRED_AND` (R172). -/
  | vredAnd (g : Grp) (o : OpM)
  /-- `VRED_OR` (R172). -/
  | vredOr (g : Grp) (o : OpM)
  /-- `VRED_XOR` (R172). -/
  | vredXor (g : Grp) (o : OpM)
  /-- `FENCE` (R174). -/
  | fence (g : Grp) (o : OpCFence)
  /-- `TREL` (R175). -/
  | trel (g : Grp) (o : OpCT)
  /-- `TFE_SET` (R176). -/
  | tfeSet (g : Grp) (o : OpCT)
  /-- `TFE_CLR` (R176). -/
  | tfeClr (g : Grp) (o : OpCT)
  /-- `TSTAT` (R177). -/
  | tstat (g : Grp) (o : OpCDT)
  /-- `CBDEF` (R178). -/
  | cbdef (g : Grp) (o : OpCDT)
  /-- `CBREL` (R179). -/
  | cbrel (g : Grp) (o : OpCDT)
  /-- `MBAT` (R208). -/
  | mbat (g : Grp) (o : OpCD)
  /-- `MMA_F16` (R190). -/
  | mmaF16 (g : Grp) (o : OpX)
  /-- `MMA_BF16` (R190). -/
  | mmaBf16 (g : Grp) (o : OpX)
  /-- `MMA_E4M3` (R190). -/
  | mmaE4m3 (g : Grp) (o : OpX)
  /-- `MMA_E5M2` (R190). -/
  | mmaE5m2 (g : Grp) (o : OpX)
  /-- `MMA_E2M1` (R190). -/
  | mmaE2m1 (g : Grp) (o : OpX)
  /-- `MMA_I8` (R190). -/
  | mmaI8 (g : Grp) (o : OpX)
  /-- `MMA_F32` (R190). -/
  | mmaF32 (g : Grp) (o : OpX)
  /-- `SMMA_F16` (R197). -/
  | smmaF16 (g : Grp) (o : OpX)
  /-- `SMMA_BF16` (R197). -/
  | smmaBf16 (g : Grp) (o : OpX)
  /-- `SMMA_E4M3` (R197). -/
  | smmaE4m3 (g : Grp) (o : OpX)
  /-- `SMMA_I8` (R197). -/
  | smmaI8 (g : Grp) (o : OpX)
  /-- `MLD` (R205). -/
  | mld (g : Grp) (o : OpCGA)
  /-- `MLDT` (R205). -/
  | mldt (g : Grp) (o : OpCGA)
  /-- `MRD` (R206). -/
  | mrd (g : Grp) (o : OpCVK)
  /-- `MWR` (R206). -/
  | mwr (g : Grp) (o : OpCVK)
  /-- `MZERO` (R207). -/
  | mzero (g : Grp) (o : OpCK)
  /-- `CPY` (R217). -/
  | cpy (g : Grp) (o : OpCA)
  /-- `CPYG` (R222). -/
  | cpyg (g : Grp) (o : OpCA)
  /-- `CPYST` (R223). -/
  | cpyst (g : Grp) (o : OpCA)
  /-- `SORT` (R226). -/
  | sort (g : Grp) (o : OpCA)
  /-- `SORTR` (R227). -/
  | sortr (g : Grp) (o : OpCA)
  /-- `TRACE` (R238). -/
  | trace (g : Grp) (o : OpCNGK)
  /-- `RAST` (R245). -/
  | rast (g : Grp) (o : OpCNA)
  /-- `CALLX` (R243). -/
  | callx (g : Grp) (o : OpCDAN)
  /-- `RETX` (R244). -/
  | retx (g : Grp) (o : OpCAN)
  /-- `HITRET` (R241). -/
  | hitret (g : Grp) (o : OpCA)
  /-- `HGRID` (R230). -/
  | hgrid (g : Grp) (o : OpVH)
  /-- `HGRAD` (R231). -/
  | hgrad (g : Grp) (o : OpVH)
  /-- `CMPS` (R233). -/
  | cmps (g : Grp) (o : OpVH)
  /-- `CMPSB` (R234). -/
  | cmpsb (g : Grp) (o : OpVH)
  /-- `COLL` (R246). -/
  | coll (g : Grp) (o : OpCA)
  /-- `HINT_NOP` (R58). -/
  | hintNop
  /-- `HINT_YIELD` (R58). -/
  | hintYield (n : BitVec 8)
  /-- `HINT_BOOST` (R58). -/
  | hintBoost (n : BitVec 8)
  /-- `HINT_SLOT` (R58). -/
  | hintSlot (slotB : Bool)
  /-- `YIELD_EXPIRY` (R58). -/
  | yieldExpiry (gang : Nat) (slotB : Bool)
  /-- `BOOST_EXPIRY` (R58). -/
  | boostExpiry (gang : Nat) (slotB : Bool)
  /-- `LOAD_RESPONSE` (R161). -/
  | loadResponse (gang index : Nat) (fromL1 : Bool)
  /-- `STEP_DISPATCH` (R182). -/
  | stepDispatch (gang : Nat)
  /-- `WATCH_PERIODIC_TEST` (R182). -/
  | watchPeriodicTest (die : Nat)
  /-- `QUANTUM_COMMIT` (R302). -/
  | quantumCommit (launch crew : Nat)
  /-- `CREW_PLACEMENT` (R262). -/
  | crewPlacement (launch crew : Nat)
  /-- `CREW_RELEASE` (R264). -/
  | crewRelease (launch crew : Nat)
  /-- `SPAWN_ITEM_PLACEMENT` (R268). -/
  | spawnItemPlacement (die core slot : Nat)
  /-- `REGROUPED_GANG_ISSUE` (R269). -/
  | regroupedGangIssue (die index core slot : Nat)
  /-- `REGROUP_TIMEOUT` (R269). -/
  | regroupTimeout (die index core slot : Nat)
  /-- `SLOT_AGED` (R271). -/
  | slotAged (gang : Nat) (slotB : Bool)
  /-- `MATRIX_OPERATION_START` (R198). -/
  | matrixOperationStart (core : Nat)
  /-- `MATRIX_OPERATION_COMPLETION` (R201). -/
  | matrixOperationCompletion (core op : Nat)
  /-- `PREEMPTION_POINT` (R202). -/
  | preemptionPoint (core op : Nat)
  /-- `COPY_COMMAND_START` (R219). -/
  | copyCommandStart (core command : Nat)
  /-- `STASH_OCCUPANCY_RETRY` (R403). -/
  | stashOccupancyRetry (core command : Nat)
  /-- `COPY_COMPLETION` (R220). -/
  | copyCompletion (core command : Nat)
  /-- `CPYST_COMPLETION` (R223). -/
  | cpystCompletion (core command : Nat)
  /-- `SORT_COMMAND_START` (R225). -/
  | sortCommandStart (die : Nat)
  /-- `SORT_COMMAND_COMPLETION` (R226). -/
  | sortCommandCompletion (die : Nat)
  /-- `TRACE_COMPLETION` (R238). -/
  | traceCompletion (command : Nat)
  /-- `RAST_COMPLETION` (R245). -/
  | rastCompletion (command : Nat)
  /-- `COLL_INSTANCE_START` (R392). -/
  | collInstanceStart (part : Nat) (group : Nat) (seq : W32) (peers : List CollPeer)
  /-- `COLL_COMPLETION` (R247). -/
  | collCompletion (part command : Nat)
  /-- `COLL_WITHDRAWAL` (R392). -/
  | collWithdrawal (part group : Nat) (seq : W32)
  /-- `COLL_ROUTE_LOST` (R392). -/
  | collRouteLost (part command : Nat)
  /-- `LAUNCH_DOORBELL` (R396). -/
  | launchDoorbell (part aspace cls : Nat) (prod : W32)
  /-- `LAUNCH_RECORD_ACCEPTANCE` (R257). -/
  | launchRecordAcceptance (part : Nat) (source : LaunchSource)
  /-- `LAUNCH_COMPLETION` (R258). -/
  | launchCompletion (launch : Nat)
  /-- `PREEMPTION_REQUEST` (R282). -/
  | preemptionRequest (part aspace : Nat)
  /-- `PREEMPTION_RESUME` (R285). -/
  | preemptionResume (part aspace : Nat)
  /-- `DISCARD_GROUP_JUDGEMENT` (R282). -/
  | discardGroupJudgement (launch crew : Nat)
  /-- `PREEMPTION_COMPLETION` (R284). -/
  | preemptionCompletion (part aspace : Nat)
  /-- `CONFLICT_WINDOW_END` (R322): the conflicts that are latched. -/
  | conflictWindowEnd (channel conflicts : Nat)
  /-- `REMAP_GO` (R322). -/
  | remapGo (channel : Nat) (target : BitVec 3)
  /-- `REMAP_START` (R323). -/
  | remapStart (channel : Nat)
  /-- `ROW_SET_MOVE` (R323). -/
  | rowSetMove (channel : Nat)
  /-- `GATHER_PACKET` (R326). -/
  | gatherPacket (gang index packet : Nat)
  /-- `HOME_ATOMIC_OPERATION` (R327). -/
  | homeAtomicOperation (index : Nat)
  /-- `ECC_COUNTER_CLEAR` (R329). -/
  | eccCounterClear (stack : Nat)
  /-- `ECC_ADDRESS_VALID_CLEAR` (R329). -/
  | eccAddressValidClear (stack : Nat)
  /-- `SCRUB_READ` (R330). -/
  | scrubRead (channel : Nat)
  /-- `SCRUB_DEADLINE_MISSED` (R330). -/
  | scrubDeadlineMissed (channel : Nat)
  /-- `ACCESS_COUNT_NOTIFICATION` (R332). -/
  | accessCountNotification (stack region : Nat)
  /-- `ACCESS_COUNTER_CLEAR` (R332). -/
  | accessCounterClear (part : Nat)
  /-- `PAGE_WALK` (R340). -/
  | pageWalk (part die aspace : Nat) (va : W64)
  /-- `ATS_TRANSLATION_COMPLETION` (R344). -/
  | atsTranslationCompletion (part index hostPage : Nat) (readOk writeOk : Bool)
  /-- `PAGE_REQUEST_RESPONSE` (R344). -/
  | pageRequestResponse (part index : Nat) (success : Bool)
  /-- `INVALIDATION_REQUEST` (R344). -/
  | invalidationRequest (part pasid : Nat) (va : W64) (logsz : Nat)
  /-- `FAULT_HOLD_WRITE` (R348). -/
  | faultHoldWrite (part die : Nat)
  /-- `FLT_RESP_REPLAY` (R349). -/
  | fltRespReplay (part : Nat) (seq : W32)
  /-- `FLT_RESP_REQUEUE` (R351). -/
  | fltRespRequeue (part : Nat) (seq : W32)
  /-- `FLT_RESP_ABORT` (R349). -/
  | fltRespAbort (part : Nat) (seq : W32)
  /-- `UNFORT_FAULT_HANDLING` (R353). -/
  | unfortFaultHandling (part : Nat)
  /-- `SHOOTDOWN` (R354). -/
  | shootdown (part : Nat) (value : W64)
  /-- `SHOOTDOWN_COMPLETION` (R354). -/
  | shootdownCompletion (part : Nat)
  /-- `SQUALL_ASSERTION` (R355). -/
  | squallAssertion (part : Nat)
  /-- `UNIT_STOP` (R355). -/
  | unitStop (part die unit skid inflight : Nat)
  /-- `TEARDOWN` (R360). -/
  | teardown (part : Nat)
  /-- `SQUALL_RELEASE` (R359). -/
  | squallRelease (part : Nat)
  /-- `KILL` (R359). -/
  | kill (part aspace : Nat)
  /-- `TORN` (R361). -/
  | torn (gang : Nat)
  /-- `PEER_REQUEST` (R378). -/
  | peerRequest (request : PeerRequest)
  /-- `PEER_REFUSAL` (R375). -/
  | peerRefusal (gang index : Nat)
  /-- `FLIT_RECEPTION` (R381). -/
  | flitReception (port : Nat) (flit : Flit)
  /-- `FLIT_REPLAY` (R381): the place in the replay buffer of the flit that is resent first. -/
  | flitReplay (port place : Nat)
  /-- `PORT_RETRAIN` (R381). -/
  | portRetrain (port : Nat) (success : Bool) (peer : Nat)
  /-- `PORT_DOWN` (R381). -/
  | portDown (port : Nat)
  /-- `RAY_DELEGATION_RECORD` (R386). -/
  | rayDelegationRecord (part die source : Nat) (record : List W64)
  /-- `RAY_ANSWER_RECORD` (R386). -/
  | rayAnswerRecord (part source : Nat) (record : List W64)
  /-- `RAY_CANDIDATE_RECORD` (R366). -/
  | rayCandidateRecord (part source : Nat) (record : List W64)
  /-- `CANDIDATE_ANSWER_RECORD` (R387). -/
  | candidateAnswerRecord (part : Nat) (record : List W64)
  /-- `SCENE_INVALIDATION` (R389). -/
  | sceneInvalidation (line : Nat)
  /-- `SCENE_INVALIDATION_ACK` (R389). -/
  | sceneInvalidationAck (index member : Nat)
  /-- `HOST_BAR2_READ` (R396). -/
  | hostBar2Read (function offset size : Nat)
  /-- `HOST_BAR2_WRITE` (R396). -/
  | hostBar2Write (function offset : Nat) (data : List Byte)
  /-- `ATOMICOP_REQUEST` (R394). -/
  | atomicopRequest (function tag : Nat)
  /-- `FUNDAMENTAL_RESET` (R410). -/
  | fundamentalReset
  /-- `FUNCTION_LEVEL_RESET` (R410). -/
  | functionLevelReset (function : Nat)
  /-- `PREPMAP` (R414). -/
  | prepmap (function : Nat)
  /-- `UNMAP` (R414). -/
  | unmap (function : Nat)
  /-- `ATTEST` (R413). -/
  | attest (function : Nat)
  /-- `CERT` (R412). -/
  | cert (function : Nat)
  /-- `RECOVER` (R411). -/
  | recover (function : Nat) (imageOk : Bool)
  /-- `PARTCFG` (R415). -/
  | partcfg (function : Nat)
  /-- `PARTGET` (R414). -/
  | partget (function : Nat)
  /-- `MAILBOX_ACK` (R414). -/
  | mailboxAck (function : Nat)
  /-- `HEALTH_SAMPLE` (R419). -/
  | healthSample (sample : HealthSample)
  /-- `VMON_FLAG_CLEAR` (R419). -/
  | vmonFlagClear (domain : Nat) (low high : Bool)
  /-- `CLOCK_THROTTLE` (R420). -/
  | clockThrottle (reason : BitVec 3)
  /-- `CLOCK_RESTORE` (R420). -/
  | clockRestore
  /-- `THERMAL_TRIP` (R420). -/
  | thermalTrip
  /-- `REGISTER_WRITE` (R13). -/
  | registerWrite (function offset : Nat) (value : W64)
  /-- `ILLEGAL_OP` (R46). -/
  | illegalOp
  /-- `RESULT_LANDING` (R63). -/
  | resultLanding (gang flight : Nat)
  /-- `PEER_ACKNOWLEDGEMENT` (R312). -/
  | peerAcknowledgement (launch crew package : Nat)
  /-- `FLUSHING_READ_COMPLETION` (R312). -/
  | flushingReadCompletion (launch crew : Nat)
  /-- `BOOT_PHASE_COMPLETION` (R411). -/
  | bootPhaseCompletion (success : Bool) (code : BitVec 4)
  deriving DecidableEq, Repr

end Sys2Proof
end

