-- ==== Sys2Proof/WellFormed.lean ====
section
/-! DEFINITION. Well-formed instructions: which prefix fields, `limm` words and modifier hints each instruction
accepts, and the operand limits that decoding checks (R51, R54, R56, R59, R60, R98, R113, R133, R145, R157, R173,
R184, R210, R228, R232, R235). A group that breaks one of these is the fault `ILLEGAL_OP` (R46, R54). -/

namespace Sys2Proof

/-- The prefix fields an instruction accepts (R133, R157): the TYPE codes, the highest RND, and the other fields. -/
structure PfxRule where
  types : List Nat
  rnd : Nat
  sat : Bool
  nega : Bool
  negb : Bool
  abs : Bool
  op4 : Bool
  mask : Bool
  zero : Bool

/-- The prefix whose fields are all 0: what an instruction without a prefix uses (R54). -/
def Pfx.default : Pfx :=
  { mask := 0, rnd := 0, op4 := 0, zero := false, sat := false, typ := 0, nega := false, negb := false, abs := false }

/-- The prefix fields in force for a group (R54). -/
def Grp.fields (g : Grp) : Pfx := g.pfx.getD Pfx.default

/-- Every field of the prefix is one the rule accepts (R54). -/
def PfxRule.accepts (r : PfxRule) (p : Pfx) : Bool :=
  r.types.contains p.typ.toNat && decide (p.rnd.toNat ≤ r.rnd) && (r.sat || !p.sat) && (r.nega || !p.nega)
    && (r.negb || !p.negb) && (r.abs || !p.abs) && (r.op4 || p.op4 == 0) && (r.mask || p.mask == 0)
    && (r.zero || !p.zero)

/-- The integer TYPE codes 1 to 6 of R133, with code 0. -/
def typesI : List Nat := [0, 1, 2, 3, 4, 5, 6]
/-- The TYPE codes I and W of R133. -/
def typesIW : List Nat := [0, 1, 2, 3, 4, 5, 6, 12, 13]
/-- The floating-point TYPE codes of R133. -/
def typesF : List Nat := [0, 7, 8, 9]
/-- The 32-bit TYPE codes 1 and 2. -/
def types32 : List Nat := [0, 1, 2]

/-- A rule that accepts MASK and ZERO and the given types (R133). -/
def rMZ (types : List Nat) : PfxRule :=
  { types := types, rnd := 0, sat := false, nega := false, negb := false, abs := false, op4 := false, mask := true, zero := true }
/-- A rule that accepts MASK only (R133, R157, R232). -/
def rM (types : List Nat) : PfxRule := { rMZ types with zero := false }
/-- A rule for arithmetic with saturation, negation and absolute value (R133). -/
def rArith (types : List Nat) : PfxRule := { rMZ types with sat := true, nega := true, negb := true, abs := true }
/-- The rule of `vadd` and `vsub` (R133). -/
def rAdd : PfxRule := rArith typesIW
/-- The rule of `vmul` (R133). -/
def rMul : PfxRule := rArith typesI
/-- The rule of `vmad` (R133). -/
def rMad : PfxRule := { rMul with op4 := true }
/-- The rule of `vmulh` (R133). -/
def rMulh : PfxRule := { rMul with sat := false }
/-- The rule of `vmin` and `vmax` (R133). -/
def rMinMax : PfxRule := { rAdd with sat := false }
/-- The rule of `vabs` (R133). -/
def rAbs : PfxRule := { rMZ [0, 1, 3, 5, 12] with sat := true }
/-- The rule of the logical instructions of major 0x09 (R133). -/
def rLogic : PfxRule := rMZ [0, 1, 2, 12, 13]
/-- The rule of the shifts and comparisons (R133). -/
def rShift : PfxRule := rMZ typesIW
/-- The rule of `vsel` (R133). -/
def rSel : PfxRule := { rMZ typesIW with op4 := true }
/-- The rule of the bit counts (R133). -/
def rCount : PfxRule := rMZ typesI
/-- The rule of `vbfi` (R133). -/
def rBfi : PfxRule := { rMZ types32 with op4 := true }
/-- The rule of `vdp4` (R133). -/
def rDp4 : PfxRule := { rMZ [0, 5, 6] with sat := true, op4 := true }
/-- The rule of `vdp2` (R133). -/
def rDp2 : PfxRule := { rMZ [0, 3, 4] with sat := true, op4 := true }
/-- The rule of `vmov` (R133). -/
def rMov : PfxRule := rMZ [0, 1, 2, 3, 4, 5, 6, 7, 8, 9, 10, 11, 12, 13, 14]
/-- The rule of `vfadd`, `vfsub` and `vfmul` (R133). -/
def rFArith : PfxRule := { rArith typesF with rnd := 5 }
/-- The rule of `vfma` and `vfnma` (R133). -/
def rFma : PfxRule := { rFArith with op4 := true }
/-- The rule of the float minimum, maximum, comparison and sign copy (R133). -/
def rFCmp : PfxRule := { rArith typesF with sat := false }
/-- The rule of `vfabs`, `vfneg`, `vfclass`, `vfexp` and `vfmant` (R133). -/
def rFPlain : PfxRule := rMZ typesF
/-- The rule of `vfrnd` (R133). -/
def rFrnd : PfxRule := { rMZ typesF with rnd := 5, nega := true, abs := true }
/-- The rule of `vfscl` (R133). -/
def rFscl : PfxRule := { rFrnd with sat := true }
/-- The rule of `vfdot2` (R133). -/
def rFdot2 : PfxRule := { rArith [0, 8, 9] with rnd := 5, op4 := true }
/-- The rule of `vflerp` (R133). -/
def rFlerp : PfxRule := { rMZ [0, 7] with rnd := 5, sat := true, op4 := true }
/-- The rule of the special functions (R133). -/
def rSpecial : PfxRule := { rMZ typesF with rnd := 4, nega := true, abs := true }
/-- The rule of `vcmul` (R133). -/
def rCmul : PfxRule := { rMZ [0, 14] with rnd := 5, nega := true, negb := true }
/-- The rule of `vcfma` (R133). -/
def rCfma : PfxRule := { rCmul with op4 := true }
/-- The rule of `vcconj` (R133). -/
def rCconj : PfxRule := { rMZ [0, 14] with nega := true }
/-- The rule of `vcabs2` (R133). -/
def rCabs2 : PfxRule := { rCconj with rnd := 5 }
/-- The rule of the Welford instructions (R133). -/
def rWelf : PfxRule := rMZ [0]
/-- The rule of the immediate forms of major 0x13 (R133). -/
def rImm : PfxRule := rMZ types32
/-- The rule of `vaddi` (R133). -/
def rAddi : PfxRule := { rImm with sat := true }
/-- The rule of `vext` (R133). -/
def rExt : PfxRule := { rMZ types32 with mask := false, zero := false }
/-- The rule of the votes and the ballot (R133). -/
def rVote : PfxRule := rM [0]
/-- The rule of `vredux` and the scans (R133): saturation with an integer add only, RND with the float types. -/
def rRedux (op : BitVec 3) (p : Pfx) : PfxRule :=
  let isF := decide (7 ≤ p.typ.toNat)
  { rMZ (if op.toNat ≤ 2 then [0, 1, 2, 3, 4, 5, 6, 7, 8, 9] else typesI) with
    rnd := if isF then 4 else 0, sat := !isF && op == 0 }
/-- The rule of the loads (R157). -/
def rLoad : PfxRule := rMZ [0]
/-- The rule of the stores and prefetches (R157). -/
def rStore : PfxRule := rM [0]
/-- The rule of the atomics of major 0x1C (R157). -/
def rAmo : PfxRule := { rMZ [0, 1, 2, 12, 13] with op4 := true }
/-- The rule of the atomics of major 0x1D (R157). -/
def rAmoD : PfxRule := { rMZ [0] with op4 := true }
/-- The rule of the integer reductions (R157). -/
def rRed : PfxRule := rM [0, 1, 2, 12, 13]

/-- At most two `limm` words, and a modifier hint never beside them (R50, R51). -/
def Grp.limmsOk (g : Grp) : Bool := decide (g.limms.length ≤ 2)
/-- The modifier hint has a legal POLICY (R60). -/
def Grp.modifierOk (g : Grp) : Bool := match g.modifier with | some m => m.policy != 3 | none => true

/-- No prefix, `limm` or modifier (R98, R173, R184, R210). -/
def Grp.plain (g : Grp) : Bool := g.pfx.isNone && g.limms.isEmpty && g.modifier.isNone
/-- `limm` words only (R59, R98). -/
def Grp.immOnly (g : Grp) : Bool := g.pfx.isNone && g.limmsOk && g.modifier.isNone
/-- `limm` words with payload 0 only (R98, R107). -/
def Grp.immZero (g : Grp) : Bool := g.immOnly && g.limms.all (· == 0)
/-- A modifier hint only (R98, R60). -/
def Grp.scalarMemory (g : Grp) : Bool := g.pfx.isNone && g.limms.isEmpty && g.modifierOk
/-- A prefix by the rule only (R54). -/
def Grp.vector (r : PfxRule) (g : Grp) : Bool := r.accepts g.fields && g.limms.isEmpty && g.modifier.isNone
/-- A prefix by the rule, and `limm` words (R140). -/
def Grp.vectorImm (r : PfxRule) (g : Grp) : Bool := r.accepts g.fields && g.limmsOk && g.modifier.isNone
/-- A prefix by the rule, and a modifier hint (R157). -/
def Grp.memory (r : PfxRule) (g : Grp) : Bool := r.accepts g.fields && g.limms.isEmpty && g.modifierOk

/-- The prefix of an X-format word (R56): only OP4, only with `ext`, and OP4[6] = 0. -/
def Grp.matrix (g : Grp) (o : OpX) : Bool :=
  g.limms.isEmpty && g.modifier.isNone &&
    (match g.pfx with
      | none => !o.ext
      | some p => p == { Pfx.default with op4 := p.op4 } && (if o.ext then !bit p.op4 6 else p.op4 == 0))

/-- The kinds of a tile code (R173). -/
inductive TileKind where
  | scratch | acc | reg | buffer | barrier
  deriving DecidableEq, Repr

/-- A direct tile code's kind and index (R173); `none` for a reserved kind, an indirect code or a must-be-0 bit
that is set. -/
def tileCode (t : BitVec 12) : Option (TileKind × Nat) :=
  match bits t 11 9 with
  | 0 => if bits t 8 8 = 0 then some (.scratch, bits t 7 0) else none
  | 1 => if bits t 8 6 = 0 then some (.acc, bits t 5 0) else none
  | 2 => if bits t 8 4 = 0 then some (.reg, bits t 3 0) else none
  | 3 => if bits t 8 4 = 0 then some (.buffer, bits t 3 0) else none
  | 4 => if bits t 8 4 = 0 then some (.barrier, bits t 3 0) else none
  | _ => none

/-- The scalar register of an indirect tile code (R173). -/
def tileIndirect (t : BitVec 12) : Option Nat :=
  if bits t 11 9 = 7 ∧ bits t 8 6 = 0 then some (bits t 5 0) else none

/-- A tile code names a tile of an accepted kind, or is indirect (R173). -/
def tileOk (kinds : List TileKind) (t : BitVec 12) : Bool :=
  (match tileCode t with | some (k, _) => kinds.contains k | none => false) || (tileIndirect t).isSome

/-- The source types of `vcvt.f`, `vcvt.i` and `vcvt.n` with their widths (R71, R145). -/
def cvtSourceWidth (ty : BitVec 5) : Option Nat :=
  match ty.toNat with
  | 0x01 => some 8 | 0x02 => some 8 | 0x03 => some 16 | 0x04 => some 16 | 0x05 => some 32 | 0x06 => some 32
  | 0x10 => some 16 | 0x11 => some 16 | 0x12 => some 32 | 0x14 => some 8 | 0x15 => some 8 | 0x17 => some 8
  | _ => none

/-- The type code is one of the integer source types (R145). -/
def cvtSourceInt (ty : BitVec 5) : Bool := decide (1 ≤ ty.toNat) && decide (ty.toNat ≤ 6)

/-- The source and selector of `vcvt.f`, `vcvt.i` and `vcvt.n` (R145). -/
def cvtSourceOk (o : OpVC) : Bool :=
  match cvtSourceWidth o.ty with | some w => decide (o.sel.toNat < 32 / w) | none => false

/-- The rule of `vcvt.f` (R145). -/
def rCvtF : PfxRule := { rMZ [0, 7] with rnd := 5 }
/-- The rule of `vcvt.i` and `vcvt.n` (R145): SAT only with an integer source. -/
def rCvtInt (o : OpVC) : PfxRule := { rMZ [0] with rnd := 5, sat := cvtSourceInt o.ty }
/-- The rule of `vcvt.pk16` (R145). -/
def rPk16 : PfxRule := { rMZ [3, 4, 8, 9] with rnd := 5, sat := true }
/-- The rule of `vcvt.pk8` (R145). -/
def rPk8 : PfxRule := { rMZ [5, 6, 10, 11] with rnd := 5, sat := true }
/-- The rule of `vcvt.unpk` (R145): the destination type its source type takes. -/
def rUnpk (o : OpVC) : PfxRule :=
  rMZ (match o.ty.toNat with
    | 0x01 => [3] | 0x02 => [4] | 0x14 => [8, 9] | 0x15 => [8, 9] | 0x16 => [8, 9] | _ => [])
/-- The source and selector of `vcvt.unpk` (R145). -/
def unpkOk (o : OpVC) : Bool :=
  match o.ty.toNat with
  | 0x01 => decide (o.sel.toNat < 2) | 0x02 => decide (o.sel.toNat < 2)
  | 0x14 => decide (o.sel.toNat < 2) | 0x15 => decide (o.sel.toNat < 2) | 0x16 => true | _ => false
/-- The rule of `vcvt.bs` (R145, R146). -/
def rCvtBs : PfxRule := { rMZ [0] with rnd := 5 }

/-- The instruction is well formed: its group and operands are among those the decoder accepts. An event row has
no encoding and no limits. -/
def Instr.wf : Instr → Bool
  | .sadd g _ => g.plain
  | .ssub g _ => g.plain
  | .smul g _ => g.plain
  | .smulhI g _ => g.plain
  | .smulhN g _ => g.plain
  | .sdivI g _ => g.plain
  | .sdivN g _ => g.plain
  | .sremI g _ => g.plain
  | .sremN g _ => g.plain
  | .sand g _ => g.plain
  | .sor g _ => g.plain
  | .sxor g _ => g.plain
  | .sandn g _ => g.plain
  | .sshl g _ => g.plain
  | .sshr g _ => g.plain
  | .ssar g _ => g.plain
  | .sminI g _ => g.plain
  | .sminN g _ => g.plain
  | .smaxI g _ => g.plain
  | .smaxN g _ => g.plain
  | .scmpEq g _ => g.plain
  | .scmpNe g _ => g.plain
  | .scmpLtI g _ => g.plain
  | .scmpLtN g _ => g.plain
  | .scmpLeI g _ => g.plain
  | .scmpLeN g _ => g.plain
  | .ssel g _ => g.plain
  | .smov g _ => g.plain
  | .sclz g _ => g.plain
  | .sctz g _ => g.plain
  | .spopc g _ => g.plain
  | .sbrev g _ => g.plain
  | .sbfeI g _ => g.plain
  | .sbfeN g _ => g.plain
  | .sbfi g _ => g.plain
  | .sadr1 g _ => g.plain
  | .sadr2 g _ => g.plain
  | .sadr3 g _ => g.plain
  | .sxtI8 g _ => g.plain
  | .sxtI16 g _ => g.plain
  | .sxtI32 g _ => g.plain
  | .sxtN8 g _ => g.plain
  | .sxtN16 g _ => g.plain
  | .sxtN32 g _ => g.plain
  | .sli g _ => g.immOnly
  | .slui g _ => g.immOnly
  | .saddi g _ => g.immOnly
  | .sandi g _ => g.immOnly
  | .sld8 g _ => g.scalarMemory
  | .sld16 g _ => g.scalarMemory
  | .sld32 g _ => g.scalarMemory
  | .sld64 g _ => g.scalarMemory
  | .sst8 g _ => g.scalarMemory
  | .sst16 g _ => g.scalarMemory
  | .sst32 g _ => g.scalarMemory
  | .sst64 g _ => g.scalarMemory
  | .samoAdd g _ => g.scalarMemory
  | .samoMinI g _ => g.scalarMemory
  | .samoMaxI g _ => g.scalarMemory
  | .samoMinN g _ => g.scalarMemory
  | .samoMaxN g _ => g.scalarMemory
  | .samoAnd g _ => g.scalarMemory
  | .samoOr g _ => g.scalarMemory
  | .samoXor g _ => g.scalarMemory
  | .samoXchg g _ => g.scalarMemory
  | .samoCas g _ => g.scalarMemory
  | .samoIncw g _ => g.scalarMemory
  | .samoFaddb g _ => g.scalarMemory
  | .srwlRacq g _ => g.scalarMemory
  | .srwlRrel g _ => g.scalarMemory
  | .srwlWacq g _ => g.scalarMemory
  | .srwlWrel g _ => g.scalarMemory
  | .sredAdd g _ => g.scalarMemory
  | .sredAddF32 g _ => g.scalarMemory
  | .br g _ => g.immOnly
  | .call g _ => g.immOnly
  | .brz g _ => g.immOnly
  | .brnz g _ => g.immOnly
  | .brn g _ => g.immOnly
  | .brnn g _ => g.immOnly
  | .ret g _ => g.immZero
  | .opEnd g => g.immZero
  | .step g o => g.immZero && decide (o.n.toNat ≤ 4) && decide (o.a.toNat + o.n.toNat ≤ 61)
  | .bar g _ => g.immZero
  | .trap g _ => g.immZero
  | .spawn g o => g.immZero && decide (o.n.toNat ≤ 8) && decide (o.a.toNat + o.n.toNat ≤ 61)
  | .launch g o => g.immZero && o.a != 48
  | .srd g o => g.immZero && decide (o.n.toNat < 18)
  | .swr g o => g.immZero && decide (o.n.toNat < 18)
  | .opIf g _ => g.immOnly
  | .opElse g _ => g.immOnly
  | .endif g => g.immZero
  | .loop g _ => g.immOnly
  | .brk g _ => g.immZero
  | .nxt g _ => g.immZero
  | .endl g _ => g.immOnly
  | .vadd g _ => g.vector rAdd
  | .vsub g _ => g.vector rAdd
  | .vmul g _ => g.vector rMul
  | .vmulh g _ => g.vector rMulh
  | .vmad g _ => g.vector rMad
  | .vmin g _ => g.vector rMinMax
  | .vmax g _ => g.vector rMinMax
  | .vabs g _ => g.vector rAbs
  | .vand g _ => g.vector rLogic
  | .vor g _ => g.vector rLogic
  | .vxor g _ => g.vector rLogic
  | .vandn g _ => g.vector rLogic
  | .vshl g _ => g.vector rShift
  | .vshr g _ => g.vector rShift
  | .vsar g _ => g.vector rShift
  | .vsel g _ => g.vector rSel
  | .vclz g _ => g.vector rCount
  | .vctz g _ => g.vector rCount
  | .vffs g _ => g.vector rCount
  | .vpopc g _ => g.vector rCount
  | .vbrev g _ => g.vector rCount
  | .vbfe g _ => g.vector rImm
  | .vbfi g _ => g.vector rBfi
  | .vdp4 g _ => g.vector rDp4
  | .vcmpEq g _ => g.vector rShift
  | .vcmpNe g _ => g.vector rShift
  | .vcmpLt g _ => g.vector rShift
  | .vcmpLe g _ => g.vector rShift
  | .vcmpGt g _ => g.vector rShift
  | .vcmpGe g _ => g.vector rShift
  | .vdp2 g _ => g.vector rDp2
  | .vmov g _ => g.vector rMov
  | .vfadd g _ => g.vector rFArith
  | .vfsub g _ => g.vector rFArith
  | .vfmul g _ => g.vector rFArith
  | .vfma g _ => g.vector rFma
  | .vfnma g _ => g.vector rFma
  | .vfmin g _ => g.vector rFCmp
  | .vfmax g _ => g.vector rFCmp
  | .vfabs g _ => g.vector rFPlain
  | .vfcmpEq g _ => g.vector rFCmp
  | .vfcmpLt g _ => g.vector rFCmp
  | .vfcmpLe g _ => g.vector rFCmp
  | .vfcmpUn g _ => g.vector rFCmp
  | .vfclass g _ => g.vector rFPlain
  | .vfrnd g _ => g.vector rFrnd
  | .vfneg g _ => g.vector rFPlain
  | .vfcpsgn g _ => g.vector rFCmp
  | .vfminNan g _ => g.vector rFCmp
  | .vfmaxNan g _ => g.vector rFCmp
  | .vfdot2 g _ => g.vector rFdot2
  | .vfscl g _ => g.vector rFscl
  | .vfexp g _ => g.vector rFPlain
  | .vfmant g _ => g.vector rFPlain
  | .vflerp g _ => g.vector rFlerp
  | .vcvtF g o => g.vector rCvtF && cvtSourceOk o
  | .vcvtI g o => g.vector (rCvtInt o) && cvtSourceOk o
  | .vcvtN g o => g.vector (rCvtInt o) && cvtSourceOk o
  | .vcvtPk16 g _ => g.vector rPk16
  | .vcvtPk8 g _ => g.vector rPk8
  | .vcvtUnpk g o => g.vector (rUnpk o) && unpkOk o
  | .vcvtBs g _ => g.vector rCvtBs
  | .vrcp g _ => g.vector rSpecial
  | .vrsq g _ => g.vector rSpecial
  | .vsqrt g _ => g.vector rSpecial
  | .vexp2 g _ => g.vector rSpecial
  | .vlog2 g _ => g.vector rSpecial
  | .vsinp g _ => g.vector rSpecial
  | .vcosp g _ => g.vector rSpecial
  | .vtanh g _ => g.vector rSpecial
  | .vcmul g _ => g.vector rCmul
  | .vcfma g _ => g.vector rCfma
  | .vcconj g _ => g.vector rCconj
  | .vcabs2 g _ => g.vector rCabs2
  | .vwelf g _ => g.vector rWelf
  | .vwmrg g _ => g.vector rWelf
  | .vwfin g _ => g.vector rWelf
  | .vli g _ => g.vectorImm rImm
  | .vaddi g _ => g.vectorImm rAddi
  | .vandi g _ => g.vectorImm rImm
  | .vori g _ => g.vectorImm rImm
  | .vxori g _ => g.vectorImm rImm
  | .vshli g _ => g.vector rImm
  | .vshri g _ => g.vector rImm
  | .vsari g _ => g.vector rImm
  | .vshflIdx g _ => g.vector rImm
  | .vshflUp g _ => g.vector rImm
  | .vshflDn g _ => g.vector rImm
  | .vshflXor g _ => g.vector rImm
  | .vxsel g _ => g.vector rImm
  | .vbcast g _ => g.vector rImm
  | .vlane g _ => g.vector rImm
  | .vext g _ => g.vector rExt
  | .vvoteAny g _ => g.vector rVote
  | .vvoteAll g _ => g.vector rVote
  | .vvoteUni g _ => g.vector rVote
  | .vballot g _ => g.vector rVote
  | .vballotMask g _ => g.vector rVote
  | .vredux g o => g.vector (rRedux o.op g.fields) && decide (o.op.toNat ≤ 5)
  | .vscanIn g o => g.vector (rRedux o.op g.fields) && decide (o.op.toNat ≤ 5)
  | .vscanEx g o => g.vector (rRedux o.op g.fields) && decide (o.op.toNat ≤ 5)
  | .vmatch g _ => g.vector rImm
  | .vld8 g _ => g.memory rLoad
  | .vld8s g _ => g.memory rLoad
  | .vld16 g _ => g.memory rLoad
  | .vld16s g _ => g.memory rLoad
  | .vld32 g _ => g.memory rLoad
  | .vld64 g _ => g.memory rLoad
  | .vld128 g _ => g.memory rLoad
  | .vst8 g _ => g.memory rStore
  | .vst16 g _ => g.memory rStore
  | .vst32 g _ => g.memory rStore
  | .vst64 g _ => g.memory rStore
  | .vst128 g _ => g.memory rStore
  | .vldl g _ => g.memory rLoad
  | .vldg g _ => g.memory rLoad
  | .prefL1 g _ => g.memory rStore
  | .prefL2 g _ => g.memory rStore
  | .vlsp8 g _ => g.memory rLoad
  | .vlsp32 g _ => g.memory rLoad
  | .vlsp64 g _ => g.memory rLoad
  | .vlsp128 g _ => g.memory rLoad
  | .vssp8 g _ => g.memory rStore
  | .vssp32 g _ => g.memory rStore
  | .vssp64 g _ => g.memory rStore
  | .vssp128 g _ => g.memory rStore
  | .vamoAdd g _ => g.memory rAmo
  | .vamoMin g _ => g.memory rAmo
  | .vamoMax g _ => g.memory rAmo
  | .vamoAnd g _ => g.memory rAmo
  | .vamoOr g _ => g.memory rAmo
  | .vamoXor g _ => g.memory rAmo
  | .vamoXchg g _ => g.memory rAmo
  | .vamoCas g _ => g.memory rAmo
  | .vamoIncw g _ => g.memory rAmoD
  | .vamoFaddb g _ => g.memory rAmoD
  | .vamoFaddF32 g _ => g.memory rAmoD
  | .vredAdd g _ => g.memory rRed
  | .vredAddF32 g _ => g.memory rStore
  | .vredAddBf16x2 g _ => g.memory rStore
  | .vredMin g _ => g.memory rRed
  | .vredMax g _ => g.memory rRed
  | .vredAnd g _ => g.memory rRed
  | .vredOr g _ => g.memory rRed
  | .vredXor g _ => g.memory rRed
  | .fence g o => g.plain && o.kind != 3 && decide (o.scope.toNat ≤ 5)
  | .trel g o => g.plain && tileOk [.scratch, .acc, .reg] o.t
  | .tfeSet g o => g.plain && tileOk [.scratch] o.t
  | .tfeClr g o => g.plain && tileOk [.scratch] o.t
  | .tstat g o => g.plain && tileOk [.scratch, .acc, .reg, .buffer, .barrier] o.t
  | .cbdef g o => g.plain && tileOk [.buffer] o.t
  | .cbrel g o => g.plain && tileOk [.buffer] o.t
  | .mbat g _ => g.plain
  | .mmaF16 g o => g.matrix o
  | .mmaBf16 g o => g.matrix o
  | .mmaE4m3 g o => g.matrix o
  | .mmaE5m2 g o => g.matrix o
  | .mmaE2m1 g o => g.matrix o
  | .mmaI8 g o => g.matrix o
  | .mmaF32 g o => g.matrix o
  | .smmaF16 g o => g.matrix o
  | .smmaBf16 g o => g.matrix o
  | .smmaE4m3 g o => g.matrix o
  | .smmaI8 g o => g.matrix o
  | .mld g _ => g.plain
  | .mldt g _ => g.plain
  | .mrd g _ => g.plain
  | .mwr g _ => g.plain
  | .mzero g _ => g.plain
  | .cpy g o => g.plain && o.a != 56
  | .cpyg g o => g.plain && o.a != 56
  | .cpyst g o => g.plain && o.a != 56
  | .sort g o => g.plain && o.a != 56
  | .sortr g o => g.plain && o.a != 56
  | .trace g _ => g.plain
  | .rast g o => g.plain && o.a != 56
  | .callx g o => g.plain && decide (o.n.toNat ≤ 16)
  | .retx g o => g.plain && decide (o.n.toNat ≤ 16)
  | .hitret g _ => g.plain
  | .hgrid g o => g.vector rLoad && o.b != 56
  | .hgrad g o => g.vector rStore && o.b != 56
  | .cmps g _ => g.vector rStore
  | .cmpsb g _ => g.vector rStore
  | .coll g o => g.plain && o.a != 56
  | .hintNop => true
  | .hintYield _ => true
  | .hintBoost _ => true
  | .hintSlot _ => true
  | .yieldExpiry _ _ => true
  | .boostExpiry _ _ => true
  | .loadResponse _ _ _ => true
  | .stepDispatch _ => true
  | .watchPeriodicTest _ => true
  | .quantumCommit _ _ => true
  | .crewPlacement _ _ => true
  | .crewRelease _ _ => true
  | .spawnItemPlacement _ _ _ => true
  | .regroupedGangIssue _ _ _ _ => true
  | .regroupTimeout _ _ _ _ => true
  | .slotAged _ _ => true
  | .matrixOperationStart _ => true
  | .matrixOperationCompletion _ _ => true
  | .preemptionPoint _ _ => true
  | .copyCommandStart _ _ => true
  | .stashOccupancyRetry _ _ => true
  | .copyCompletion _ _ => true
  | .cpystCompletion _ _ => true
  | .sortCommandStart _ => true
  | .sortCommandCompletion _ => true
  | .traceCompletion _ => true
  | .rastCompletion _ => true
  | .collInstanceStart _ _ _ _ => true
  | .collCompletion _ _ => true
  | .collWithdrawal _ _ _ => true
  | .collRouteLost _ _ => true
  | .launchDoorbell _ _ _ _ => true
  | .launchRecordAcceptance _ _ => true
  | .launchCompletion _ => true
  | .preemptionRequest _ _ => true
  | .preemptionResume _ _ => true
  | .discardGroupJudgement _ _ => true
  | .preemptionCompletion _ _ => true
  | .conflictWindowEnd _ _ => true
  | .remapGo _ _ => true
  | .remapStart _ => true
  | .rowSetMove _ => true
  | .gatherPacket _ _ _ => true
  | .homeAtomicOperation _ => true
  | .eccCounterClear _ => true
  | .eccAddressValidClear _ => true
  | .scrubRead _ => true
  | .scrubDeadlineMissed _ => true
  | .accessCountNotification _ _ => true
  | .accessCounterClear _ => true
  | .pageWalk _ _ _ _ => true
  | .atsTranslationCompletion _ _ _ _ _ => true
  | .pageRequestResponse _ _ _ => true
  | .invalidationRequest _ _ _ _ => true
  | .faultHoldWrite _ _ => true
  | .fltRespReplay _ _ => true
  | .fltRespRequeue _ _ => true
  | .fltRespAbort _ _ => true
  | .unfortFaultHandling _ => true
  | .shootdown _ _ => true
  | .shootdownCompletion _ => true
  | .squallAssertion _ => true
  | .unitStop _ _ _ _ _ => true
  | .teardown _ => true
  | .squallRelease _ => true
  | .kill _ _ => true
  | .torn _ => true
  | .peerRequest _ => true
  | .peerRefusal _ _ => true
  | .flitReception _ _ => true
  | .flitReplay _ _ => true
  | .portRetrain _ _ _ => true
  | .portDown _ => true
  | .rayDelegationRecord _ _ _ _ => true
  | .rayAnswerRecord _ _ _ => true
  | .rayCandidateRecord _ _ _ => true
  | .candidateAnswerRecord _ _ => true
  | .sceneInvalidation _ => true
  | .sceneInvalidationAck _ _ => true
  | .hostBar2Read _ _ _ => true
  | .hostBar2Write _ _ _ => true
  | .atomicopRequest _ _ => true
  | .fundamentalReset => true
  | .functionLevelReset _ => true
  | .prepmap _ => true
  | .unmap _ => true
  | .attest _ => true
  | .cert _ => true
  | .recover _ _ => true
  | .partcfg _ => true
  | .partget _ => true
  | .mailboxAck _ => true
  | .healthSample _ => true
  | .vmonFlagClear _ _ _ => true
  | .clockThrottle _ => true
  | .clockRestore => true
  | .thermalTrip => true
  | .registerWrite _ _ _ => true
  | .illegalOp => true
  | .resultLanding _ _ => true
  | .peerAcknowledgement _ _ _ => true
  | .flushingReadCompletion _ _ => true
  | .bootPhaseCompletion _ _ => true

end Sys2Proof
end

