-- ==== Sys2Proof/Decode.lean ====
section
/-! DEFINITION. The decoder, total on any list of words, which rejects by name (R45 to R62, R69), and after it
the encoder, written from the same tables of formats and opcodes (R47, R53, R57, R69). Lean's code generator has no room for the
383 constructors of `Instr`, so what builds a late one is marked noncomputable; the kernel evaluates all of it. -/

namespace Sys2Proof

/-- Why a list of words is not a group. All but `truncated` are the fault `ILLEGAL_OP` (R46, R51, R54). -/
inductive DecodeError where
  /-- The list ends inside a group. -/
  | truncated
  /-- A reserved major opcode, the all-zero word among them (R46). -/
  | reservedMajor
  /-- A func, sub or test value the opcode map leaves unassigned (R46, R69). -/
  | unassigned
  /-- A nonzero reserved field (R46, R53, R58, R60, R61). -/
  | reservedField
  /-- A sequence of words that is no group (R51). -/
  | structure
  /-- A prefix, `limm`, modifier or operand the instruction does not accept (R54, R56, R59, R60). -/
  | notAccepted
  deriving DecidableEq, Repr

/-- What one instruction word gives: an instruction, or the reason there is none. -/
abbrev Decoded := Except DecodeError Instr

/-- Reads the operands of `OpS3` (R47). -/
def decS3 (k : Grp → OpS3 → Instr) (g : Grp) (w : W32) : Decoded :=
  .ok (k g { d := w.extractLsb' 12 6, a := w.extractLsb' 6 6, b := w.extractLsb' 0 6 })

/-- Reads the operands of `OpS2` (R47). -/
def decS2 (k : Grp → OpS2 → Instr) (g : Grp) (w : W32) : Decoded :=
  if (w.extractLsb' 0 6) == 0 then .ok (k g { d := w.extractLsb' 12 6, a := w.extractLsb' 6 6 }) else .error .reservedField

/-- Reads the operands of `OpSR` (R47). -/
def decSR (k : Grp → OpSR → Instr) (g : Grp) (w : W32) : Decoded :=
  if (w.extractLsb' 12 6) == 0 then .ok (k g { a := w.extractLsb' 6 6, b := w.extractLsb' 0 6 }) else .error .reservedField

/-- Reads the operands of `OpSI` (R47). -/
def decSI (k : Grp → OpSI → Instr) (g : Grp) (w : W32) : Decoded :=
  .ok (k g { d := w.extractLsb' 16 6, imm := w.extractLsb' 0 16 })

/-- Reads the operands of `OpFB` (R47). -/
def decFB (k : Grp → OpFB → Instr) (g : Grp) (w : W32) : Decoded :=
  .ok (k g { off := w.extractLsb' 0 20 })

/-- Reads the operands of `OpFIf` (R47). -/
def decFIf (k : Grp → OpFIf → Instr) (g : Grp) (w : W32) : Decoded :=
  .ok (k g { m := w.extractLsb' 18 3, off := w.extractLsb' 0 18 })

/-- Reads the operands of `OpFLab` (R47). -/
def decFLab (k : Grp → OpFLab → Instr) (g : Grp) (w : W32) : Decoded :=
  if (w.extractLsb' 18 3) == 0 then .ok (k g { off := w.extractLsb' 0 18 }) else .error .reservedField

/-- Reads the operands of `OpFM` (R47). -/
def decFM (k : Grp → OpFM → Instr) (g : Grp) (w : W32) : Decoded :=
  if (w.extractLsb' 0 18) == 0 then .ok (k g { m := w.extractLsb' 18 3 }) else .error .reservedField

/-- Reads the operands of `OpCA` (R47). -/
def decCA (k : Grp → OpCA → Instr) (g : Grp) (w : W32) : Decoded :=
  if (w.extractLsb' 12 6) == 0 && (w.extractLsb' 0 6) == 0 then .ok (k g { a := w.extractLsb' 6 6 }) else .error .reservedField

/-- Reads the operands of `OpCAN` (R47). -/
def decCAN (k : Grp → OpCAN → Instr) (g : Grp) (w : W32) : Decoded :=
  if (w.extractLsb' 12 6) == 0 then .ok (k g { a := w.extractLsb' 6 6, n := w.extractLsb' 0 6 }) else .error .reservedField

/-- Reads the operands of `OpCAK` (R47). -/
def decCAK (k : Grp → OpCAK → Instr) (g : Grp) (w : W32) : Decoded :=
  if (w.extractLsb' 12 6) == 0 && (w.extractLsb' 4 2) == 0 then .ok (k g { a := w.extractLsb' 6 6, k := w.extractLsb' 0 4 }) else .error .reservedField

/-- Reads the operands of `OpCDN` (R47). -/
def decCDN (k : Grp → OpCDN → Instr) (g : Grp) (w : W32) : Decoded :=
  if (w.extractLsb' 6 6) == 0 then .ok (k g { d := w.extractLsb' 12 6, n := w.extractLsb' 0 6 }) else .error .reservedField

/-- Reads the operands of `OpCT` (R47). -/
def decCT (k : Grp → OpCT → Instr) (g : Grp) (w : W32) : Decoded :=
  if (w.extractLsb' 12 6) == 0 then .ok (k g { t := w.extractLsb' 0 12 }) else .error .reservedField

/-- Reads the operands of `OpCDT` (R47). -/
def decCDT (k : Grp → OpCDT → Instr) (g : Grp) (w : W32) : Decoded :=
  .ok (k g { d := w.extractLsb' 12 6, t := w.extractLsb' 0 12 })

/-- Reads the operands of `OpCD` (R47). -/
def decCD (k : Grp → OpCD → Instr) (g : Grp) (w : W32) : Decoded :=
  if (w.extractLsb' 0 12) == 0 then .ok (k g { d := w.extractLsb' 12 6 }) else .error .reservedField

/-- Reads the operands of `OpCGA` (R47). -/
def decCGA (k : Grp → OpCGA → Instr) (g : Grp) (w : W32) : Decoded :=
  if (w.extractLsb' 17 1) == 0 && (w.extractLsb' 0 6) == 0 then .ok (k g { g := w.extractLsb' 12 5, a := w.extractLsb' 6 6 }) else .error .reservedField

/-- Reads the operands of `OpCVK` (R47). -/
def decCVK (k : Grp → OpCVK → Instr) (g : Grp) (w : W32) : Decoded :=
  if (w.extractLsb' 16 2) == 0 && (w.extractLsb' 6 6) == 0 then .ok (k g { n := w.extractLsb' 12 4, k := w.extractLsb' 0 6 }) else .error .reservedField

/-- Reads the operands of `OpCK` (R47). -/
def decCK (k : Grp → OpCK → Instr) (g : Grp) (w : W32) : Decoded :=
  if (w.extractLsb' 6 12) == 0 then .ok (k g { k := w.extractLsb' 0 6 }) else .error .reservedField

/-- Reads the operands of `OpCNGK` (R47). -/
def decCNGK (k : Grp → OpCNGK → Instr) (g : Grp) (w : W32) : Decoded :=
  if (w.extractLsb' 16 2) == 0 && (w.extractLsb' 10 2) == 0 then .ok (k g { n := w.extractLsb' 12 4, g := w.extractLsb' 6 4, k := w.extractLsb' 0 6 }) else .error .reservedField

/-- Reads the operands of `OpCNA` (R47). -/
def decCNA (k : Grp → OpCNA → Instr) (g : Grp) (w : W32) : Decoded :=
  if (w.extractLsb' 16 2) == 0 && (w.extractLsb' 0 6) == 0 then .ok (k g { n := w.extractLsb' 12 4, a := w.extractLsb' 6 6 }) else .error .reservedField

/-- Reads the operands of `OpCDAN` (R47). -/
def decCDAN (k : Grp → OpCDAN → Instr) (g : Grp) (w : W32) : Decoded :=
  .ok (k g { d := w.extractLsb' 12 6, a := w.extractLsb' 6 6, n := w.extractLsb' 0 6 })

/-- Reads the operands of `OpCFence` (R47). -/
def decCFence (k : Grp → OpCFence → Instr) (g : Grp) (w : W32) : Decoded :=
  if (w.extractLsb' 5 13) == 0 then .ok (k g { kind := w.extractLsb' 3 2, scope := w.extractLsb' 0 3 }) else .error .reservedField

/-- Reads the operands of `OpV3` (R47). -/
def decV3 (k : Grp → OpV3 → Instr) (g : Grp) (w : W32) : Decoded :=
  .ok (k g { d := w.extractLsb' 14 7, a := w.extractLsb' 7 7, b := w.extractLsb' 0 7 })

/-- Reads the operands of `OpV2` (R47). -/
def decV2 (k : Grp → OpV2 → Instr) (g : Grp) (w : W32) : Decoded :=
  if (w.extractLsb' 0 7) == 0 then .ok (k g { d := w.extractLsb' 14 7, a := w.extractLsb' 7 7 }) else .error .reservedField

/-- Reads the operands of `OpV1` (R47). -/
def decV1 (k : Grp → OpV1 → Instr) (g : Grp) (w : W32) : Decoded :=
  if (w.extractLsb' 0 14) == 0 then .ok (k g { d := w.extractLsb' 14 7 }) else .error .reservedField

/-- Reads the operands of `OpVI` (R47). -/
def decVI (k : Grp → OpVI → Instr) (g : Grp) (w : W32) : Decoded :=
  .ok (k g { d := w.extractLsb' 14 7, a := w.extractLsb' 7 7, imm := w.extractLsb' 0 7 })

/-- Reads the operands of `OpVSh` (R47). -/
def decVSh (k : Grp → OpVSh → Instr) (g : Grp) (w : W32) : Decoded :=
  if (w.extractLsb' 5 2) == 0 then .ok (k g { d := w.extractLsb' 14 7, a := w.extractLsb' 7 7, n := w.extractLsb' 0 5 }) else .error .reservedField

/-- Reads the operands of `OpVL` (R47). -/
def decVL (k : Grp → OpVL → Instr) (g : Grp) (w : W32) : Decoded :=
  if (w.extractLsb' 7 7) == 0 then .ok (k g { d := w.extractLsb' 14 7, imm := w.extractLsb' 0 7 }) else .error .reservedField

/-- Reads the operands of `OpVC` (R47). -/
def decVC (k : Grp → OpVC → Instr) (g : Grp) (w : W32) : Decoded :=
  .ok (k g { d := w.extractLsb' 14 7, a := w.extractLsb' 7 7, sel := w.extractLsb' 5 2, ty := w.extractLsb' 0 5 })

/-- Reads the operands of `OpVW` (R47). -/
def decVW (k : Grp → OpVW → Instr) (g : Grp) (w : W32) : Decoded :=
  if (w.extractLsb' 1 6) == 0 then .ok (k g { d := w.extractLsb' 14 7, a := w.extractLsb' 7 7, k := bit w 0 }) else .error .reservedField

/-- Reads the operands of `OpVB` (R47). -/
def decVB (k : Grp → OpVB → Instr) (g : Grp) (w : W32) : Decoded :=
  if (w.extractLsb' 13 1) == 0 && (w.extractLsb' 0 7) == 0 then .ok (k g { d := w.extractLsb' 14 7, a := w.extractLsb' 7 6 }) else .error .reservedField

/-- Reads the operands of `OpVE` (R47). -/
def decVE (k : Grp → OpVE → Instr) (g : Grp) (w : W32) : Decoded :=
  if (w.extractLsb' 20 1) == 0 && (w.extractLsb' 5 2) == 0 then .ok (k g { d := w.extractLsb' 14 6, a := w.extractLsb' 7 7, n := w.extractLsb' 0 5 }) else .error .reservedField

/-- Reads the operands of `OpVS` (R47). -/
def decVS (k : Grp → OpVS → Instr) (g : Grp) (w : W32) : Decoded :=
  if (w.extractLsb' 20 1) == 0 && (w.extractLsb' 0 7) == 0 then .ok (k g { d := w.extractLsb' 14 6, a := w.extractLsb' 7 7 }) else .error .reservedField

/-- Reads the operands of `OpVBM` (R47). -/
def decVBM (k : Grp → OpVBM → Instr) (g : Grp) (w : W32) : Decoded :=
  if (w.extractLsb' 20 1) == 1 && (w.extractLsb' 17 3) == 0 && (w.extractLsb' 0 7) == 0 then .ok (k g { k := w.extractLsb' 14 3, a := w.extractLsb' 7 7 }) else .error .reservedField

/-- Reads the operands of `OpVR` (R47). -/
def decVR (k : Grp → OpVR → Instr) (g : Grp) (w : W32) : Decoded :=
  if (w.extractLsb' 3 4) == 0 then .ok (k g { d := w.extractLsb' 14 7, a := w.extractLsb' 7 7, op := w.extractLsb' 0 3 }) else .error .reservedField

/-- Reads the operands of `OpVH` (R47). -/
def decVH (k : Grp → OpVH → Instr) (g : Grp) (w : W32) : Decoded :=
  if (w.extractLsb' 6 1) == 0 then .ok (k g { d := w.extractLsb' 14 7, a := w.extractLsb' 7 7, b := w.extractLsb' 0 6 }) else .error .reservedField

/-- Reads the operands of `OpM` (R47). -/
def decM (k : Grp → OpM → Instr) (g : Grp) (w : W32) : Decoded :=
  if (w.extractLsb' 20 1) == 0 then .ok (k g { ds := w.extractLsb' 13 7, sb := w.extractLsb' 7 6, vo := w.extractLsb' 0 7 }) else .error .reservedField

/-- Reads the operands of `OpMB` (R47). -/
def decMB (k : Grp → OpMB → Instr) (g : Grp) (w : W32) : Decoded :=
  .ok (k g { byp := bit w 20, ds := w.extractLsb' 13 7, sb := w.extractLsb' 7 6, vo := w.extractLsb' 0 7 })

/-- Reads the operands of `OpML` (R47). -/
def decML (k : Grp → OpML → Instr) (g : Grp) (w : W32) : Decoded :=
  if (w.extractLsb' 2 5) == 0 then .ok (k g { byp := bit w 20, ds := w.extractLsb' 13 7, sb := w.extractLsb' 7 6, n := w.extractLsb' 0 2 }) else .error .reservedField

/-- Reads the operands of `OpMP` (R47). -/
def decMP (k : Grp → OpMP → Instr) (g : Grp) (w : W32) : Decoded :=
  if (w.extractLsb' 13 8) == 0 then .ok (k g { sb := w.extractLsb' 7 6, vo := w.extractLsb' 0 7 }) else .error .reservedField

/-- Reads the operands of `OpX` (R47). -/
def decX (k : Grp → OpX → Instr) (g : Grp) (w : W32) : Decoded :=
  .ok (k g { na := bit w 19, nb := bit w 18, zc := bit w 17, c := w.extractLsb' 11 6, va := w.extractLsb' 6 5, vb := w.extractLsb' 1 5, ext := bit w 0 })

/-- A word with no operands (R47). -/
def decF0 (k : Grp → Instr) (g : Grp) (w : W32) (lo : Nat) : Decoded :=
  if w.toNat % 2 ^ lo = 0 then .ok (k g) else .error .reservedField

/-- Reads the operands of `OpFBS` (R47). -/
def decFBS (k : Grp → OpFBS → Instr) (g : Grp) (w : W32) : Decoded :=
  .ok (k g { a := w.extractLsb' 18 6, off := w.extractLsb' 0 16 })

/-- The words of major opcode `0x01` (R69). -/
def decMajor01 (g : Grp) (w : W32) : Decoded :=
  match (w.extractLsb' 18 6).toNat with
  | 0 => decS3 .sadd g w
  | 1 => decS3 .ssub g w
  | 2 => decS3 .smul g w
  | 3 => decS3 .smulhI g w
  | 4 => decS3 .smulhN g w
  | 5 => decS3 .sdivI g w
  | 6 => decS3 .sdivN g w
  | 7 => decS3 .sremI g w
  | 8 => decS3 .sremN g w
  | 9 => decS3 .sand g w
  | 10 => decS3 .sor g w
  | 11 => decS3 .sxor g w
  | 12 => decS3 .sandn g w
  | 13 => decS3 .sshl g w
  | 14 => decS3 .sshr g w
  | 15 => decS3 .ssar g w
  | 16 => decS3 .sminI g w
  | 17 => decS3 .sminN g w
  | 18 => decS3 .smaxI g w
  | 19 => decS3 .smaxN g w
  | 20 => decS3 .scmpEq g w
  | 21 => decS3 .scmpNe g w
  | 22 => decS3 .scmpLtI g w
  | 23 => decS3 .scmpLtN g w
  | 24 => decS3 .scmpLeI g w
  | 25 => decS3 .scmpLeN g w
  | 26 => decS3 .ssel g w
  | 27 => decS2 .smov g w
  | 28 => decS2 .sclz g w
  | 29 => decS2 .sctz g w
  | 30 => decS2 .spopc g w
  | 31 => decS2 .sbrev g w
  | 32 => decS3 .sbfeI g w
  | 33 => decS3 .sbfeN g w
  | 34 => decS3 .sbfi g w
  | 35 => decS3 .sadr1 g w
  | 36 => decS3 .sadr2 g w
  | 37 => decS3 .sadr3 g w
  | 38 => decS2 .sxtI8 g w
  | 39 => decS2 .sxtI16 g w
  | 40 => decS2 .sxtI32 g w
  | 41 => decS2 .sxtN8 g w
  | 42 => decS2 .sxtN16 g w
  | 43 => decS2 .sxtN32 g w
  | _ => .error .unassigned

/-- The words of major opcode `0x02` (R69). -/
def decMajor02 (g : Grp) (w : W32) : Decoded :=
  match (w.extractLsb' 22 2).toNat with
  | 0 => decSI .sli g w
  | 1 => decSI .slui g w
  | 2 => decSI .saddi g w
  | 3 => decSI .sandi g w
  | _ => .error .unassigned

/-- The words of major opcode `0x03` (R69). -/
def decMajor03 (g : Grp) (w : W32) : Decoded :=
  match (w.extractLsb' 18 6).toNat with
  | 0 => decS3 .sld8 g w
  | 1 => decS3 .sld16 g w
  | 2 => decS3 .sld32 g w
  | 3 => decS3 .sld64 g w
  | 4 => decS3 .sst8 g w
  | 5 => decS3 .sst16 g w
  | 6 => decS3 .sst32 g w
  | 7 => decS3 .sst64 g w
  | 8 => decS3 .samoAdd g w
  | 9 => decS3 .samoMinI g w
  | 10 => decS3 .samoMaxI g w
  | 11 => decS3 .samoMinN g w
  | 12 => decS3 .samoMaxN g w
  | 13 => decS3 .samoAnd g w
  | 14 => decS3 .samoOr g w
  | 15 => decS3 .samoXor g w
  | 16 => decS3 .samoXchg g w
  | 17 => decS3 .samoCas g w
  | 18 => decS3 .samoIncw g w
  | 19 => decS3 .samoFaddb g w
  | 20 => decS2 .srwlRacq g w
  | 21 => decS2 .srwlRrel g w
  | 22 => decS3 .srwlWacq g w
  | 23 => decS2 .srwlWrel g w
  | 24 => decSR .sredAdd g w
  | 25 => decSR .sredAddF32 g w
  | _ => .error .unassigned

/-- The words of major opcode `0x04` (R69). -/
def decMajor04 (g : Grp) (w : W32) : Decoded :=
  match (w.extractLsb' 20 4).toNat with
  | 0 => decFB .br g w
  | 1 => decFB .call g w
  | _ => .error .unassigned

/-- The words of major opcode `0x05` (R69). -/
def decMajor05 (g : Grp) (w : W32) : Decoded :=
  match (w.extractLsb' 16 2).toNat with
  | 0 => decFBS .brz g w
  | 1 => decFBS .brnz g w
  | 2 => decFBS .brn g w
  | 3 => decFBS .brnn g w
  | _ => .error .unassigned

/-- The words of major opcode `0x06` (R69). -/
def decMajor06 (g : Grp) (w : W32) : Decoded :=
  match (w.extractLsb' 18 6).toNat with
  | 0 => decCA .ret g w
  | 1 => decF0 .opEnd g w 18
  | 2 => decCAN .step g w
  | 3 => decCAK .bar g w
  | 4 => decCDN .trap g w
  | 5 => decCAN .spawn g w
  | 6 => decCA .launch g w
  | 7 => decCDN .srd g w
  | 8 => decCAN .swr g w
  | _ => .error .unassigned

/-- The words of major opcode `0x07` (R69). -/
def decMajor07 (g : Grp) (w : W32) : Decoded :=
  match (w.extractLsb' 21 3).toNat with
  | 0 => decFIf .opIf g w
  | 1 => decFLab .opElse g w
  | 2 => decF0 .endif g w 21
  | 3 => decFLab .loop g w
  | 4 => decFM .brk g w
  | 5 => decFM .nxt g w
  | 6 => decFLab .endl g w
  | _ => .error .unassigned

/-- The words of major opcode `0x08` (R69). -/
def decMajor08 (g : Grp) (w : W32) : Decoded :=
  match (w.extractLsb' 21 3).toNat with
  | 0 => decV3 .vadd g w
  | 1 => decV3 .vsub g w
  | 2 => decV3 .vmul g w
  | 3 => decV3 .vmulh g w
  | 4 => decV3 .vmad g w
  | 5 => decV3 .vmin g w
  | 6 => decV3 .vmax g w
  | 7 => decV2 .vabs g w
  | _ => .error .unassigned

/-- The words of major opcode `0x09` (R69). -/
def decMajor09 (g : Grp) (w : W32) : Decoded :=
  match (w.extractLsb' 21 3).toNat with
  | 0 => decV3 .vand g w
  | 1 => decV3 .vor g w
  | 2 => decV3 .vxor g w
  | 3 => decV3 .vandn g w
  | 4 => decV3 .vshl g w
  | 5 => decV3 .vshr g w
  | 6 => decV3 .vsar g w
  | 7 => decV3 .vsel g w
  | _ => .error .unassigned

/-- The words of major opcode `0x0A` (R69). -/
def decMajor0A (g : Grp) (w : W32) : Decoded :=
  match (w.extractLsb' 21 3).toNat with
  | 0 => decV2 .vclz g w
  | 1 => decV2 .vctz g w
  | 2 => decV2 .vffs g w
  | 3 => decV2 .vpopc g w
  | 4 => decV2 .vbrev g w
  | 5 => decV3 .vbfe g w
  | 6 => decV3 .vbfi g w
  | 7 => decV3 .vdp4 g w
  | _ => .error .unassigned

/-- The words of major opcode `0x0B` (R69). -/
def decMajor0B (g : Grp) (w : W32) : Decoded :=
  match (w.extractLsb' 21 3).toNat with
  | 0 => decV3 .vcmpEq g w
  | 1 => decV3 .vcmpNe g w
  | 2 => decV3 .vcmpLt g w
  | 3 => decV3 .vcmpLe g w
  | 4 => decV3 .vcmpGt g w
  | 5 => decV3 .vcmpGe g w
  | 6 => decV3 .vdp2 g w
  | 7 => decV2 .vmov g w
  | _ => .error .unassigned

/-- The words of major opcode `0x0C` (R69). -/
def decMajor0C (g : Grp) (w : W32) : Decoded :=
  match (w.extractLsb' 21 3).toNat with
  | 0 => decV3 .vfadd g w
  | 1 => decV3 .vfsub g w
  | 2 => decV3 .vfmul g w
  | 3 => decV3 .vfma g w
  | 4 => decV3 .vfnma g w
  | 5 => decV3 .vfmin g w
  | 6 => decV3 .vfmax g w
  | 7 => decV2 .vfabs g w
  | _ => .error .unassigned

/-- The words of major opcode `0x0D` (R69). -/
def decMajor0D (g : Grp) (w : W32) : Decoded :=
  match (w.extractLsb' 21 3).toNat with
  | 0 => decV3 .vfcmpEq g w
  | 1 => decV3 .vfcmpLt g w
  | 2 => decV3 .vfcmpLe g w
  | 3 => decV3 .vfcmpUn g w
  | 4 => decV2 .vfclass g w
  | 5 => decV2 .vfrnd g w
  | 6 => decV2 .vfneg g w
  | 7 => decV3 .vfcpsgn g w
  | _ => .error .unassigned

/-- The words of major opcode `0x0E` (R69). -/
def decMajor0E (g : Grp) (w : W32) : Decoded :=
  match (w.extractLsb' 21 3).toNat with
  | 0 => decV3 .vfminNan g w
  | 1 => decV3 .vfmaxNan g w
  | 2 => decV3 .vfdot2 g w
  | 3 => decV3 .vfscl g w
  | 4 => decV2 .vfexp g w
  | 5 => decV2 .vfmant g w
  | 6 => decV3 .vflerp g w
  | _ => .error .unassigned

/-- The words of major opcode `0x10` (R69). -/
def decMajor10 (g : Grp) (w : W32) : Decoded :=
  match (w.extractLsb' 21 3).toNat with
  | 0 => decVC .vcvtF g w
  | 1 => decVC .vcvtI g w
  | 2 => decVC .vcvtN g w
  | 3 => decV3 .vcvtPk16 g w
  | 4 => decV3 .vcvtPk8 g w
  | 5 => decVC .vcvtUnpk g w
  | 6 => decV2 .vcvtBs g w
  | _ => .error .unassigned

/-- The words of major opcode `0x11` (R69). -/
def decMajor11 (g : Grp) (w : W32) : Decoded :=
  match (w.extractLsb' 21 3).toNat with
  | 0 => decV2 .vrcp g w
  | 1 => decV2 .vrsq g w
  | 2 => decV2 .vsqrt g w
  | 3 => decV2 .vexp2 g w
  | 4 => decV2 .vlog2 g w
  | 5 => decV2 .vsinp g w
  | 6 => decV2 .vcosp g w
  | 7 => decV2 .vtanh g w
  | _ => .error .unassigned

/-- The words of major opcode `0x12` (R69). -/
def decMajor12 (g : Grp) (w : W32) : Decoded :=
  match (w.extractLsb' 21 3).toNat with
  | 0 => decV3 .vcmul g w
  | 1 => decV3 .vcfma g w
  | 2 => decV3 .vcconj g w
  | 3 => decV3 .vcabs2 g w
  | 4 => decV2 .vwelf g w
  | 5 => decV2 .vwmrg g w
  | 6 => decVW .vwfin g w
  | _ => .error .unassigned

/-- The words of major opcode `0x13` (R69). -/
def decMajor13 (g : Grp) (w : W32) : Decoded :=
  match (w.extractLsb' 21 3).toNat with
  | 0 => decVL .vli g w
  | 1 => decVI .vaddi g w
  | 2 => decVI .vandi g w
  | 3 => decVI .vori g w
  | 4 => decVI .vxori g w
  | 5 => decVSh .vshli g w
  | 6 => decVSh .vshri g w
  | 7 => decVSh .vsari g w
  | _ => .error .unassigned

/-- The words of major opcode `0x14` (R69). -/
def decMajor14 (g : Grp) (w : W32) : Decoded :=
  match (w.extractLsb' 21 3).toNat with
  | 0 => decV3 .vshflIdx g w
  | 1 => decVSh .vshflUp g w
  | 2 => decVSh .vshflDn g w
  | 3 => decVSh .vshflXor g w
  | 4 => decV3 .vxsel g w
  | 5 => decVB .vbcast g w
  | 6 => decV1 .vlane g w
  | 7 => decVE .vext g w
  | _ => .error .unassigned

/-- The words of major opcode `0x15` (R69). -/
def decMajor15 (g : Grp) (w : W32) : Decoded :=
  match (w.extractLsb' 21 3).toNat with
  | 0 => decVS .vvoteAny g w
  | 1 => decVS .vvoteAll g w
  | 2 => decVS .vvoteUni g w
  | 3 => if bit w 20 then decVBM .vballotMask g w else decVS .vballot g w
  | 4 => decVR .vredux g w
  | 5 => decVR .vscanIn g w
  | 6 => decVR .vscanEx g w
  | 7 => decV2 .vmatch g w
  | _ => .error .unassigned

/-- The words of major opcode `0x18` (R69). -/
def decMajor18 (g : Grp) (w : W32) : Decoded :=
  match (w.extractLsb' 21 3).toNat with
  | 0 => decMB .vld8 g w
  | 1 => decMB .vld8s g w
  | 2 => decMB .vld16 g w
  | 3 => decMB .vld16s g w
  | 4 => decMB .vld32 g w
  | 5 => decMB .vld64 g w
  | 6 => decMB .vld128 g w
  | _ => .error .unassigned

/-- The words of major opcode `0x19` (R69). -/
def decMajor19 (g : Grp) (w : W32) : Decoded :=
  match (w.extractLsb' 21 3).toNat with
  | 0 => decM .vst8 g w
  | 1 => decM .vst16 g w
  | 2 => decM .vst32 g w
  | 3 => decM .vst64 g w
  | 4 => decM .vst128 g w
  | _ => .error .unassigned

/-- The words of major opcode `0x1A` (R69). -/
def decMajor1A (g : Grp) (w : W32) : Decoded :=
  match (w.extractLsb' 21 3).toNat with
  | 0 => decML .vldl g w
  | 1 => decM .vldg g w
  | 2 => decMP .prefL1 g w
  | 3 => decMP .prefL2 g w
  | _ => .error .unassigned

/-- The words of major opcode `0x1B` (R69). -/
def decMajor1B (g : Grp) (w : W32) : Decoded :=
  match (w.extractLsb' 21 3).toNat with
  | 0 => decM .vlsp8 g w
  | 1 => decM .vlsp32 g w
  | 2 => decM .vlsp64 g w
  | 3 => decM .vlsp128 g w
  | 4 => decM .vssp8 g w
  | 5 => decM .vssp32 g w
  | 6 => decM .vssp64 g w
  | 7 => decM .vssp128 g w
  | _ => .error .unassigned

/-- The words of major opcode `0x1C` (R69). -/
def decMajor1C (g : Grp) (w : W32) : Decoded :=
  match (w.extractLsb' 21 3).toNat with
  | 0 => decM .vamoAdd g w
  | 1 => decM .vamoMin g w
  | 2 => decM .vamoMax g w
  | 3 => decM .vamoAnd g w
  | 4 => decM .vamoOr g w
  | 5 => decM .vamoXor g w
  | 6 => decM .vamoXchg g w
  | 7 => decM .vamoCas g w
  | _ => .error .unassigned

/-- The words of major opcode `0x1D` (R69). -/
def decMajor1D (g : Grp) (w : W32) : Decoded :=
  match (w.extractLsb' 21 3).toNat with
  | 0 => decM .vamoIncw g w
  | 1 => decM .vamoFaddb g w
  | 2 => decM .vamoFaddF32 g w
  | _ => .error .unassigned

/-- The words of major opcode `0x1E` (R69). -/
def decMajor1E (g : Grp) (w : W32) : Decoded :=
  match (w.extractLsb' 21 3).toNat with
  | 0 => decM .vredAdd g w
  | 1 => decM .vredAddF32 g w
  | 2 => decM .vredAddBf16x2 g w
  | 3 => decM .vredMin g w
  | 4 => decM .vredMax g w
  | 5 => decM .vredAnd g w
  | 6 => decM .vredOr g w
  | 7 => decM .vredXor g w
  | _ => .error .unassigned

/-- The words of major opcode `0x1F` (R69). -/
noncomputable def decMajor1F (g : Grp) (w : W32) : Decoded :=
  match (w.extractLsb' 18 6).toNat with
  | 0 => decCFence .fence g w
  | 1 => decCT .trel g w
  | 2 => decCT .tfeSet g w
  | 3 => decCT .tfeClr g w
  | 4 => decCDT .tstat g w
  | 5 => decCDT .cbdef g w
  | 6 => decCDT .cbrel g w
  | 7 => decCD .mbat g w
  | _ => .error .unassigned

/-- The words of major opcode `0x20` (R69). -/
noncomputable def decMajor20 (g : Grp) (w : W32) : Decoded :=
  match (w.extractLsb' 20 4).toNat with
  | 0 => decX .mmaF16 g w
  | 1 => decX .mmaBf16 g w
  | 2 => decX .mmaE4m3 g w
  | 3 => decX .mmaE5m2 g w
  | 4 => decX .mmaE2m1 g w
  | 5 => decX .mmaI8 g w
  | 6 => decX .mmaF32 g w
  | _ => .error .unassigned

/-- The words of major opcode `0x21` (R69). -/
noncomputable def decMajor21 (g : Grp) (w : W32) : Decoded :=
  match (w.extractLsb' 20 4).toNat with
  | 0 => decX .smmaF16 g w
  | 1 => decX .smmaBf16 g w
  | 2 => decX .smmaE4m3 g w
  | 3 => decX .smmaI8 g w
  | _ => .error .unassigned

/-- The words of major opcode `0x22` (R69). -/
noncomputable def decMajor22 (g : Grp) (w : W32) : Decoded :=
  match (w.extractLsb' 18 6).toNat with
  | 0 => decCGA .mld g w
  | 1 => decCGA .mldt g w
  | 2 => decCVK .mrd g w
  | 3 => decCVK .mwr g w
  | 4 => decCK .mzero g w
  | _ => .error .unassigned

/-- The words of major opcode `0x24` (R69). -/
noncomputable def decMajor24 (g : Grp) (w : W32) : Decoded :=
  match (w.extractLsb' 18 6).toNat with
  | 0 => decCA .cpy g w
  | 1 => decCA .cpyg g w
  | 2 => decCA .cpyst g w
  | _ => .error .unassigned

/-- The words of major opcode `0x25` (R69). -/
noncomputable def decMajor25 (g : Grp) (w : W32) : Decoded :=
  match (w.extractLsb' 18 6).toNat with
  | 0 => decCA .sort g w
  | 1 => decCA .sortr g w
  | _ => .error .unassigned

/-- The words of major opcode `0x26` (R69). -/
noncomputable def decMajor26 (g : Grp) (w : W32) : Decoded :=
  match (w.extractLsb' 18 6).toNat with
  | 0 => decCNGK .trace g w
  | 1 => decCNA .rast g w
  | 2 => decCDAN .callx g w
  | 3 => decCAN .retx g w
  | 4 => decCA .hitret g w
  | _ => .error .unassigned

/-- The words of major opcode `0x27` (R69). -/
noncomputable def decMajor27 (g : Grp) (w : W32) : Decoded :=
  match (w.extractLsb' 21 3).toNat with
  | 0 => decVH .hgrid g w
  | 1 => decVH .hgrad g w
  | _ => .error .unassigned

/-- The words of major opcode `0x28` (R69). -/
noncomputable def decMajor28 (g : Grp) (w : W32) : Decoded :=
  match (w.extractLsb' 21 3).toNat with
  | 0 => decVH .cmps g w
  | 1 => decVH .cmpsb g w
  | _ => .error .unassigned

/-- The words of major opcode `0x29` (R69). -/
noncomputable def decMajor29 (g : Grp) (w : W32) : Decoded :=
  match (w.extractLsb' 18 6).toNat with
  | 0 => decCA .coll g w
  | _ => .error .unassigned

/-- One instruction word with what went before it in its group (R46, R69); its stall count is bits [25:24]. -/
noncomputable def decodeWord (g0 : Grp) (w : W32) : Decoded :=
  let g := { g0 with stall := w.extractLsb' 24 2 }
  match (w.extractLsb' 26 6).toNat with
  | 1 => decMajor01 g w
  | 2 => decMajor02 g w
  | 3 => decMajor03 g w
  | 4 => decMajor04 g w
  | 5 => decMajor05 g w
  | 6 => decMajor06 g w
  | 7 => decMajor07 g w
  | 8 => decMajor08 g w
  | 9 => decMajor09 g w
  | 10 => decMajor0A g w
  | 11 => decMajor0B g w
  | 12 => decMajor0C g w
  | 13 => decMajor0D g w
  | 14 => decMajor0E g w
  | 16 => decMajor10 g w
  | 17 => decMajor11 g w
  | 18 => decMajor12 g w
  | 19 => decMajor13 g w
  | 20 => decMajor14 g w
  | 21 => decMajor15 g w
  | 24 => decMajor18 g w
  | 25 => decMajor19 g w
  | 26 => decMajor1A g w
  | 27 => decMajor1B g w
  | 28 => decMajor1C g w
  | 29 => decMajor1D g w
  | 30 => decMajor1E g w
  | 31 => decMajor1F g w
  | 32 => decMajor20 g w
  | 33 => decMajor21 g w
  | 34 => decMajor22 g w
  | 36 => decMajor24 g w
  | 37 => decMajor25 g w
  | 38 => decMajor26 g w
  | 39 => decMajor27 g w
  | 40 => decMajor28 g w
  | 41 => decMajor29 g w
  | _ => .error .reservedMajor

/-- A scheduling hint's payload (R58). -/
noncomputable def decodeHint (w : W32) : Decoded :=
  if w.extractLsb' 4 4 == 0 && w.extractLsb' 16 8 == 0 then
    match (w.extractLsb' 0 4).toNat with
    | 0 => if w.extractLsb' 8 8 == 0 then .ok .hintNop else .error .reservedField
    | 1 => .ok (.hintYield (w.extractLsb' 8 8))
    | 2 => .ok (.hintBoost (w.extractLsb' 8 8))
    | 3 => if w.extractLsb' 9 7 == 0 then .ok (.hintSlot (bit w 8)) else .error .reservedField
    | _ => .error .unassigned
  else .error .reservedField

/-- A prefix word's fields (R53, R54). -/
def decodePfx (w : W32) : Except DecodeError Pfx :=
  let p : Pfx := { mask := w.extractLsb' 23 3, rnd := w.extractLsb' 20 3, op4 := w.extractLsb' 13 7, zero := bit w 12,
                   sat := bit w 11, typ := w.extractLsb' 7 4, nega := bit w 6, negb := bit w 5, abs := bit w 4 }
  if w.extractLsb' 0 4 == 0 then (if decide (p.rnd.toNat < 6) && p.typ != 15 then .ok p else .error .notAccepted)
  else .error .reservedField

/-- A modifier hint's payload (R60). -/
def decodeModifier (w : W32) : Except DecodeError Modifier :=
  let m : Modifier := { policy := w.extractLsb' 0 2, nt := bit w 2, line := w.extractLsb' 3 2 }
  if w.extractLsb' 5 19 == 0 then (if m.policy != 3 then .ok m else .error .notAccepted) else .error .reservedField

/-- The group so far, before its instruction word: nothing yet. -/
def Grp.start : Grp := Grp.alone 0

/-- What reading one more word of a group gives. -/
inductive Reading where
  /-- The group needs another word. -/
  | more (g : Grp)
  /-- The group is complete. -/
  | done (i : Instr)
  /-- The words are no group. -/
  | bad (e : DecodeError)
  deriving DecidableEq, Repr

/-- Accepts an instruction word's result when it is well formed (R54, R56, R59, R60). -/
def Reading.ofDecoded : Decoded → Reading
  | .ok i => if i.wf then .done i else .bad .notAccepted
  | .error e => .bad e

/-- Reads a hint word (R50, R51, R57 to R61). -/
noncomputable def readHint (g : Grp) (w : W32) : Reading :=
  match (w.extractLsb' 24 2).toNat with
  | 0 => if g = Grp.start then .ofDecoded (decodeHint w) else .bad .structure
  | 1 => if g.pfx.isNone && decide (g.limms.length < 2) then .more { g with limms := g.limms ++ [w.extractLsb' 0 24] }
         else .bad .structure
  | 2 => if g.pfx.isNone && g.limms.isEmpty && g.modifier.isNone then
           (match decodeModifier w with | .ok m => .more { g with modifier := some m } | .error e => .bad e)
         else .bad .structure
  | _ => if g.pfx.isNone && g.limms.isEmpty && g.ext.isNone then
           (if w.extractLsb' 8 16 == 0 then .more { g with ext := some (w.extractLsb' 0 8) } else .bad .reservedField)
         else .bad .structure

/-- Reads one more word of a group (R50, R51). -/
noncomputable def readWord (g : Grp) (w : W32) : Reading :=
  if w.extractLsb' 26 6 == 0x3F then readHint g w
  else if w.extractLsb' 26 6 == 0x3E then
    if g.pfx.isNone then (match decodePfx w with | .ok p => .more { g with pfx := some p } | .error e => .bad e)
    else .bad .structure
  else .ofDecoded (decodeWord g w)

/-- Reads a group from a list of words, from what has been read so far. -/
noncomputable def decodeFrom : Grp → List W32 → Except DecodeError (Instr × List W32)
  | _, [] => .error .truncated
  | g, w :: ws =>
    match readWord g w with
    | .more g' => decodeFrom g' ws
    | .done i => .ok (i, ws)
    | .bad e => .error e

/-- The decoder: the first group of a list of words and the words after it (R50). -/
noncomputable def decode (ws : List W32) : Except DecodeError (Instr × List W32) := decodeFrom Grp.start ws

/-- The words that bytes stand for, each word little-endian (R45); a last part of a word is left out. -/
def wordsOf : List Byte → List W32
  | a :: b :: c :: d :: rest => (d ++ c ++ b ++ a : BitVec 32) :: wordsOf rest
  | _ => []

/-- The decoder on bytes. -/
noncomputable def decodeBytes (bs : List Byte) : Except DecodeError (Instr × List W32) := decode (wordsOf bs)

/-- The bytes in which the hardware stores an instruction whose bits are `w` (R45): `nbits` of them, then zeros up
to the longest group, five words (R50). -/
def tableBytes (nbits w : Nat) : List Byte := toBytes 20 (w % 2 ^ nbits)

/-- The instruction the decoder reads from an instruction whose bits are `w`. -/
noncomputable def decodeTableWord (nbits w : Nat) : Option Instr :=
  match decodeBytes (tableBytes nbits w) with
  | .ok (i, _) => some i
  | .error _ => none

/-! The encoder. -/

/-- The operand bits of `OpS3` (R47). -/
def encS3 (o : OpS3) : BitVec 18 := (o.d ++ o.a ++ o.b : BitVec 18)

/-- The operand bits of `OpS2` (R47). -/
def encS2 (o : OpS2) : BitVec 18 := (o.d ++ o.a ++ (0 : BitVec 6) : BitVec 18)

/-- The operand bits of `OpSR` (R47). -/
def encSR (o : OpSR) : BitVec 18 := ((0 : BitVec 6) ++ o.a ++ o.b : BitVec 18)

/-- The operand bits of `OpSI` (R47). -/
def encSI (o : OpSI) : BitVec 22 := (o.d ++ o.imm : BitVec 22)

/-- The operand bits of `OpFB` (R47). -/
def encFB (o : OpFB) : BitVec 20 := (o.off : BitVec 20)

/-- The operand bits of `OpFIf` (R47). -/
def encFIf (o : OpFIf) : BitVec 21 := (o.m ++ o.off : BitVec 21)

/-- The operand bits of `OpFLab` (R47). -/
def encFLab (o : OpFLab) : BitVec 21 := ((0 : BitVec 3) ++ o.off : BitVec 21)

/-- The operand bits of `OpFM` (R47). -/
def encFM (o : OpFM) : BitVec 21 := (o.m ++ (0 : BitVec 18) : BitVec 21)

/-- The operand bits of `OpCA` (R47). -/
def encCA (o : OpCA) : BitVec 18 := ((0 : BitVec 6) ++ o.a ++ (0 : BitVec 6) : BitVec 18)

/-- The operand bits of `OpCAN` (R47). -/
def encCAN (o : OpCAN) : BitVec 18 := ((0 : BitVec 6) ++ o.a ++ o.n : BitVec 18)

/-- The operand bits of `OpCAK` (R47). -/
def encCAK (o : OpCAK) : BitVec 18 := ((0 : BitVec 6) ++ o.a ++ (0 : BitVec 2) ++ o.k : BitVec 18)

/-- The operand bits of `OpCDN` (R47). -/
def encCDN (o : OpCDN) : BitVec 18 := (o.d ++ (0 : BitVec 6) ++ o.n : BitVec 18)

/-- The operand bits of `OpCT` (R47). -/
def encCT (o : OpCT) : BitVec 18 := ((0 : BitVec 6) ++ o.t : BitVec 18)

/-- The operand bits of `OpCDT` (R47). -/
def encCDT (o : OpCDT) : BitVec 18 := (o.d ++ o.t : BitVec 18)

/-- The operand bits of `OpCD` (R47). -/
def encCD (o : OpCD) : BitVec 18 := (o.d ++ (0 : BitVec 12) : BitVec 18)

/-- The operand bits of `OpCGA` (R47). -/
def encCGA (o : OpCGA) : BitVec 18 := ((0 : BitVec 1) ++ o.g ++ o.a ++ (0 : BitVec 6) : BitVec 18)

/-- The operand bits of `OpCVK` (R47). -/
def encCVK (o : OpCVK) : BitVec 18 := ((0 : BitVec 2) ++ o.n ++ (0 : BitVec 6) ++ o.k : BitVec 18)

/-- The operand bits of `OpCK` (R47). -/
def encCK (o : OpCK) : BitVec 18 := ((0 : BitVec 12) ++ o.k : BitVec 18)

/-- The operand bits of `OpCNGK` (R47). -/
def encCNGK (o : OpCNGK) : BitVec 18 := ((0 : BitVec 2) ++ o.n ++ (0 : BitVec 2) ++ o.g ++ o.k : BitVec 18)

/-- The operand bits of `OpCNA` (R47). -/
def encCNA (o : OpCNA) : BitVec 18 := ((0 : BitVec 2) ++ o.n ++ o.a ++ (0 : BitVec 6) : BitVec 18)

/-- The operand bits of `OpCDAN` (R47). -/
def encCDAN (o : OpCDAN) : BitVec 18 := (o.d ++ o.a ++ o.n : BitVec 18)

/-- The operand bits of `OpCFence` (R47). -/
def encCFence (o : OpCFence) : BitVec 18 := ((0 : BitVec 13) ++ o.kind ++ o.scope : BitVec 18)

/-- The operand bits of `OpV3` (R47). -/
def encV3 (o : OpV3) : BitVec 21 := (o.d ++ o.a ++ o.b : BitVec 21)

/-- The operand bits of `OpV2` (R47). -/
def encV2 (o : OpV2) : BitVec 21 := (o.d ++ o.a ++ (0 : BitVec 7) : BitVec 21)

/-- The operand bits of `OpV1` (R47). -/
def encV1 (o : OpV1) : BitVec 21 := (o.d ++ (0 : BitVec 14) : BitVec 21)

/-- The operand bits of `OpVI` (R47). -/
def encVI (o : OpVI) : BitVec 21 := (o.d ++ o.a ++ o.imm : BitVec 21)

/-- The operand bits of `OpVSh` (R47). -/
def encVSh (o : OpVSh) : BitVec 21 := (o.d ++ o.a ++ (0 : BitVec 2) ++ o.n : BitVec 21)

/-- The operand bits of `OpVL` (R47). -/
def encVL (o : OpVL) : BitVec 21 := (o.d ++ (0 : BitVec 7) ++ o.imm : BitVec 21)

/-- The operand bits of `OpVC` (R47). -/
def encVC (o : OpVC) : BitVec 21 := (o.d ++ o.a ++ o.sel ++ o.ty : BitVec 21)

/-- The operand bits of `OpVW` (R47). -/
def encVW (o : OpVW) : BitVec 21 := (o.d ++ o.a ++ (0 : BitVec 6) ++ BitVec.ofBool o.k : BitVec 21)

/-- The operand bits of `OpVB` (R47). -/
def encVB (o : OpVB) : BitVec 21 := (o.d ++ (0 : BitVec 1) ++ o.a ++ (0 : BitVec 7) : BitVec 21)

/-- The operand bits of `OpVE` (R47). -/
def encVE (o : OpVE) : BitVec 21 := ((0 : BitVec 1) ++ o.d ++ o.a ++ (0 : BitVec 2) ++ o.n : BitVec 21)

/-- The operand bits of `OpVS` (R47). -/
def encVS (o : OpVS) : BitVec 21 := ((0 : BitVec 1) ++ o.d ++ o.a ++ (0 : BitVec 7) : BitVec 21)

/-- The operand bits of `OpVBM` (R47). -/
def encVBM (o : OpVBM) : BitVec 21 := ((1 : BitVec 1) ++ (0 : BitVec 3) ++ o.k ++ o.a ++ (0 : BitVec 7) : BitVec 21)

/-- The operand bits of `OpVR` (R47). -/
def encVR (o : OpVR) : BitVec 21 := (o.d ++ o.a ++ (0 : BitVec 4) ++ o.op : BitVec 21)

/-- The operand bits of `OpVH` (R47). -/
def encVH (o : OpVH) : BitVec 21 := (o.d ++ o.a ++ (0 : BitVec 1) ++ o.b : BitVec 21)

/-- The operand bits of `OpM` (R47). -/
def encM (o : OpM) : BitVec 21 := ((0 : BitVec 1) ++ o.ds ++ o.sb ++ o.vo : BitVec 21)

/-- The operand bits of `OpMB` (R47). -/
def encMB (o : OpMB) : BitVec 21 := (BitVec.ofBool o.byp ++ o.ds ++ o.sb ++ o.vo : BitVec 21)

/-- The operand bits of `OpML` (R47). -/
def encML (o : OpML) : BitVec 21 := (BitVec.ofBool o.byp ++ o.ds ++ o.sb ++ (0 : BitVec 5) ++ o.n : BitVec 21)

/-- The operand bits of `OpMP` (R47). -/
def encMP (o : OpMP) : BitVec 21 := ((0 : BitVec 8) ++ o.sb ++ o.vo : BitVec 21)

/-- The operand bits of `OpX` (R47). -/
def encX (o : OpX) : BitVec 20 := (BitVec.ofBool o.na ++ BitVec.ofBool o.nb ++ BitVec.ofBool o.zc ++ o.c ++ o.va ++ o.vb ++ BitVec.ofBool o.ext : BitVec 20)

/-- The last word of an instruction (R47, R69): major, stall, func and operands; 0 for a row that no word encodes. -/
def encodeWord : Instr → W32
  | .sadd g o => (1#6 ++ g.stall ++ 0#6 ++ encS3 o : BitVec 32)
  | .ssub g o => (1#6 ++ g.stall ++ 1#6 ++ encS3 o : BitVec 32)
  | .smul g o => (1#6 ++ g.stall ++ 2#6 ++ encS3 o : BitVec 32)
  | .smulhI g o => (1#6 ++ g.stall ++ 3#6 ++ encS3 o : BitVec 32)
  | .smulhN g o => (1#6 ++ g.stall ++ 4#6 ++ encS3 o : BitVec 32)
  | .sdivI g o => (1#6 ++ g.stall ++ 5#6 ++ encS3 o : BitVec 32)
  | .sdivN g o => (1#6 ++ g.stall ++ 6#6 ++ encS3 o : BitVec 32)
  | .sremI g o => (1#6 ++ g.stall ++ 7#6 ++ encS3 o : BitVec 32)
  | .sremN g o => (1#6 ++ g.stall ++ 8#6 ++ encS3 o : BitVec 32)
  | .sand g o => (1#6 ++ g.stall ++ 9#6 ++ encS3 o : BitVec 32)
  | .sor g o => (1#6 ++ g.stall ++ 10#6 ++ encS3 o : BitVec 32)
  | .sxor g o => (1#6 ++ g.stall ++ 11#6 ++ encS3 o : BitVec 32)
  | .sandn g o => (1#6 ++ g.stall ++ 12#6 ++ encS3 o : BitVec 32)
  | .sshl g o => (1#6 ++ g.stall ++ 13#6 ++ encS3 o : BitVec 32)
  | .sshr g o => (1#6 ++ g.stall ++ 14#6 ++ encS3 o : BitVec 32)
  | .ssar g o => (1#6 ++ g.stall ++ 15#6 ++ encS3 o : BitVec 32)
  | .sminI g o => (1#6 ++ g.stall ++ 16#6 ++ encS3 o : BitVec 32)
  | .sminN g o => (1#6 ++ g.stall ++ 17#6 ++ encS3 o : BitVec 32)
  | .smaxI g o => (1#6 ++ g.stall ++ 18#6 ++ encS3 o : BitVec 32)
  | .smaxN g o => (1#6 ++ g.stall ++ 19#6 ++ encS3 o : BitVec 32)
  | .scmpEq g o => (1#6 ++ g.stall ++ 20#6 ++ encS3 o : BitVec 32)
  | .scmpNe g o => (1#6 ++ g.stall ++ 21#6 ++ encS3 o : BitVec 32)
  | .scmpLtI g o => (1#6 ++ g.stall ++ 22#6 ++ encS3 o : BitVec 32)
  | .scmpLtN g o => (1#6 ++ g.stall ++ 23#6 ++ encS3 o : BitVec 32)
  | .scmpLeI g o => (1#6 ++ g.stall ++ 24#6 ++ encS3 o : BitVec 32)
  | .scmpLeN g o => (1#6 ++ g.stall ++ 25#6 ++ encS3 o : BitVec 32)
  | .ssel g o => (1#6 ++ g.stall ++ 26#6 ++ encS3 o : BitVec 32)
  | .smov g o => (1#6 ++ g.stall ++ 27#6 ++ encS2 o : BitVec 32)
  | .sclz g o => (1#6 ++ g.stall ++ 28#6 ++ encS2 o : BitVec 32)
  | .sctz g o => (1#6 ++ g.stall ++ 29#6 ++ encS2 o : BitVec 32)
  | .spopc g o => (1#6 ++ g.stall ++ 30#6 ++ encS2 o : BitVec 32)
  | .sbrev g o => (1#6 ++ g.stall ++ 31#6 ++ encS2 o : BitVec 32)
  | .sbfeI g o => (1#6 ++ g.stall ++ 32#6 ++ encS3 o : BitVec 32)
  | .sbfeN g o => (1#6 ++ g.stall ++ 33#6 ++ encS3 o : BitVec 32)
  | .sbfi g o => (1#6 ++ g.stall ++ 34#6 ++ encS3 o : BitVec 32)
  | .sadr1 g o => (1#6 ++ g.stall ++ 35#6 ++ encS3 o : BitVec 32)
  | .sadr2 g o => (1#6 ++ g.stall ++ 36#6 ++ encS3 o : BitVec 32)
  | .sadr3 g o => (1#6 ++ g.stall ++ 37#6 ++ encS3 o : BitVec 32)
  | .sxtI8 g o => (1#6 ++ g.stall ++ 38#6 ++ encS2 o : BitVec 32)
  | .sxtI16 g o => (1#6 ++ g.stall ++ 39#6 ++ encS2 o : BitVec 32)
  | .sxtI32 g o => (1#6 ++ g.stall ++ 40#6 ++ encS2 o : BitVec 32)
  | .sxtN8 g o => (1#6 ++ g.stall ++ 41#6 ++ encS2 o : BitVec 32)
  | .sxtN16 g o => (1#6 ++ g.stall ++ 42#6 ++ encS2 o : BitVec 32)
  | .sxtN32 g o => (1#6 ++ g.stall ++ 43#6 ++ encS2 o : BitVec 32)
  | .sli g o => (2#6 ++ g.stall ++ 0#2 ++ encSI o : BitVec 32)
  | .slui g o => (2#6 ++ g.stall ++ 1#2 ++ encSI o : BitVec 32)
  | .saddi g o => (2#6 ++ g.stall ++ 2#2 ++ encSI o : BitVec 32)
  | .sandi g o => (2#6 ++ g.stall ++ 3#2 ++ encSI o : BitVec 32)
  | .sld8 g o => (3#6 ++ g.stall ++ 0#6 ++ encS3 o : BitVec 32)
  | .sld16 g o => (3#6 ++ g.stall ++ 1#6 ++ encS3 o : BitVec 32)
  | .sld32 g o => (3#6 ++ g.stall ++ 2#6 ++ encS3 o : BitVec 32)
  | .sld64 g o => (3#6 ++ g.stall ++ 3#6 ++ encS3 o : BitVec 32)
  | .sst8 g o => (3#6 ++ g.stall ++ 4#6 ++ encS3 o : BitVec 32)
  | .sst16 g o => (3#6 ++ g.stall ++ 5#6 ++ encS3 o : BitVec 32)
  | .sst32 g o => (3#6 ++ g.stall ++ 6#6 ++ encS3 o : BitVec 32)
  | .sst64 g o => (3#6 ++ g.stall ++ 7#6 ++ encS3 o : BitVec 32)
  | .samoAdd g o => (3#6 ++ g.stall ++ 8#6 ++ encS3 o : BitVec 32)
  | .samoMinI g o => (3#6 ++ g.stall ++ 9#6 ++ encS3 o : BitVec 32)
  | .samoMaxI g o => (3#6 ++ g.stall ++ 10#6 ++ encS3 o : BitVec 32)
  | .samoMinN g o => (3#6 ++ g.stall ++ 11#6 ++ encS3 o : BitVec 32)
  | .samoMaxN g o => (3#6 ++ g.stall ++ 12#6 ++ encS3 o : BitVec 32)
  | .samoAnd g o => (3#6 ++ g.stall ++ 13#6 ++ encS3 o : BitVec 32)
  | .samoOr g o => (3#6 ++ g.stall ++ 14#6 ++ encS3 o : BitVec 32)
  | .samoXor g o => (3#6 ++ g.stall ++ 15#6 ++ encS3 o : BitVec 32)
  | .samoXchg g o => (3#6 ++ g.stall ++ 16#6 ++ encS3 o : BitVec 32)
  | .samoCas g o => (3#6 ++ g.stall ++ 17#6 ++ encS3 o : BitVec 32)
  | .samoIncw g o => (3#6 ++ g.stall ++ 18#6 ++ encS3 o : BitVec 32)
  | .samoFaddb g o => (3#6 ++ g.stall ++ 19#6 ++ encS3 o : BitVec 32)
  | .srwlRacq g o => (3#6 ++ g.stall ++ 20#6 ++ encS2 o : BitVec 32)
  | .srwlRrel g o => (3#6 ++ g.stall ++ 21#6 ++ encS2 o : BitVec 32)
  | .srwlWacq g o => (3#6 ++ g.stall ++ 22#6 ++ encS3 o : BitVec 32)
  | .srwlWrel g o => (3#6 ++ g.stall ++ 23#6 ++ encS2 o : BitVec 32)
  | .sredAdd g o => (3#6 ++ g.stall ++ 24#6 ++ encSR o : BitVec 32)
  | .sredAddF32 g o => (3#6 ++ g.stall ++ 25#6 ++ encSR o : BitVec 32)
  | .br g o => (4#6 ++ g.stall ++ 0#4 ++ encFB o : BitVec 32)
  | .call g o => (4#6 ++ g.stall ++ 1#4 ++ encFB o : BitVec 32)
  | .brz g o => (5#6 ++ g.stall ++ o.a ++ 0#2 ++ o.off : BitVec 32)
  | .brnz g o => (5#6 ++ g.stall ++ o.a ++ 1#2 ++ o.off : BitVec 32)
  | .brn g o => (5#6 ++ g.stall ++ o.a ++ 2#2 ++ o.off : BitVec 32)
  | .brnn g o => (5#6 ++ g.stall ++ o.a ++ 3#2 ++ o.off : BitVec 32)
  | .ret g o => (6#6 ++ g.stall ++ 0#6 ++ encCA o : BitVec 32)
  | .opEnd g => (6#6 ++ g.stall ++ 1#6 ++ 0#18 : BitVec 32)
  | .step g o => (6#6 ++ g.stall ++ 2#6 ++ encCAN o : BitVec 32)
  | .bar g o => (6#6 ++ g.stall ++ 3#6 ++ encCAK o : BitVec 32)
  | .trap g o => (6#6 ++ g.stall ++ 4#6 ++ encCDN o : BitVec 32)
  | .spawn g o => (6#6 ++ g.stall ++ 5#6 ++ encCAN o : BitVec 32)
  | .launch g o => (6#6 ++ g.stall ++ 6#6 ++ encCA o : BitVec 32)
  | .srd g o => (6#6 ++ g.stall ++ 7#6 ++ encCDN o : BitVec 32)
  | .swr g o => (6#6 ++ g.stall ++ 8#6 ++ encCAN o : BitVec 32)
  | .opIf g o => (7#6 ++ g.stall ++ 0#3 ++ encFIf o : BitVec 32)
  | .opElse g o => (7#6 ++ g.stall ++ 1#3 ++ encFLab o : BitVec 32)
  | .endif g => (7#6 ++ g.stall ++ 2#3 ++ 0#21 : BitVec 32)
  | .loop g o => (7#6 ++ g.stall ++ 3#3 ++ encFLab o : BitVec 32)
  | .brk g o => (7#6 ++ g.stall ++ 4#3 ++ encFM o : BitVec 32)
  | .nxt g o => (7#6 ++ g.stall ++ 5#3 ++ encFM o : BitVec 32)
  | .endl g o => (7#6 ++ g.stall ++ 6#3 ++ encFLab o : BitVec 32)
  | .vadd g o => (8#6 ++ g.stall ++ 0#3 ++ encV3 o : BitVec 32)
  | .vsub g o => (8#6 ++ g.stall ++ 1#3 ++ encV3 o : BitVec 32)
  | .vmul g o => (8#6 ++ g.stall ++ 2#3 ++ encV3 o : BitVec 32)
  | .vmulh g o => (8#6 ++ g.stall ++ 3#3 ++ encV3 o : BitVec 32)
  | .vmad g o => (8#6 ++ g.stall ++ 4#3 ++ encV3 o : BitVec 32)
  | .vmin g o => (8#6 ++ g.stall ++ 5#3 ++ encV3 o : BitVec 32)
  | .vmax g o => (8#6 ++ g.stall ++ 6#3 ++ encV3 o : BitVec 32)
  | .vabs g o => (8#6 ++ g.stall ++ 7#3 ++ encV2 o : BitVec 32)
  | .vand g o => (9#6 ++ g.stall ++ 0#3 ++ encV3 o : BitVec 32)
  | .vor g o => (9#6 ++ g.stall ++ 1#3 ++ encV3 o : BitVec 32)
  | .vxor g o => (9#6 ++ g.stall ++ 2#3 ++ encV3 o : BitVec 32)
  | .vandn g o => (9#6 ++ g.stall ++ 3#3 ++ encV3 o : BitVec 32)
  | .vshl g o => (9#6 ++ g.stall ++ 4#3 ++ encV3 o : BitVec 32)
  | .vshr g o => (9#6 ++ g.stall ++ 5#3 ++ encV3 o : BitVec 32)
  | .vsar g o => (9#6 ++ g.stall ++ 6#3 ++ encV3 o : BitVec 32)
  | .vsel g o => (9#6 ++ g.stall ++ 7#3 ++ encV3 o : BitVec 32)
  | .vclz g o => (10#6 ++ g.stall ++ 0#3 ++ encV2 o : BitVec 32)
  | .vctz g o => (10#6 ++ g.stall ++ 1#3 ++ encV2 o : BitVec 32)
  | .vffs g o => (10#6 ++ g.stall ++ 2#3 ++ encV2 o : BitVec 32)
  | .vpopc g o => (10#6 ++ g.stall ++ 3#3 ++ encV2 o : BitVec 32)
  | .vbrev g o => (10#6 ++ g.stall ++ 4#3 ++ encV2 o : BitVec 32)
  | .vbfe g o => (10#6 ++ g.stall ++ 5#3 ++ encV3 o : BitVec 32)
  | .vbfi g o => (10#6 ++ g.stall ++ 6#3 ++ encV3 o : BitVec 32)
  | .vdp4 g o => (10#6 ++ g.stall ++ 7#3 ++ encV3 o : BitVec 32)
  | .vcmpEq g o => (11#6 ++ g.stall ++ 0#3 ++ encV3 o : BitVec 32)
  | .vcmpNe g o => (11#6 ++ g.stall ++ 1#3 ++ encV3 o : BitVec 32)
  | .vcmpLt g o => (11#6 ++ g.stall ++ 2#3 ++ encV3 o : BitVec 32)
  | .vcmpLe g o => (11#6 ++ g.stall ++ 3#3 ++ encV3 o : BitVec 32)
  | .vcmpGt g o => (11#6 ++ g.stall ++ 4#3 ++ encV3 o : BitVec 32)
  | .vcmpGe g o => (11#6 ++ g.stall ++ 5#3 ++ encV3 o : BitVec 32)
  | .vdp2 g o => (11#6 ++ g.stall ++ 6#3 ++ encV3 o : BitVec 32)
  | .vmov g o => (11#6 ++ g.stall ++ 7#3 ++ encV2 o : BitVec 32)
  | .vfadd g o => (12#6 ++ g.stall ++ 0#3 ++ encV3 o : BitVec 32)
  | .vfsub g o => (12#6 ++ g.stall ++ 1#3 ++ encV3 o : BitVec 32)
  | .vfmul g o => (12#6 ++ g.stall ++ 2#3 ++ encV3 o : BitVec 32)
  | .vfma g o => (12#6 ++ g.stall ++ 3#3 ++ encV3 o : BitVec 32)
  | .vfnma g o => (12#6 ++ g.stall ++ 4#3 ++ encV3 o : BitVec 32)
  | .vfmin g o => (12#6 ++ g.stall ++ 5#3 ++ encV3 o : BitVec 32)
  | .vfmax g o => (12#6 ++ g.stall ++ 6#3 ++ encV3 o : BitVec 32)
  | .vfabs g o => (12#6 ++ g.stall ++ 7#3 ++ encV2 o : BitVec 32)
  | .vfcmpEq g o => (13#6 ++ g.stall ++ 0#3 ++ encV3 o : BitVec 32)
  | .vfcmpLt g o => (13#6 ++ g.stall ++ 1#3 ++ encV3 o : BitVec 32)
  | .vfcmpLe g o => (13#6 ++ g.stall ++ 2#3 ++ encV3 o : BitVec 32)
  | .vfcmpUn g o => (13#6 ++ g.stall ++ 3#3 ++ encV3 o : BitVec 32)
  | .vfclass g o => (13#6 ++ g.stall ++ 4#3 ++ encV2 o : BitVec 32)
  | .vfrnd g o => (13#6 ++ g.stall ++ 5#3 ++ encV2 o : BitVec 32)
  | .vfneg g o => (13#6 ++ g.stall ++ 6#3 ++ encV2 o : BitVec 32)
  | .vfcpsgn g o => (13#6 ++ g.stall ++ 7#3 ++ encV3 o : BitVec 32)
  | .vfminNan g o => (14#6 ++ g.stall ++ 0#3 ++ encV3 o : BitVec 32)
  | .vfmaxNan g o => (14#6 ++ g.stall ++ 1#3 ++ encV3 o : BitVec 32)
  | .vfdot2 g o => (14#6 ++ g.stall ++ 2#3 ++ encV3 o : BitVec 32)
  | .vfscl g o => (14#6 ++ g.stall ++ 3#3 ++ encV3 o : BitVec 32)
  | .vfexp g o => (14#6 ++ g.stall ++ 4#3 ++ encV2 o : BitVec 32)
  | .vfmant g o => (14#6 ++ g.stall ++ 5#3 ++ encV2 o : BitVec 32)
  | .vflerp g o => (14#6 ++ g.stall ++ 6#3 ++ encV3 o : BitVec 32)
  | .vcvtF g o => (16#6 ++ g.stall ++ 0#3 ++ encVC o : BitVec 32)
  | .vcvtI g o => (16#6 ++ g.stall ++ 1#3 ++ encVC o : BitVec 32)
  | .vcvtN g o => (16#6 ++ g.stall ++ 2#3 ++ encVC o : BitVec 32)
  | .vcvtPk16 g o => (16#6 ++ g.stall ++ 3#3 ++ encV3 o : BitVec 32)
  | .vcvtPk8 g o => (16#6 ++ g.stall ++ 4#3 ++ encV3 o : BitVec 32)
  | .vcvtUnpk g o => (16#6 ++ g.stall ++ 5#3 ++ encVC o : BitVec 32)
  | .vcvtBs g o => (16#6 ++ g.stall ++ 6#3 ++ encV2 o : BitVec 32)
  | .vrcp g o => (17#6 ++ g.stall ++ 0#3 ++ encV2 o : BitVec 32)
  | .vrsq g o => (17#6 ++ g.stall ++ 1#3 ++ encV2 o : BitVec 32)
  | .vsqrt g o => (17#6 ++ g.stall ++ 2#3 ++ encV2 o : BitVec 32)
  | .vexp2 g o => (17#6 ++ g.stall ++ 3#3 ++ encV2 o : BitVec 32)
  | .vlog2 g o => (17#6 ++ g.stall ++ 4#3 ++ encV2 o : BitVec 32)
  | .vsinp g o => (17#6 ++ g.stall ++ 5#3 ++ encV2 o : BitVec 32)
  | .vcosp g o => (17#6 ++ g.stall ++ 6#3 ++ encV2 o : BitVec 32)
  | .vtanh g o => (17#6 ++ g.stall ++ 7#3 ++ encV2 o : BitVec 32)
  | .vcmul g o => (18#6 ++ g.stall ++ 0#3 ++ encV3 o : BitVec 32)
  | .vcfma g o => (18#6 ++ g.stall ++ 1#3 ++ encV3 o : BitVec 32)
  | .vcconj g o => (18#6 ++ g.stall ++ 2#3 ++ encV3 o : BitVec 32)
  | .vcabs2 g o => (18#6 ++ g.stall ++ 3#3 ++ encV3 o : BitVec 32)
  | .vwelf g o => (18#6 ++ g.stall ++ 4#3 ++ encV2 o : BitVec 32)
  | .vwmrg g o => (18#6 ++ g.stall ++ 5#3 ++ encV2 o : BitVec 32)
  | .vwfin g o => (18#6 ++ g.stall ++ 6#3 ++ encVW o : BitVec 32)
  | .vli g o => (19#6 ++ g.stall ++ 0#3 ++ encVL o : BitVec 32)
  | .vaddi g o => (19#6 ++ g.stall ++ 1#3 ++ encVI o : BitVec 32)
  | .vandi g o => (19#6 ++ g.stall ++ 2#3 ++ encVI o : BitVec 32)
  | .vori g o => (19#6 ++ g.stall ++ 3#3 ++ encVI o : BitVec 32)
  | .vxori g o => (19#6 ++ g.stall ++ 4#3 ++ encVI o : BitVec 32)
  | .vshli g o => (19#6 ++ g.stall ++ 5#3 ++ encVSh o : BitVec 32)
  | .vshri g o => (19#6 ++ g.stall ++ 6#3 ++ encVSh o : BitVec 32)
  | .vsari g o => (19#6 ++ g.stall ++ 7#3 ++ encVSh o : BitVec 32)
  | .vshflIdx g o => (20#6 ++ g.stall ++ 0#3 ++ encV3 o : BitVec 32)
  | .vshflUp g o => (20#6 ++ g.stall ++ 1#3 ++ encVSh o : BitVec 32)
  | .vshflDn g o => (20#6 ++ g.stall ++ 2#3 ++ encVSh o : BitVec 32)
  | .vshflXor g o => (20#6 ++ g.stall ++ 3#3 ++ encVSh o : BitVec 32)
  | .vxsel g o => (20#6 ++ g.stall ++ 4#3 ++ encV3 o : BitVec 32)
  | .vbcast g o => (20#6 ++ g.stall ++ 5#3 ++ encVB o : BitVec 32)
  | .vlane g o => (20#6 ++ g.stall ++ 6#3 ++ encV1 o : BitVec 32)
  | .vext g o => (20#6 ++ g.stall ++ 7#3 ++ encVE o : BitVec 32)
  | .vvoteAny g o => (21#6 ++ g.stall ++ 0#3 ++ encVS o : BitVec 32)
  | .vvoteAll g o => (21#6 ++ g.stall ++ 1#3 ++ encVS o : BitVec 32)
  | .vvoteUni g o => (21#6 ++ g.stall ++ 2#3 ++ encVS o : BitVec 32)
  | .vballot g o => (21#6 ++ g.stall ++ 3#3 ++ encVS o : BitVec 32)
  | .vballotMask g o => (21#6 ++ g.stall ++ 3#3 ++ encVBM o : BitVec 32)
  | .vredux g o => (21#6 ++ g.stall ++ 4#3 ++ encVR o : BitVec 32)
  | .vscanIn g o => (21#6 ++ g.stall ++ 5#3 ++ encVR o : BitVec 32)
  | .vscanEx g o => (21#6 ++ g.stall ++ 6#3 ++ encVR o : BitVec 32)
  | .vmatch g o => (21#6 ++ g.stall ++ 7#3 ++ encV2 o : BitVec 32)
  | .vld8 g o => (24#6 ++ g.stall ++ 0#3 ++ encMB o : BitVec 32)
  | .vld8s g o => (24#6 ++ g.stall ++ 1#3 ++ encMB o : BitVec 32)
  | .vld16 g o => (24#6 ++ g.stall ++ 2#3 ++ encMB o : BitVec 32)
  | .vld16s g o => (24#6 ++ g.stall ++ 3#3 ++ encMB o : BitVec 32)
  | .vld32 g o => (24#6 ++ g.stall ++ 4#3 ++ encMB o : BitVec 32)
  | .vld64 g o => (24#6 ++ g.stall ++ 5#3 ++ encMB o : BitVec 32)
  | .vld128 g o => (24#6 ++ g.stall ++ 6#3 ++ encMB o : BitVec 32)
  | .vst8 g o => (25#6 ++ g.stall ++ 0#3 ++ encM o : BitVec 32)
  | .vst16 g o => (25#6 ++ g.stall ++ 1#3 ++ encM o : BitVec 32)
  | .vst32 g o => (25#6 ++ g.stall ++ 2#3 ++ encM o : BitVec 32)
  | .vst64 g o => (25#6 ++ g.stall ++ 3#3 ++ encM o : BitVec 32)
  | .vst128 g o => (25#6 ++ g.stall ++ 4#3 ++ encM o : BitVec 32)
  | .vldl g o => (26#6 ++ g.stall ++ 0#3 ++ encML o : BitVec 32)
  | .vldg g o => (26#6 ++ g.stall ++ 1#3 ++ encM o : BitVec 32)
  | .prefL1 g o => (26#6 ++ g.stall ++ 2#3 ++ encMP o : BitVec 32)
  | .prefL2 g o => (26#6 ++ g.stall ++ 3#3 ++ encMP o : BitVec 32)
  | .vlsp8 g o => (27#6 ++ g.stall ++ 0#3 ++ encM o : BitVec 32)
  | .vlsp32 g o => (27#6 ++ g.stall ++ 1#3 ++ encM o : BitVec 32)
  | .vlsp64 g o => (27#6 ++ g.stall ++ 2#3 ++ encM o : BitVec 32)
  | .vlsp128 g o => (27#6 ++ g.stall ++ 3#3 ++ encM o : BitVec 32)
  | .vssp8 g o => (27#6 ++ g.stall ++ 4#3 ++ encM o : BitVec 32)
  | .vssp32 g o => (27#6 ++ g.stall ++ 5#3 ++ encM o : BitVec 32)
  | .vssp64 g o => (27#6 ++ g.stall ++ 6#3 ++ encM o : BitVec 32)
  | .vssp128 g o => (27#6 ++ g.stall ++ 7#3 ++ encM o : BitVec 32)
  | .vamoAdd g o => (28#6 ++ g.stall ++ 0#3 ++ encM o : BitVec 32)
  | .vamoMin g o => (28#6 ++ g.stall ++ 1#3 ++ encM o : BitVec 32)
  | .vamoMax g o => (28#6 ++ g.stall ++ 2#3 ++ encM o : BitVec 32)
  | .vamoAnd g o => (28#6 ++ g.stall ++ 3#3 ++ encM o : BitVec 32)
  | .vamoOr g o => (28#6 ++ g.stall ++ 4#3 ++ encM o : BitVec 32)
  | .vamoXor g o => (28#6 ++ g.stall ++ 5#3 ++ encM o : BitVec 32)
  | .vamoXchg g o => (28#6 ++ g.stall ++ 6#3 ++ encM o : BitVec 32)
  | .vamoCas g o => (28#6 ++ g.stall ++ 7#3 ++ encM o : BitVec 32)
  | .vamoIncw g o => (29#6 ++ g.stall ++ 0#3 ++ encM o : BitVec 32)
  | .vamoFaddb g o => (29#6 ++ g.stall ++ 1#3 ++ encM o : BitVec 32)
  | .vamoFaddF32 g o => (29#6 ++ g.stall ++ 2#3 ++ encM o : BitVec 32)
  | .vredAdd g o => (30#6 ++ g.stall ++ 0#3 ++ encM o : BitVec 32)
  | .vredAddF32 g o => (30#6 ++ g.stall ++ 1#3 ++ encM o : BitVec 32)
  | .vredAddBf16x2 g o => (30#6 ++ g.stall ++ 2#3 ++ encM o : BitVec 32)
  | .vredMin g o => (30#6 ++ g.stall ++ 3#3 ++ encM o : BitVec 32)
  | .vredMax g o => (30#6 ++ g.stall ++ 4#3 ++ encM o : BitVec 32)
  | .vredAnd g o => (30#6 ++ g.stall ++ 5#3 ++ encM o : BitVec 32)
  | .vredOr g o => (30#6 ++ g.stall ++ 6#3 ++ encM o : BitVec 32)
  | .vredXor g o => (30#6 ++ g.stall ++ 7#3 ++ encM o : BitVec 32)
  | .fence g o => (31#6 ++ g.stall ++ 0#6 ++ encCFence o : BitVec 32)
  | .trel g o => (31#6 ++ g.stall ++ 1#6 ++ encCT o : BitVec 32)
  | .tfeSet g o => (31#6 ++ g.stall ++ 2#6 ++ encCT o : BitVec 32)
  | .tfeClr g o => (31#6 ++ g.stall ++ 3#6 ++ encCT o : BitVec 32)
  | .tstat g o => (31#6 ++ g.stall ++ 4#6 ++ encCDT o : BitVec 32)
  | .cbdef g o => (31#6 ++ g.stall ++ 5#6 ++ encCDT o : BitVec 32)
  | .cbrel g o => (31#6 ++ g.stall ++ 6#6 ++ encCDT o : BitVec 32)
  | .mbat g o => (31#6 ++ g.stall ++ 7#6 ++ encCD o : BitVec 32)
  | .mmaF16 g o => (32#6 ++ g.stall ++ 0#4 ++ encX o : BitVec 32)
  | .mmaBf16 g o => (32#6 ++ g.stall ++ 1#4 ++ encX o : BitVec 32)
  | .mmaE4m3 g o => (32#6 ++ g.stall ++ 2#4 ++ encX o : BitVec 32)
  | .mmaE5m2 g o => (32#6 ++ g.stall ++ 3#4 ++ encX o : BitVec 32)
  | .mmaE2m1 g o => (32#6 ++ g.stall ++ 4#4 ++ encX o : BitVec 32)
  | .mmaI8 g o => (32#6 ++ g.stall ++ 5#4 ++ encX o : BitVec 32)
  | .mmaF32 g o => (32#6 ++ g.stall ++ 6#4 ++ encX o : BitVec 32)
  | .smmaF16 g o => (33#6 ++ g.stall ++ 0#4 ++ encX o : BitVec 32)
  | .smmaBf16 g o => (33#6 ++ g.stall ++ 1#4 ++ encX o : BitVec 32)
  | .smmaE4m3 g o => (33#6 ++ g.stall ++ 2#4 ++ encX o : BitVec 32)
  | .smmaI8 g o => (33#6 ++ g.stall ++ 3#4 ++ encX o : BitVec 32)
  | .mld g o => (34#6 ++ g.stall ++ 0#6 ++ encCGA o : BitVec 32)
  | .mldt g o => (34#6 ++ g.stall ++ 1#6 ++ encCGA o : BitVec 32)
  | .mrd g o => (34#6 ++ g.stall ++ 2#6 ++ encCVK o : BitVec 32)
  | .mwr g o => (34#6 ++ g.stall ++ 3#6 ++ encCVK o : BitVec 32)
  | .mzero g o => (34#6 ++ g.stall ++ 4#6 ++ encCK o : BitVec 32)
  | .cpy g o => (36#6 ++ g.stall ++ 0#6 ++ encCA o : BitVec 32)
  | .cpyg g o => (36#6 ++ g.stall ++ 1#6 ++ encCA o : BitVec 32)
  | .cpyst g o => (36#6 ++ g.stall ++ 2#6 ++ encCA o : BitVec 32)
  | .sort g o => (37#6 ++ g.stall ++ 0#6 ++ encCA o : BitVec 32)
  | .sortr g o => (37#6 ++ g.stall ++ 1#6 ++ encCA o : BitVec 32)
  | .trace g o => (38#6 ++ g.stall ++ 0#6 ++ encCNGK o : BitVec 32)
  | .rast g o => (38#6 ++ g.stall ++ 1#6 ++ encCNA o : BitVec 32)
  | .callx g o => (38#6 ++ g.stall ++ 2#6 ++ encCDAN o : BitVec 32)
  | .retx g o => (38#6 ++ g.stall ++ 3#6 ++ encCAN o : BitVec 32)
  | .hitret g o => (38#6 ++ g.stall ++ 4#6 ++ encCA o : BitVec 32)
  | .hgrid g o => (39#6 ++ g.stall ++ 0#3 ++ encVH o : BitVec 32)
  | .hgrad g o => (39#6 ++ g.stall ++ 1#3 ++ encVH o : BitVec 32)
  | .cmps g o => (40#6 ++ g.stall ++ 0#3 ++ encVH o : BitVec 32)
  | .cmpsb g o => (40#6 ++ g.stall ++ 1#3 ++ encVH o : BitVec 32)
  | .coll g o => (41#6 ++ g.stall ++ 0#6 ++ encCA o : BitVec 32)
  | .hintNop => 0xFC000000#32
  | .hintYield n => (0xFC00#16 ++ n ++ 1#8 : BitVec 32)
  | .hintBoost n => (0xFC00#16 ++ n ++ 2#8 : BitVec 32)
  | .hintSlot b => (0xFC00#16 ++ 0#7 ++ BitVec.ofBool b ++ 3#8 : BitVec 32)
  | .yieldExpiry _ _ => 0
  | .boostExpiry _ _ => 0
  | .loadResponse _ _ _ => 0
  | .stepDispatch _ => 0
  | .watchPeriodicTest _ => 0
  | .quantumCommit _ _ => 0
  | .crewPlacement _ _ => 0
  | .crewRelease _ _ => 0
  | .spawnItemPlacement _ _ _ => 0
  | .regroupedGangIssue _ _ _ _ => 0
  | .regroupTimeout _ _ _ _ => 0
  | .slotAged _ _ => 0
  | .matrixOperationStart _ => 0
  | .matrixOperationCompletion _ _ => 0
  | .preemptionPoint _ _ => 0
  | .copyCommandStart _ _ => 0
  | .stashOccupancyRetry _ _ => 0
  | .copyCompletion _ _ => 0
  | .cpystCompletion _ _ => 0
  | .sortCommandStart _ => 0
  | .sortCommandCompletion _ => 0
  | .traceCompletion _ => 0
  | .rastCompletion _ => 0
  | .collInstanceStart _ _ _ _ => 0
  | .collCompletion _ _ => 0
  | .collWithdrawal _ _ _ => 0
  | .collRouteLost _ _ => 0
  | .launchDoorbell _ _ _ _ => 0
  | .launchRecordAcceptance _ _ => 0
  | .launchCompletion _ => 0
  | .preemptionRequest _ _ => 0
  | .preemptionResume _ _ => 0
  | .discardGroupJudgement _ _ => 0
  | .preemptionCompletion _ _ => 0
  | .conflictWindowEnd _ _ => 0
  | .remapGo _ _ => 0
  | .remapStart _ => 0
  | .rowSetMove _ => 0
  | .gatherPacket _ _ _ => 0
  | .homeAtomicOperation _ => 0
  | .eccCounterClear _ => 0
  | .eccAddressValidClear _ => 0
  | .scrubRead _ => 0
  | .scrubDeadlineMissed _ => 0
  | .accessCountNotification _ _ => 0
  | .accessCounterClear _ => 0
  | .pageWalk _ _ _ _ => 0
  | .atsTranslationCompletion _ _ _ _ _ => 0
  | .pageRequestResponse _ _ _ => 0
  | .invalidationRequest _ _ _ _ => 0
  | .faultHoldWrite _ _ => 0
  | .fltRespReplay _ _ => 0
  | .fltRespRequeue _ _ => 0
  | .fltRespAbort _ _ => 0
  | .unfortFaultHandling _ => 0
  | .shootdown _ _ => 0
  | .shootdownCompletion _ => 0
  | .squallAssertion _ => 0
  | .unitStop _ _ _ _ _ => 0
  | .teardown _ => 0
  | .squallRelease _ => 0
  | .kill _ _ => 0
  | .torn _ => 0
  | .peerRequest _ => 0
  | .peerRefusal _ _ => 0
  | .flitReception _ _ => 0
  | .flitReplay _ _ => 0
  | .portRetrain _ _ _ => 0
  | .portDown _ => 0
  | .rayDelegationRecord _ _ _ _ => 0
  | .rayAnswerRecord _ _ _ => 0
  | .rayCandidateRecord _ _ _ => 0
  | .candidateAnswerRecord _ _ => 0
  | .sceneInvalidation _ => 0
  | .sceneInvalidationAck _ _ => 0
  | .hostBar2Read _ _ _ => 0
  | .hostBar2Write _ _ _ => 0
  | .atomicopRequest _ _ => 0
  | .fundamentalReset => 0
  | .functionLevelReset _ => 0
  | .prepmap _ => 0
  | .unmap _ => 0
  | .attest _ => 0
  | .cert _ => 0
  | .recover _ _ => 0
  | .partcfg _ => 0
  | .partget _ => 0
  | .mailboxAck _ => 0
  | .healthSample _ => 0
  | .vmonFlagClear _ _ _ => 0
  | .clockThrottle _ => 0
  | .clockRestore => 0
  | .thermalTrip => 0
  | .registerWrite _ _ _ => 0
  | .illegalOp => 0
  | .resultLanding _ _ => 0
  | .peerAcknowledgement _ _ _ => 0
  | .flushingReadCompletion _ _ => 0
  | .bootPhaseCompletion _ _ => 0

/-- The group of an instruction that a word encodes; `none` for a hint and for a row that no word encodes. -/
def Instr.group : Instr → Option Grp
  | .sadd g _ => some g
  | .ssub g _ => some g
  | .smul g _ => some g
  | .smulhI g _ => some g
  | .smulhN g _ => some g
  | .sdivI g _ => some g
  | .sdivN g _ => some g
  | .sremI g _ => some g
  | .sremN g _ => some g
  | .sand g _ => some g
  | .sor g _ => some g
  | .sxor g _ => some g
  | .sandn g _ => some g
  | .sshl g _ => some g
  | .sshr g _ => some g
  | .ssar g _ => some g
  | .sminI g _ => some g
  | .sminN g _ => some g
  | .smaxI g _ => some g
  | .smaxN g _ => some g
  | .scmpEq g _ => some g
  | .scmpNe g _ => some g
  | .scmpLtI g _ => some g
  | .scmpLtN g _ => some g
  | .scmpLeI g _ => some g
  | .scmpLeN g _ => some g
  | .ssel g _ => some g
  | .smov g _ => some g
  | .sclz g _ => some g
  | .sctz g _ => some g
  | .spopc g _ => some g
  | .sbrev g _ => some g
  | .sbfeI g _ => some g
  | .sbfeN g _ => some g
  | .sbfi g _ => some g
  | .sadr1 g _ => some g
  | .sadr2 g _ => some g
  | .sadr3 g _ => some g
  | .sxtI8 g _ => some g
  | .sxtI16 g _ => some g
  | .sxtI32 g _ => some g
  | .sxtN8 g _ => some g
  | .sxtN16 g _ => some g
  | .sxtN32 g _ => some g
  | .sli g _ => some g
  | .slui g _ => some g
  | .saddi g _ => some g
  | .sandi g _ => some g
  | .sld8 g _ => some g
  | .sld16 g _ => some g
  | .sld32 g _ => some g
  | .sld64 g _ => some g
  | .sst8 g _ => some g
  | .sst16 g _ => some g
  | .sst32 g _ => some g
  | .sst64 g _ => some g
  | .samoAdd g _ => some g
  | .samoMinI g _ => some g
  | .samoMaxI g _ => some g
  | .samoMinN g _ => some g
  | .samoMaxN g _ => some g
  | .samoAnd g _ => some g
  | .samoOr g _ => some g
  | .samoXor g _ => some g
  | .samoXchg g _ => some g
  | .samoCas g _ => some g
  | .samoIncw g _ => some g
  | .samoFaddb g _ => some g
  | .srwlRacq g _ => some g
  | .srwlRrel g _ => some g
  | .srwlWacq g _ => some g
  | .srwlWrel g _ => some g
  | .sredAdd g _ => some g
  | .sredAddF32 g _ => some g
  | .br g _ => some g
  | .call g _ => some g
  | .brz g _ => some g
  | .brnz g _ => some g
  | .brn g _ => some g
  | .brnn g _ => some g
  | .ret g _ => some g
  | .opEnd g => some g
  | .step g _ => some g
  | .bar g _ => some g
  | .trap g _ => some g
  | .spawn g _ => some g
  | .launch g _ => some g
  | .srd g _ => some g
  | .swr g _ => some g
  | .opIf g _ => some g
  | .opElse g _ => some g
  | .endif g => some g
  | .loop g _ => some g
  | .brk g _ => some g
  | .nxt g _ => some g
  | .endl g _ => some g
  | .vadd g _ => some g
  | .vsub g _ => some g
  | .vmul g _ => some g
  | .vmulh g _ => some g
  | .vmad g _ => some g
  | .vmin g _ => some g
  | .vmax g _ => some g
  | .vabs g _ => some g
  | .vand g _ => some g
  | .vor g _ => some g
  | .vxor g _ => some g
  | .vandn g _ => some g
  | .vshl g _ => some g
  | .vshr g _ => some g
  | .vsar g _ => some g
  | .vsel g _ => some g
  | .vclz g _ => some g
  | .vctz g _ => some g
  | .vffs g _ => some g
  | .vpopc g _ => some g
  | .vbrev g _ => some g
  | .vbfe g _ => some g
  | .vbfi g _ => some g
  | .vdp4 g _ => some g
  | .vcmpEq g _ => some g
  | .vcmpNe g _ => some g
  | .vcmpLt g _ => some g
  | .vcmpLe g _ => some g
  | .vcmpGt g _ => some g
  | .vcmpGe g _ => some g
  | .vdp2 g _ => some g
  | .vmov g _ => some g
  | .vfadd g _ => some g
  | .vfsub g _ => some g
  | .vfmul g _ => some g
  | .vfma g _ => some g
  | .vfnma g _ => some g
  | .vfmin g _ => some g
  | .vfmax g _ => some g
  | .vfabs g _ => some g
  | .vfcmpEq g _ => some g
  | .vfcmpLt g _ => some g
  | .vfcmpLe g _ => some g
  | .vfcmpUn g _ => some g
  | .vfclass g _ => some g
  | .vfrnd g _ => some g
  | .vfneg g _ => some g
  | .vfcpsgn g _ => some g
  | .vfminNan g _ => some g
  | .vfmaxNan g _ => some g
  | .vfdot2 g _ => some g
  | .vfscl g _ => some g
  | .vfexp g _ => some g
  | .vfmant g _ => some g
  | .vflerp g _ => some g
  | .vcvtF g _ => some g
  | .vcvtI g _ => some g
  | .vcvtN g _ => some g
  | .vcvtPk16 g _ => some g
  | .vcvtPk8 g _ => some g
  | .vcvtUnpk g _ => some g
  | .vcvtBs g _ => some g
  | .vrcp g _ => some g
  | .vrsq g _ => some g
  | .vsqrt g _ => some g
  | .vexp2 g _ => some g
  | .vlog2 g _ => some g
  | .vsinp g _ => some g
  | .vcosp g _ => some g
  | .vtanh g _ => some g
  | .vcmul g _ => some g
  | .vcfma g _ => some g
  | .vcconj g _ => some g
  | .vcabs2 g _ => some g
  | .vwelf g _ => some g
  | .vwmrg g _ => some g
  | .vwfin g _ => some g
  | .vli g _ => some g
  | .vaddi g _ => some g
  | .vandi g _ => some g
  | .vori g _ => some g
  | .vxori g _ => some g
  | .vshli g _ => some g
  | .vshri g _ => some g
  | .vsari g _ => some g
  | .vshflIdx g _ => some g
  | .vshflUp g _ => some g
  | .vshflDn g _ => some g
  | .vshflXor g _ => some g
  | .vxsel g _ => some g
  | .vbcast g _ => some g
  | .vlane g _ => some g
  | .vext g _ => some g
  | .vvoteAny g _ => some g
  | .vvoteAll g _ => some g
  | .vvoteUni g _ => some g
  | .vballot g _ => some g
  | .vballotMask g _ => some g
  | .vredux g _ => some g
  | .vscanIn g _ => some g
  | .vscanEx g _ => some g
  | .vmatch g _ => some g
  | .vld8 g _ => some g
  | .vld8s g _ => some g
  | .vld16 g _ => some g
  | .vld16s g _ => some g
  | .vld32 g _ => some g
  | .vld64 g _ => some g
  | .vld128 g _ => some g
  | .vst8 g _ => some g
  | .vst16 g _ => some g
  | .vst32 g _ => some g
  | .vst64 g _ => some g
  | .vst128 g _ => some g
  | .vldl g _ => some g
  | .vldg g _ => some g
  | .prefL1 g _ => some g
  | .prefL2 g _ => some g
  | .vlsp8 g _ => some g
  | .vlsp32 g _ => some g
  | .vlsp64 g _ => some g
  | .vlsp128 g _ => some g
  | .vssp8 g _ => some g
  | .vssp32 g _ => some g
  | .vssp64 g _ => some g
  | .vssp128 g _ => some g
  | .vamoAdd g _ => some g
  | .vamoMin g _ => some g
  | .vamoMax g _ => some g
  | .vamoAnd g _ => some g
  | .vamoOr g _ => some g
  | .vamoXor g _ => some g
  | .vamoXchg g _ => some g
  | .vamoCas g _ => some g
  | .vamoIncw g _ => some g
  | .vamoFaddb g _ => some g
  | .vamoFaddF32 g _ => some g
  | .vredAdd g _ => some g
  | .vredAddF32 g _ => some g
  | .vredAddBf16x2 g _ => some g
  | .vredMin g _ => some g
  | .vredMax g _ => some g
  | .vredAnd g _ => some g
  | .vredOr g _ => some g
  | .vredXor g _ => some g
  | .fence g _ => some g
  | .trel g _ => some g
  | .tfeSet g _ => some g
  | .tfeClr g _ => some g
  | .tstat g _ => some g
  | .cbdef g _ => some g
  | .cbrel g _ => some g
  | .mbat g _ => some g
  | .mmaF16 g _ => some g
  | .mmaBf16 g _ => some g
  | .mmaE4m3 g _ => some g
  | .mmaE5m2 g _ => some g
  | .mmaE2m1 g _ => some g
  | .mmaI8 g _ => some g
  | .mmaF32 g _ => some g
  | .smmaF16 g _ => some g
  | .smmaBf16 g _ => some g
  | .smmaE4m3 g _ => some g
  | .smmaI8 g _ => some g
  | .mld g _ => some g
  | .mldt g _ => some g
  | .mrd g _ => some g
  | .mwr g _ => some g
  | .mzero g _ => some g
  | .cpy g _ => some g
  | .cpyg g _ => some g
  | .cpyst g _ => some g
  | .sort g _ => some g
  | .sortr g _ => some g
  | .trace g _ => some g
  | .rast g _ => some g
  | .callx g _ => some g
  | .retx g _ => some g
  | .hitret g _ => some g
  | .hgrid g _ => some g
  | .hgrad g _ => some g
  | .cmps g _ => some g
  | .cmpsb g _ => some g
  | .coll g _ => some g
  | .hintNop => none
  | .hintYield _ => none
  | .hintBoost _ => none
  | .hintSlot _ => none
  | .yieldExpiry _ _ => none
  | .boostExpiry _ _ => none
  | .loadResponse _ _ _ => none
  | .stepDispatch _ => none
  | .watchPeriodicTest _ => none
  | .quantumCommit _ _ => none
  | .crewPlacement _ _ => none
  | .crewRelease _ _ => none
  | .spawnItemPlacement _ _ _ => none
  | .regroupedGangIssue _ _ _ _ => none
  | .regroupTimeout _ _ _ _ => none
  | .slotAged _ _ => none
  | .matrixOperationStart _ => none
  | .matrixOperationCompletion _ _ => none
  | .preemptionPoint _ _ => none
  | .copyCommandStart _ _ => none
  | .stashOccupancyRetry _ _ => none
  | .copyCompletion _ _ => none
  | .cpystCompletion _ _ => none
  | .sortCommandStart _ => none
  | .sortCommandCompletion _ => none
  | .traceCompletion _ => none
  | .rastCompletion _ => none
  | .collInstanceStart _ _ _ _ => none
  | .collCompletion _ _ => none
  | .collWithdrawal _ _ _ => none
  | .collRouteLost _ _ => none
  | .launchDoorbell _ _ _ _ => none
  | .launchRecordAcceptance _ _ => none
  | .launchCompletion _ => none
  | .preemptionRequest _ _ => none
  | .preemptionResume _ _ => none
  | .discardGroupJudgement _ _ => none
  | .preemptionCompletion _ _ => none
  | .conflictWindowEnd _ _ => none
  | .remapGo _ _ => none
  | .remapStart _ => none
  | .rowSetMove _ => none
  | .gatherPacket _ _ _ => none
  | .homeAtomicOperation _ => none
  | .eccCounterClear _ => none
  | .eccAddressValidClear _ => none
  | .scrubRead _ => none
  | .scrubDeadlineMissed _ => none
  | .accessCountNotification _ _ => none
  | .accessCounterClear _ => none
  | .pageWalk _ _ _ _ => none
  | .atsTranslationCompletion _ _ _ _ _ => none
  | .pageRequestResponse _ _ _ => none
  | .invalidationRequest _ _ _ _ => none
  | .faultHoldWrite _ _ => none
  | .fltRespReplay _ _ => none
  | .fltRespRequeue _ _ => none
  | .fltRespAbort _ _ => none
  | .unfortFaultHandling _ => none
  | .shootdown _ _ => none
  | .shootdownCompletion _ => none
  | .squallAssertion _ => none
  | .unitStop _ _ _ _ _ => none
  | .teardown _ => none
  | .squallRelease _ => none
  | .kill _ _ => none
  | .torn _ => none
  | .peerRequest _ => none
  | .peerRefusal _ _ => none
  | .flitReception _ _ => none
  | .flitReplay _ _ => none
  | .portRetrain _ _ _ => none
  | .portDown _ => none
  | .rayDelegationRecord _ _ _ _ => none
  | .rayAnswerRecord _ _ _ => none
  | .rayCandidateRecord _ _ _ => none
  | .candidateAnswerRecord _ _ => none
  | .sceneInvalidation _ => none
  | .sceneInvalidationAck _ _ => none
  | .hostBar2Read _ _ _ => none
  | .hostBar2Write _ _ _ => none
  | .atomicopRequest _ _ => none
  | .fundamentalReset => none
  | .functionLevelReset _ => none
  | .prepmap _ => none
  | .unmap _ => none
  | .attest _ => none
  | .cert _ => none
  | .recover _ _ => none
  | .partcfg _ => none
  | .partget _ => none
  | .mailboxAck _ => none
  | .healthSample _ => none
  | .vmonFlagClear _ _ _ => none
  | .clockThrottle _ => none
  | .clockRestore => none
  | .thermalTrip => none
  | .registerWrite _ _ _ => none
  | .illegalOp => none
  | .resultLanding _ _ => none
  | .peerAcknowledgement _ _ _ => none
  | .flushingReadCompletion _ _ => none
  | .bootPhaseCompletion _ _ => none

/-- Some word encodes the instruction: it is no step of the part (95_what_each_step_holds.md). -/
def Instr.encoded (i : Instr) : Bool :=
  i.group.isSome ||
    (match i with | .hintNop => true | .hintYield _ => true | .hintBoost _ => true | .hintSlot _ => true | _ => false)

/-- The prefix word (R53). -/
def encodePfx (p : Pfx) : W32 :=
  (0x3E#6 ++ p.mask ++ p.rnd ++ p.op4 ++ BitVec.ofBool p.zero ++ BitVec.ofBool p.sat ++ p.typ ++ BitVec.ofBool p.nega
    ++ BitVec.ofBool p.negb ++ BitVec.ofBool p.abs ++ 0#4 : BitVec 32)

/-- The modifier hint word (R60). -/
def encodeModifier (m : Modifier) : W32 :=
  (0x3F#6 ++ 2#2 ++ 0#19 ++ m.line ++ BitVec.ofBool m.nt ++ m.policy : BitVec 32)

/-- The words before the instruction word (R50). -/
def Grp.words (g : Grp) : List W32 :=
  g.modifier.toList.map encodeModifier
    ++ g.ext.toList.map (fun e => (0x3F#6 ++ 3#2 ++ 0#16 ++ e : BitVec 32))
    ++ g.limms.map (fun l => (0x3F#6 ++ 1#2 ++ l : BitVec 32))
    ++ g.pfx.toList.map encodePfx

/-- The encoder: the words of an instruction's group. -/
def encode (i : Instr) : List W32 :=
  (match i.group with | some g => g.words | none => []) ++ [encodeWord i]

end Sys2Proof
end

