-- ==== Sys2Proof/Machine/State.lean ====
section
/-! DEFINITION. The state of the ZNP-7140 as plain data, the reasons a step can stop, and the machine right after
reset (R17 to R44, R410, and the rules each field names). Register files and tables are lists with a default: an
entry the list does not hold has the default value. -/

namespace Sys2Proof.Machine

/-- The reasons the machine stops. Every fault the spec describes is a NEXT state (R345 to R349); this one is the
model's own. -/
inductive Fault where
  /-- An encoded instruction was executed while no gang issues (raised by every meaning of an encoded instruction).
  Safe: the machine never executes an instruction that no gang issues. -/
  | noIssuer
  deriving DecidableEq, Repr

/-- The refusals. -/
inductive Refusal where
  /-- The instruction has no meaning in the model. Raised by the dispatch alone. Safe: nothing is claimed of it. -/
  | notModelled (mnemonic : String)
  deriving DecidableEq, Repr

/-- Memory as (address, byte) pairs in canonical form: addresses strictly rising, no byte 0 listed (R11, R411). -/
abbrev Memory := List Host.Cell

/-- The class of a fault (R345). -/
inductive FaultClass where
  | xlatMiss | xlatPerm | torn | illegalOp | illegalUnit | tileOwned | barrierMismatch | pendingRead | stallShort
  | spillExhausted | stackOverflow | align | eccUncorr | depInvalid | trap | kill
  deriving DecidableEq, Repr

/-- The access kinds of a fault record (R346). -/
inductive AccessKind where
  | fetch | vload | vgather | vstore | vatomic | scratch | sload | sstore | watch | hash | engRead | engWrite | commit
  | walk | none
  deriving DecidableEq, Repr

/-- The state of an `IF` entry of a mask stack (R108). -/
inductive SideState where
  | thenSide | elseSide | split
  deriving DecidableEq, Repr

/-- An entry of a mask stack (R108). -/
inductive StackEntry where
  | ifE (sv el cur : W32) (st : SideState)
  | loopE (sv cur ct : W32)
  deriving DecidableEq, Repr

/-- A position in a gang's program order (R112), compared lexicographically: the number of a group, and inside a
divergence the number of its `if`, 0 for slot A's side or 1 for slot B's, and so on inward. -/
abbrev Pos := List Nat

/-- A parked group of a slot (R158, R334, R349). -/
structure Park where
  /-- The fault record's name (R346), or `none` while it waits for a translation (R344) or for room in the hold (R348). -/
  record : Option Nat
  /-- The response has been received, and the group may issue again. -/
  released : Bool
  /-- The lanes that the replay re-issues. -/
  faulted : W32
  /-- The group is a replay of lanes (`REPLAY` becomes `faulted` at the re-issue). -/
  byLane : Bool
  /-- The group waits for a host translation, with no record (R344). -/
  hostWait : Bool
  /-- The position of the group's first issue. -/
  pos : Pos
  deriving DecidableEq, Repr

/-- A PC slot (R24). -/
@[ext]
structure Slot where
  live : Bool
  pc : W64
  mask : W32
  stack : List StackEntry
  /-- The divergences the slot is inside, as positions begin (R112). -/
  path : List Nat
  icnt : BitVec 48
  /-- Issue distance along the slot's path (the D of R62 from the task entry). -/
  dist : Nat
  /-- Registers written by fixed-latency instructions, with the distance at which each result is due (R63). -/
  haz : List (Nat × Nat)
  parked : Option Park
  /-- Slot A waits at its `endif` until slot B has retired (R109). -/
  waits : Bool
  /-- The cycle of its core at which the slot's yield hint has run out; 0 with none (R58). -/
  yieldTo : Nat
  /-- One more than the instructions left under a boost hint, until it expires (R58). -/
  boost : Nat
  /-- The slot is aged (R271). -/
  aged : Bool
  /-- The cycle of its core from which the slot's next unit may issue (R62). -/
  ready : Nat
  /-- Since then a slot of its class that ranks lower has issued (R271). -/
  passed : Bool
  /-- The cycle of its core at which the slot's step was dispatched, or slot B started (R271). -/
  since : Nat
  /-- An earlier issue of the group that the slot is parked at set its destinations pending (R22). -/
  pended : Bool
  deriving DecidableEq, Repr

/-- A value on its way to a register. -/
inductive RegWrite where
  /-- Scalar register `n`, `s62` among them. -/
  | scalar (n : Nat) (value : W64)
  /-- Mask register `n`. -/
  | mask (n : Nat) (value : W32)
  /-- The lanes `lanes` of vector register `n`. -/
  | vector (n : Nat) (lanes : W32) (values : List W32)
  deriving DecidableEq, Repr

/-- A fixed-latency result in flight (R62 to R64). -/
structure Flight where
  slotB : Bool
  /-- In flight when slot B started: the path into slot B runs through the `if` (R62). -/
  shared : Bool
  due : Nat
  /-- The cycle of its core at which the result lands (R63, R64). -/
  lands : Nat
  write : RegWrite
  deriving DecidableEq, Repr

/-- One lane of a memory access with its translation (R156, R310). -/
structure Access where
  lane : Nat
  va : Nat
  pa : Nat
  /-- The page is MS or NC, whose accesses are counted (R159, R332). -/
  ms : Bool
  /-- No L1 holds the page: it is MS, NC, SCENE, or of peer or host memory (R159, R376, R379, R389). -/
  uncached : Bool
  deriving DecidableEq, Repr

/-- Where a load's value goes. -/
inductive LoadDest where
  /-- A scalar register, zero-extended (R123). -/
  | scalar (d : Nat)
  /-- `count` vector registers from `d`; a narrow value is sign-extended where `signed` (R160). -/
  | vector (d count : Nat) (signed : Bool)
  /-- A scratchpad store that has not been performed: the bytes of each of its accesses (R169). -/
  | store (bytes : List (List Byte))
  deriving DecidableEq, Repr

/-- An unbuffered access that has issued and not been performed: a load (R161, R164), or a scratchpad access (R168, R299). -/
structure Load where
  pos : Pos
  slotB : Bool
  pc : W64
  kind : AccessKind
  size : Nat
  /-- The load reads at the home: `.by`, scalar or gather (R161). -/
  atHome : Bool
  /-- The access is to the core's scratchpad; its addresses are byte offsets there. -/
  onChip : Bool
  /-- An access that a fence orders after this one has been performed before it, where no party within the fence's scope could
  tell: the widest such scope (R174, R314). -/
  passed : Option Nat
  accesses : List Access
  dest : LoadDest
  deriving DecidableEq, Repr

/-- What becomes of the old value of a returning operation (R171, R125). -/
inductive Ret where
  | none
  /-- A scalar atomic: `sd` receives old. -/
  | scalar (d : Nat)
  /-- A lock operation: `sd` receives (ok << 32) | old. -/
  | lock (d : Nat)
  /-- Lane `l` of a vector atomic over one or two registers from `d`. -/
  | lane (d l : Nat)
  deriving DecidableEq, Repr

/-- The kind of a task (R266). -/
inductive TaskKind where
  | launched | spawned | callee | continuation | anyHit
  deriving DecidableEq, Repr

/-- One lane's return record on a return chain (R243). -/
structure ReturnRecord where
  entry : W64
  role : Nat
  deriving DecidableEq, Repr

/-- The origin of one lane of a regrouped gang (R243, R244, R267): its task key, origin lane, coherence key and return
chain. -/
structure Origin where
  key : List Nat
  lane : Nat
  coherence : Nat
  chain : List ReturnRecord
  deriving DecidableEq, Repr

/-- The form of a matrix operation: dense or sparse with its func (R189, R196), or `mzero` (R207). -/
inductive MatForm where
  | dense (func : Nat) | sparse (func : Nat) | zero
  deriving DecidableEq, Repr

/-- A matrix operation that has issued and not completed (R198 to R202). -/
structure MatOp where
  /-- Numbers the operations of the package. -/
  num : Nat
  /-- The issuing gang and its batch; none once its task has been discarded. -/
  gang : Option Nat
  batch : W32
  /-- The address of its group's first word, and the issuing gang's slot number (R346). -/
  pc : W64
  slotNo : Nat
  /-- The crew whose tiles it uses. -/
  crewKey : Nat
  word : MatForm
  /-- Physical accumulator tile. -/
  c : Nat
  (na nb zc becalm : Bool)
  (em en ek : Nat)
  sat : Bool
  /-- Fragments and scale registers as read at issue, lane lists by register (R199). -/
  (a b : List (List W32))
  (sa sb : List W32)
  /-- Of `smma`: the tiles' byte keys in the core's scratchpad and their bitmaps as read at issue. -/
  (ta tb : Nat)
  (ma mb : List Byte)
  /-- Physical scratchpad tiles that it reads, held until it completes (R200). -/
  tiles : List Nat
  started : Bool
  /-- A pre-emption stops it at a pre-emption point (R202). -/
  stopping : Bool
  issued : Nat
  total : Nat
  deriving DecidableEq, Repr

/-- The identity a detached task reads, which is its launched ancestor's (R267). -/
structure Identity where
  crew : Nat
  idCore : Nat
  gangIndex : Nat
  idSlot : Nat
  deriving DecidableEq, Repr

/-- A spawned work item (R118, R267, R268). -/
structure SpawnItem where
  launch : Nat
  part : Nat
  aspace : Nat
  entry : W64
  role : Nat
  payload : List W64
  key : List Nat
  generation : Nat
  ident : Identity
  deriving DecidableEq, Repr

/-- A launch record that a gang submitted (R119, R255). -/
structure DeviceLaunch where
  part : Nat
  aspace : Nat
  words : List W64
  deriving DecidableEq, Repr

/-- A lane item of the regrouping unit (R240, R243, R244, R269). -/
structure Item where
  launch : Nat
  part : Nat
  aspace : Nat
  kind : TaskKind
  entry : W64
  role : Nat
  generation : Nat
  origin : Origin
  ident : Identity
  regs : List W32
  /-- The ray that an any-hit lane answers for: its command and lane. -/
  ray : Option (Nat × Nat)
  deriving DecidableEq, Repr

/-- A hit: the fields of a hit record that a candidate or the closest hit holds (R236). -/
structure Hit where
  (t prim inst u v w0 w1 : W32)
  deriving DecidableEq, Repr

/-- A scene descriptor (R237). -/
structure Scene where
  (nodes ncount root tris tcount insts icount ahit : Nat)
  first : Bool
  deriving DecidableEq, Repr

/-- Pending work of a ray's traversal (R239): the root of a scene, of an instance or of a delegated subtree, a child word with
the box to be tested again when it is reached, or the rest of a leaf's triangles; `inside` an instance. -/
inductive RayWork where
  | root (node : Nat) (inside : Bool)
  | child (word : W32) (box : List W32) (inside : Bool)
  | tris (next last : Nat) (inside : Bool)
  deriving DecidableEq, Repr

/-- What a ray's traversal waits for (R240, R366, R386). Units are numbered package × 4 + die. -/
inductive RayWait where
  /-- Nothing: the unit may go on. -/
  | run
  /-- The response to a fault record. -/
  | park
  /-- The answer to its own candidate. -/
  | hit (h : Hit)
  /-- The answer of the unit it delegated a node to. -/
  | away (unit : Nat)
  /-- At the home: the answer to a candidate that `unit`, working for the ray, has sent with its closest T; `queued` once its
  any-hit item is. Afterwards the ray waits again for the unit that the home delegated to. -/
  | remote (h : Hit) (limit : W32) (unit delegate : Nat) (queued : Bool)
  /-- A fatal fault of the context. -/
  | lost
  | ended
  deriving DecidableEq, Repr

/-- A ray as one unit traverses it (R236 to R242, R386). -/
structure Ray where
  lane : Nat
  /-- The ray group's eight words, in world space. -/
  world : List W32
  /-- Inside an instance: the eight words in its space, the instance's id and its index. -/
  inner : Option (List W32 × W32 × Nat)
  /-- The scene descriptor, once the unit has read it and begun the ray. -/
  scene : Option Scene
  work : List RayWork
  best : Option Hit
  visits : Nat
  drop : Nat
  code : Nat
  term : Bool
  wait : RayWait
  generation : Nat
  /-- Whom its any-hit tasks continue (R87, R267). -/
  origin : Origin
  ident : Identity
  deriving DecidableEq, Repr

/-- A ray that another unit has delegated to this one (R386 to R388). -/
structure RayGuest where
  part : Nat
  die : Nat
  /-- The unit that delegated the ray, and the RETURN of its record. -/
  source : Nat
  ret : W32
  scene : Nat
  budget : Nat
  /-- The closest key the record carried; its hit data stay where the ray came from. -/
  given : Option Hit
  ray : Ray
  /-- The guest's number. -/
  num : Nat := 0
  deriving DecidableEq, Repr

/-- A ray record on its way from one unit to another (R387). -/
structure RayRecord where
  /-- 0 delegation, 1 answer, 2 candidate, 3 answer to a candidate. -/
  kind : Nat
  source : Nat
  dest : Nat
  words : List W64
  deriving DecidableEq, Repr

/-- The engine commands of majors `0x24` to `0x26` and `0x29`. -/
inductive CmdKind where
  | cpy | cpyg | cpyst | sort | sortr | coll | trace | rast
  deriving DecidableEq, Repr

/-- Where a stash copy stands (R403). -/
inductive StashState where
  | none | waiting | primary | second
  deriving DecidableEq, Repr

/-- A command sent to an engine and not completed (R210 to R225, R235, R246). -/
structure Command where
  kind : CmdKind
  /-- The issuing gang; none once its task has been discarded. -/
  gang : Option Nat
  launch : Nat
  crewKey : Option Nat
  /-- The issuing task is sealed, and was declared not idempotent (R346). -/
  (sealed ni : Bool)
  part : Nat
  aspace : Nat
  core : Nat
  slotNo : Nat
  /-- The crew's first scratchpad tile. -/
  tfirst : Nat
  words : List W64
  /-- `ICNT` at the command, and the launch's seed (R87). -/
  icnt : W64
  seed : W64
  /-- The batch that a follow-on operation counts in (R208). -/
  batch : W32
  started : Bool
  /-- It waits for the response to a fault record, or for a host translation. -/
  parked : Bool
  /-- Its discard group has been discarded (R283). -/
  discarded : Bool
  /-- The elements have landed, and the completion actions remain (R214, R215). -/
  landed : Bool
  /-- The slot of the circular buffer that it fills (R179, R220), or the register tile of `trace` and `rast` (R238). -/
  slot : Option Nat
  /-- The rays of a `trace` (R238). -/
  rays : List Ray
  /-- Where a stash copy stands (R403): not yet started, waiting, writing the primary slot, or the second level. -/
  stash : StashState
  /-- Elements, rows or passes finished. -/
  progress : Nat
  code : Nat
  /-- What a `coll` is to write to DST (R247). -/
  data : List Byte
  /-- The group entry that a `coll` has read (R391). -/
  entry : List Byte
  /-- The index list of `cpyg`, when it was read as a whole at the start (R222). -/
  index : List W32
  /-- Of a marker: the commands it covers and the marker before it (R223). -/
  covered : List Nat
  /-- The command's number. -/
  num : Nat := 0
  deriving DecidableEq, Repr

/-- What a store-buffer entry does when it commits (R167, R211). -/
inductive EntryKind where
  | store (data : List Byte)
  | amo (op : AmoOp) (size : Nat) (value compare : W64) (ret : Ret)
  /-- A reduction, held back until the task's `end` (R126, R172). -/
  | red (op : AmoOp) (size : Nat) (value : W64)
  | fence (kind : BitVec 2) (scope : BitVec 3)
  /-- A child item, whose key is completed at the commit (R118, R267). -/
  | spawn (item : SpawnItem)
  | launch (words : List W64)
  /-- An engine command held until the commit (R211), with its number. -/
  | command (n : Nat) (c : Command)
  /-- The unit of an `hgrad`: f32 contributions as place in the order of R231, virtual and physical address, and value. -/
  | hgrad (adds : List (Nat × Nat × Nat × W32))
  /-- The answers of an any-hit task (R241): the ray of each lane, its answer and the two words. -/
  | answers (list : List ((Nat × Nat) × Nat × W32 × W32))
  /-- Lanes queued by `callx` or `retx` (R243, R244). -/
  | items (list : List Item)
  deriving DecidableEq, Repr

/-- An entry of a gang's store buffer (R167, R303). -/
structure Entry where
  pos : Pos
  lane : Nat
  /-- The task key under which the entry commits (R267). -/
  key : List Nat
  va : Nat
  pa : Nat
  /-- The page is MS or NC: no cache holds its lines (R159). -/
  ms : Bool
  /-- The page has SCENE (R389). -/
  scene : Bool
  /-- The group's first word and slot, for a fault of the commit (R346). -/
  pc : W64
  slotB : Bool
  /-- Bytes the entry takes in the store buffer (R167). -/
  space : Nat
  kind : EntryKind
  deriving DecidableEq, Repr

/-- A waiting successor (R114): its entry, its dependence descriptors, and the barrier a `bar` arrived at with the
generation it arrived in (R115). -/
structure Waiting where
  entry : W64
  /-- The address of the first word of the step-ending group (R346). -/
  pc : W64
  descriptors : List W64
  barrier : Option (List Nat × W32)
  /-- The words in host memory that the descriptors watch, as last read (R182). -/
  host : List (Nat × W64)
  /-- Some test has found that every descriptor holds (R182). -/
  held : Bool
  deriving DecidableEq, Repr

/-- Where a gang stands between its placement and its end (R265). -/
inductive Phase where
  /-- The gang's step is running. -/
  | running
  /-- The step has ended; the successor waits for its dependences and the commit (R114). -/
  | waiting (w : Waiting)
  /-- The task has ended (R116). -/
  | ended
  deriving DecidableEq, Repr

/-- A gang and its task (R17, R21, R24, R28). -/
@[ext]
structure Gang where
  /-- Core within the package, 0 to 159, and gang slot within the core. -/
  core : Nat
  slotNo : Nat
  part : Nat
  aspace : Nat
  launch : Nat
  /-- The crew the gang belongs to; none for a spawned, regrouped or any-hit task (R268). -/
  crewKey : Option Nat
  kind : TaskKind
  entry : W64
  role : Nat
  /-- What `CREW`, `CORE`, `QUAD`, `DIE` and `GANG` read (R28, R267). -/
  crew : Nat
  idCore : Nat
  gangIndex : Nat
  idSlot : Nat
  lane : W32
  /-- The registers that its task's entry filled, for a re-run (R21, R351). -/
  entryS : List W64
  entryV : List (List W32)
  vcount : Nat
  generation : Nat
  key : List Nat
  origins : List Origin
  /-- `spawn` items committed by the task (R267). -/
  spawned : Nat
  v : List (List W32)
  s : List W64
  m : List W32
  pendV : BitVec 128
  pendS : BitVec 64
  vtOwner : BitVec 16
  a : Slot
  b : Slot
  /-- The mask and the instruction count slot B started with, and its carry masks (R25, R27, R108). -/
  bStart : W32
  bCount : BitVec 48
  cb : W32
  cn : W32
  /-- Of the divergences whose slot B has retired and whose `endif` slot A has not reached, innermost first: slot B's
  carry masks and the instructions it issued (R27, R109). -/
  joining : List (W32 × W32 × BitVec 48)
  /-- Numbers the groups the gang has issued. -/
  seq : Nat
  phase : Phase
  detstep : W32
  replay : W32
  traparg : W64
  prefersB : Option Bool
  sealed : Bool
  /-- The task has executed an instruction that keeps it from being clean (R351). -/
  unclean : Bool
  /-- The task runs again alone (R306). -/
  rerun : Bool
  /-- The task runs again, and restarts once its commands have completed (R352). -/
  restarting : Bool
  flight : List Flight
  loads : List Load
  /-- The fences and reconvergence points of the step: position, kind and scope (R174, R300). -/
  order : List (Pos × Nat × Nat)
  entries : List Entry
  /-- Values returned by committed operations, which land before the successor's dispatch (R171). -/
  returns : List RegWrite
  /-- Of the ray that each lane of an any-hit task answers for: its command and lane (R240). -/
  rays : List (Nat × Nat)
  batch : W32
  /-- Copy commands issued since the last `cpyst` of the task, that marker among them (R223). -/
  covered : List Nat
  deriving DecidableEq, Repr

/-- A circular buffer (R34, R178). -/
structure CBuf where
  defined : Bool
  first : Nat
  slots : Nat
  span : Nat
  free : Nat
  filled : Nat
  widx : Nat
  ridx : Nat
  /-- Slots whose command has completed while an earlier slot is still being filled (R179). -/
  held : List Nat
  deriving DecidableEq, Repr

/-- A barrier (R35, R177). -/
structure Barrier where
  gen : W32
  latch : Nat
  arrived : Nat
  deriving DecidableEq, Repr

/-- A placed crew (R23, R262). -/
structure Crew where
  launch : Nat
  index : Nat
  core : Nat
  position : Nat
  tfirst : Nat
  tcount : Nat
  cfirst : Nat
  ccount : Nat
  bufs : List CBuf
  deriving DecidableEq, Repr

/-- An accepted launch (R256 to R260). -/
structure Launch where
  part : Nat
  aspace : Nat
  /-- The die that took the record (R255). -/
  die : Nat
  words : List W64
  consts : List W64
  /-- Crews per core, the K of R260. -/
  k : Nat
  /-- Crews placed and not released, and crews released. -/
  placed : List Nat
  released : List Nat
  /-- Crews to run again from their start, after a discard (R285). -/
  again : List Nat
  /-- START has held (R262). -/
  started : Bool
  /-- Of each domain instance (R301), by its number, the index of the oldest uncommitted quantum, when not 0. -/
  quanta : List (Nat × Nat)
  /-- Domain instances that have created a spawned, regrouped or any-hit task (R280). -/
  created : List Nat
  deriving DecidableEq, Repr

/-- A launch queue of one class of a context (R254, R418). -/
structure LaunchQueue where
  q : Nat
  base : Nat
  consAddr : Nat
  prod : W32
  cons : W32
  /-- The front end has met a miss at the queue and reads no more of it (R395). -/
  stopped : Bool
  /-- The consumer index has advanced, and its write waits (R254, R389). -/
  owed : Bool
  deriving DecidableEq, Repr

/-- A context (R418, R274, R281, R401). -/
structure Ctx where
  /-- The pre-emption register (R281). -/
  preBusy : Bool
  preOff : Bool
  preHeld : Nat
  preDisc : Nat
  /-- Discard groups of the request that have been judged held (R282), by launch and crew. -/
  heldGroups : List (Nat × Nat)
  /-- The stash registers (R401). -/
  stashBase : W64
  stashCfg : W64
  stashOcc : W64
  stashSpill : W64
  en : Bool
  becalm : Bool
  scheck : Bool
  root : Nat
  pasid : Nat
  pv : Bool
  privLog : Nat
  privBase : Nat
  torn : Bool
  queues : List LaunchQueue
  dispatched : BitVec 48
  deriving DecidableEq, Repr

/-- A cached translation (R342): the address space (R13: partition and ASPACE), the page's base and size, and the leaf. -/
structure TlbEntry where
  space : Nat
  base : Nat
  log : Nat
  leaf : W64
  deriving DecidableEq, Repr

/-- Who raised a fault record, and waits for its response (R346). -/
inductive FaultOwner where
  | gang (id : Nat) (slotB : Bool)
  | command (n : Nat)
  | ray (command lane : Nat)
  | guest (n : Nat)
  | none
  /-- The record is void: its task was discarded before the record was written (R349). -/
  | void
  deriving DecidableEq, Repr

/-- A fault record as its eight dwords without SEQ (R346), with who raised it. -/
structure FaultRecord where
  owner : FaultOwner
  aspace : Nat
  cls : FaultClass
  words : List W64
  /-- The task that CLEAN speaks of, while the record waits to be written. -/
  task : Option Nat := none
  deriving DecidableEq, Repr

/-- A fatal cause waiting to assert the squall line (R355, R357). -/
structure Cause where
  cls : FaultClass
  aspace : Nat
  /-- The cause's fault record (R363), if it wrote one. -/
  words : List W64
  /-- The gang and slot that raised it. -/
  gang : Option Nat
  deriving DecidableEq, Repr

/-- What the host port holds for a host page (R344): a translation with its permissions. -/
inductive HostPage where
  | page (host : Nat) (read write : Bool)
  deriving DecidableEq, Repr

/-- Who waits for a host translation (R344): a slot of a gang, a command, a delegated ray, or a front end. -/
inductive Waiter where
  | slot (gang : Nat) (slotB : Bool)
  | command (n : Nat)
  | guest (n : Nat)
  | front
  deriving DecidableEq, Repr

/-- Where the host port stands with a translation (R344): a Translation Request is out, a Page Request waits because 512 are out,
or a Page Request is out. -/
inductive AtsStage where
  | translation | held | page
  deriving DecidableEq, Repr

/-- A translation the host port has asked the host for (R344). -/
structure AtsRequest where
  space : Nat
  page : Nat
  write : Bool
  stage : AtsStage
  waiters : List Waiter := []
  deriving DecidableEq, Repr

/-- The translation-cache and shootdown state of a partition (R354). -/
structure Shootdown where
  va : Nat
  aspace : Nat
  log : Nat
  all : Bool
  deriving DecidableEq, Repr

/-- A shootdown in progress (R354): of a range of an address space, started by XLAT_INV, or of host pages, each with its
context, started by an Invalidation Request of the host (R344). -/
structure Invalidation where
  space : Nat
  base : Nat
  size : Nat
  /-- The host pages by context; for a shootdown of the host's alone. -/
  pages : List (Nat × Nat)
  /-- The request that is to be completed: PASID, address and size. -/
  request : Option (Nat × W64 × Nat)
  /-- Once the accesses into the range have been performed and the clean holders discarded: the tasks still waited for. -/
  holders : Option (List Nat)
  deriving DecidableEq, Repr

/-- An instance of a collective that has started here and is not complete on every member (R392): the members left, by package and
partition. -/
structure CollOpen where
  group : Nat
  seq : W32
  members : List (Nat × Nat)
  deriving DecidableEq, Repr

/-- A prepared mapping (R353, R414). -/
structure Prepared where
  aspace : Nat
  va : Nat
  leaf : W64
  level : Nat
  entries : Nat
  applied : Bool
  deriving DecidableEq, Repr

/-- A `coll` that has completed, kept until its launch completes for a re-send of it (R247). -/
structure CollRecord where
  aspace : Nat
  launch : Nat
  gang : Option Nat
  words : List W64
  /-- Its task has been discarded. -/
  discarded : Bool
  code : Nat
  data : List Byte
  deriving DecidableEq, Repr

/-- A partition: the registers of its BAR0 block (R347, R354, R359) and its fault state. -/
structure Part where
  /-- Dies of the partition; its index is its lowest die (R319, R374). -/
  dies : Nat
  lnkAccept : W64
  octCfg : W64
  /-- Host translations cached by the port: PASID space, untranslated page, host page, read and write permission (R344). -/
  atc : List ((Nat × Nat) × HostPage)
  /-- Host translations requested: context and untranslated page, whether a write waits, and whether a Page Request has
  been sent (R344). -/
  atsRequests : List AtsRequest
  /-- Accesses whose request failed, by space, host page and who waited: each is a miss with HOST = 1 when it is made again (R344). -/
  atsFailed : List (Nat × Nat × Waiter) := []
  /-- AtomicOp Requester Enable of the partition's function (R379). -/
  atomicOps : Bool
  fltLog : Nat
  fltBase : Nat
  fltProd : W32
  fltCons : W32
  hqLog : Nat
  hqBase : Nat
  hqProd : W32
  hqCons : W32
  badResp : Nat
  /-- Records written and not answered, by SEQ (R349). -/
  openRecords : List (Nat × FaultRecord)
  /-- Records written and not yet seen by Unfort (R353). -/
  unseen : List (Nat × FaultRecord)
  sd : Shootdown
  /-- Shootdowns in progress, in the order they started (R344, R354). -/
  shoots : List Invalidation
  asserted : Bool
  /-- The cycle counts of the cores when the line was asserted: what passes from then to the release counts toward no bound (R356). -/
  cycles : List (Nat × Nat)
  stopped : Bool
  tornDown : Bool
  cause : Nat
  causeAspace : Nat
  count : W32
  /-- The cause in force, and the causes held in order of detection (R357). -/
  current : Option Cause
  heldFaults : List Cause
  stopBase : Nat
  dumpBase : Nat
  dumpSize : Nat
  /-- Units that have not written their stop records (R355): die and slot of the stop area. -/
  unstopped : List (Nat × Nat)
  /-- The records of the cause's context that were open at the squall (R363). -/
  openThen : List (List W64)
  /-- MEM_ACNT and the notification queue (R332, R333). -/
  nthr : Nat
  ndrop : Nat
  nqLog : Nat
  nqBase : Nat
  nqProd : W32
  nqCons : W32
  /-- OCT_TOWN and COLL_GTBASE (R384). -/
  octTown : W64
  collGt : W64
  /-- Collectives that have completed (R247), and instances that have not completed on every member (R392). -/
  colls : List CollRecord
  collOpen : List CollOpen
  /-- Of each class, the ASPACE whose record the front end took last (R255). -/
  turns : List (Nat × Nat)
  /-- Mappings that the driver has posted and Unfort has not applied (R353, R414), and those applied. -/
  prepared : List Prepared
  deriving DecidableEq, Repr

/-- A write to another package that a commit has sent (R302, R375): whose entry it is, and the bytes it replaced. -/
structure PeerWrite where
  gang : Nat
  entry : Entry
  old : List Byte
  deriving DecidableEq, Repr

/-- A commit that has begun and is not complete (R302, R303, R312): of a domain instance by its number, or of one task. -/
structure Ack where
  launch : Nat
  inst : Nat
  gang : Option Nat
  /-- The entries not yet performed, each with its gang, in commit order (R303). -/
  pending : List (Nat × Entry)
  /-- The fences of the quantum: gang, position, kind and scope (R174). -/
  fences : List (Nat × Pos × Nat × Nat)
  /-- Entries that have been performed while one before them in commit order has not. -/
  early : List (Nat × Entry)
  /-- The answers of any-hit tasks, delivered when the commit is complete (R241). -/
  answers : List ((Nat × Nat) × Nat × W32 × W32)
  /-- Packages that have not acknowledged. -/
  packages : List Nat
  /-- The host port's flushing read has not completed. -/
  host : Bool
  /-- The gangs whose entries the commit performed. -/
  members : List Nat
  /-- The writes sent to other packages. -/
  writes : List PeerWrite
  /-- The SCENE lines that it writes, invalidated in the octet for it (R389). -/
  scene : List Nat := []
  deriving DecidableEq, Repr

/-- What an issue unit uses, by which it may conflict with another of its bench's cycle: its gang, its pipe (0 for a hint word), the banks of
its vector registers, and whether it names scalar registers (R272). -/
structure UnitUse where
  gang : Nat
  pipe : Nat
  banks : List Nat
  scalars : Bool
  deriving DecidableEq, Repr

/-- The cycle in which a bench last issued, and the units it issued then: at most two (R272). -/
structure BenchUse where
  cycle : Nat
  units : List UnitUse
  deriving DecidableEq, Repr

/-- A core (R31, R36, R161, R198, R224). -/
@[ext]
structure Core where
  scratch : Memory
  scratchOwn : BitVec 192
  scratchFull : BitVec 192
  acc : Memory
  accOwn : BitVec 256
  /-- Matrix operations in their order of issue (R198). -/
  ops : List MatOp
  /-- L1 lines: line address (physical, package-wide) and its 128 bytes. -/
  l1 : List (Nat × List Byte)
  /-- Instruction-cache words: address space, word address and word (R68). -/
  icache : List ((Nat × Nat) × W32)
  /-- ACLK cycles (R6), which `CYC` reads modulo 2^64. -/
  cyc : Nat
  /-- Of each bench that has issued, the cycle of its last unit and its units of that cycle (R272). -/
  benches : List (Nat × BenchUse)
  /-- The core's translation buffer: at most 256 entries, the most recent first (R342). -/
  tlb : List TlbEntry
  deriving DecidableEq, Repr

/-- A die (R225, R255, R268, R269, R342, R348). -/
structure Die where
  /-- The die's translation buffer: at most 16,384 entries, the most recent first (R342). -/
  tlb : List TlbEntry
  /-- Fault records waiting for room in the queue, at most 64 (R348). -/
  hold : List FaultRecord
  spawns : List SpawnItem
  items : List Item
  launches : List DeviceLaunch
  deriving DecidableEq, Repr

/-- The error registers of a stack (R329). -/
structure Ecc where
  corr : Nat
  uncorr : Nat
  addr : Nat
  valid : Bool
  deriving DecidableEq, Repr

/-- A channel of main memory: its remap (R322 to R324) and its scrubber (R330, R331). -/
structure Channel where
  cur : Nat
  old : Nat
  active : Bool
  auto : Bool
  tgt : Nat
  bound : Nat
  last : Nat
  changes : Nat
  /-- Requests and conflicts of the current window, and the row that each bank holds open (R322). -/
  requests : Nat
  conflicts : Nat
  rows : List (Nat × Nat)
  /-- The version of a remap that waits for the stack's remap engine (R323). -/
  waiting : Option Nat
  pos : Nat
  passes : Nat
  missed : Nat
  /-- MCLK since the pass began: the E of R330. -/
  elapsed : Nat
  /-- The pass has missed its deadline (R330). -/
  overdue : Bool
  deriving DecidableEq, Repr

/-- A link port (R380, R381, R384). -/
structure Port where
  up : Bool
  train : Bool
  en : Bool
  peer : Nat
  peerValid : Bool
  replays : Nat
  retrains : Nat
  /-- Failed replays in a row (R381). -/
  failures : Nat
  /-- Flits that wait for a credit of their class or for the port's training (R381, R382), in order. -/
  queue : List Flit
  /-- Flits sent and not acknowledged (R381): the replay buffer, in order. -/
  buffer : List Flit
  /-- Credits in hand of each class (R382). -/
  credits : List (Nat × Nat)
  /-- Of each class, the flit that arrived bad and must arrive again before others of the class are accepted (R381). -/
  awaits : List (Nat × Flit) := []
  deriving DecidableEq, Repr

/-- The mailbox of a function (R414). -/
structure Mailbox where
  toFirmware : List W64
  /-- The message that SEND took. -/
  sent : List W64
  busy : Bool
  toHost : List W64
  valid : Bool
  deriving DecidableEq, Repr

/-- A supply monitor (R419). -/
structure Supply where
  mv : Nat
  low : Bool
  high : Bool
  deriving DecidableEq, Repr

/-- Invalidations of a SCENE line that a writer waits for (R389): the line's memory key, and the octet members that have not
acknowledged. -/
structure SceneWrite where
  line : Nat
  members : List Nat
  deriving DecidableEq, Repr

/-- An entry of Unfort's log: a launch record rejected with no status record, a status record that could not be written
(R257), a launch queue that stopped (R395), a record dropped for a ring in no reachable aperture (R347), and a port that
went down (R381). -/
inductive LogEntry where
  | rejected (part aspace reason : Nat)
  | statusLost (part aspace tag : Nat)
  | queueStopped (part aspace cls : Nat)
  | dropped (part : Nat)
  | portDown (port : Nat)
  deriving DecidableEq, Repr

/-- What the package has sent in reply to another's request (R375, R378): data or an acknowledgement, a refusal, or an
uncorrectable error. -/
inductive PeerReply where
  | done (package tag : Nat) (data : List Byte)
  | refused (package tag : Nat)
  | failed (package tag : Nat)
  deriving DecidableEq, Repr

/-- A write that has reached its home and waits for the invalidation of a SCENE line (R389), and what has arrived behind it. -/
inductive HeldWrite where
  | peer (r : PeerRequest)
  | host (part offset : Nat) (data : List Byte)
  /-- A doorbell, which takes effect after the writes before it (R396). -/
  | bell (part aspace cls : Nat) (prod : W32)
  deriving DecidableEq, Repr

/-- What the host port has sent to the host (R344, R394, R396): the data of a BAR2 read, an Unsupported Request, an MSI-X
message of a function, or the completion of an invalidation of a partition. -/
inductive HostMessage where
  | invalidated (part pasid : Nat) (va : W64) (logsz : Nat)
  | data (function : Nat) (bytes : List Byte)
  | unsupported (function tag : Nat)
  | msi (function vector : Nat)
  deriving DecidableEq, Repr

/-- The package (R28, R43, R322 to R333, R384, R411 to R420). -/
structure Pkg where
  /-- The part is the ZNP-7140/M, without the units of R67. -/
  mini : Bool
  /-- `PKG` (R28), and the PKGID straps that Unfort reads it from. -/
  number : Nat
  straps : Nat
  /-- ECC units with an uncorrectable error, by memory key / 32 (R328). -/
  badUnits : List Nat
  /-- ECC units with an error that a read corrects (R328). -/
  softUnits : List Nat
  /-- Error registers of each stack of the package. -/
  eccs : List (Nat × Ecc)
  channels : List (Nat × Channel)
  /-- MEM_CTL.CTHR, and the fields of MEM_SCRUB (R324, R331). -/
  cthr : Nat
  lowq : Nat
  deadline : Nat
  scrubEn : Bool
  /-- Access counters: partition, stack and region, and their count (R332). -/
  counters : List ((Nat × Nat × Nat) × Nat)
  ports : List (Nat × Port)
  /-- LNK_ROUTE by destination package (R384). -/
  routes : List (Nat × W64)
  /-- Next sequence number of each flow received: source, destination, die and class (R381). -/
  flows : List ((Nat × Nat × Nat × Nat) × Nat)
  /-- Next sequence number of each flow sent: destination, die and class (R381, R383). -/
  sends : List ((Nat × Nat × Nat) × Nat)
  /-- Messages of this move to other packages that have not entered their flows: destination, die and class. -/
  toLink : List (Nat × Nat × Nat)
  /-- Packages that nothing sent reaches, though a port towards them is up: a later port of the way is down, or the route loops
  (R378, R383). -/
  cut : List Nat
  /-- Pages of peer memory, by address / 4096, whose package refuses what is sent to them (R375, R378). -/
  refusals : List Nat
  /-- Payloads delivered to this package (R381). -/
  delivered : List Flit
  sceneWrites : List SceneWrite
  /-- Local SCENE lines, by memory key / 128, that another member of the octet has read (R389). -/
  sceneCopies : List Nat
  /-- Writes that wait for invalidations, and requests of the same packages behind them (R389). -/
  held : List HeldWrite
  /-- Invalidations of peer SCENE lines that this package has acknowledged (R389). -/
  sceneAcks : List Nat
  /-- Atomics and reductions of other packages that wait at their homes, in arrival order (R327, R377), and replies sent. -/
  homeOps : List PeerRequest
  replies : List PeerReply
  /-- Bytes of host memory that the device has written in this move, by address and number (R182). -/
  touched : List (Nat × Nat)
  /-- Messages sent to the host. -/
  hostOut : List HostMessage
  /-- Ray records sent to units of this package and of others (R386). -/
  rayOut : List RayRecord
  /-- Delegation records that this package's units turned away and whose `SPILL_EXHAUSTED` record is written (R388). -/
  rayWaits : List RayRecord := []
  /-- Rays that this package's units serve for others, by number (R388). -/
  guests : List (Nat × RayGuest)
  /-- Withdrawals from collectives that have been sent: package, partition, group and instance (R392). -/
  collOut : List (Nat × Nat × Nat × W32)
  /-- Unfort's log (R257, R347, R381, R395). -/
  log : List LogEntry
  /-- BOOT_STAT (R411). -/
  phase : Nat
  code : Nat
  /-- The layout word in force (R415), and the one stored in the module flash. -/
  layout : Option W64
  flash : Option W64
  /-- The Unfort image that RECOVER has named (R411); none for that of the module flash. -/
  image : Option (List Byte)
  mailboxes : List (Nat × Mailbox)
  /-- HLTH_TEMP of each core: TEMP and VALID (R419). -/
  temps : List (Nat × BitVec 13)
  supplies : List (Nat × Supply)
  /-- HLTH_PROC of each die. -/
  procs : List (Nat × BitVec 24)
  twarn : BitVec 12
  /-- CLK_STAT (R419). -/
  aclk : Nat
  throttled : Bool
  reason : BitVec 3
  floor : Nat
  /-- The clocks have stopped on a thermal trip (R420). -/
  tripped : Bool
  deriving DecidableEq, Repr

/-- What may leave at any time: a core's instruction words, L1 lines and translations, a die's translations, and the host
translations of a partition's port. -/
inductive Cache where
  | instructions | lines | coreTranslations | translations | hostPages
  deriving DecidableEq, Repr

/-- A move of the schedule: which agent acts next. The model's own (notes/assumptions/1.md). -/
inductive Action where
  /-- A slot of a gang issues its next group. -/
  | issue (gang : Nat) (slotB : Bool)
  /-- A step of the part that no word encodes. -/
  | event (i : Instr)
  /-- `n` ACLK pass at a core (R6). -/
  | pass (core n : Nat)
  /-- The host, or another package, writes bytes of its own memory (R374). -/
  | outside (address : Nat) (data : List Byte)
  /-- `n` MCLK pass at a channel's controller (R318, R330). -/
  | mclk (channel n : Nat)
  /-- A request of a partition for a line of local HBM reaches its channel: an L2 miss or writeback (R322, R332). -/
  | request (part pa : Nat)
  /-- An error appears in an ECC unit: `hard` if no read can correct it (R328). -/
  | upset (unit : Nat) (hard : Bool)
  /-- The host writes AtomicOp Requester Enable of a partition's function in its configuration space (R379). -/
  | requester (part : Nat) (on : Bool)
  /-- A started matrix operation meets an uncorrectable error, in the scratchpad at a crew offset or in the accumulator file. -/
  | arrayError (core op : Nat) (offset : Option Nat)
  /-- Entry `index` of a cache leaves it (R68, R161, R343, R344). -/
  | evict (cache : Cache) (unit index : Nat)
  /-- Commits that begin, and scratchpad accesses that issue, stay for the schedule to perform, or no longer do (R299, R303). -/
  | loose (on : Bool)
  /-- Of commit `commit`, entry `index` of those left is performed, or a store is split after `n` bytes (R303, R317). -/
  | perform (commit index : Nat)
  | split (commit index n : Nat)
  /-- Access `k` of an outstanding instruction of a gang is performed apart, from the L1 if it may be (R297, R299). -/
  | lane (gang index k : Nat) (fromL1 : Bool)
  /-- A started matrix operation comes to have issued `n` pairs (R202). -/
  | array (core op n : Nat)
  /-- A copy moves `n` of the elements left to it (R212, R317). -/
  | elements (core command n : Nat)
  /-- The far end of a port grants `n` credits of a class, or acknowledges the first flit of a class (R381, R382). -/
  | credit (port cls n : Nat)
  | acknowledge (port cls : Nat)
  /-- Beyond the first port, the way to a package is lost, or is there again (R378, R383). -/
  | cut (package : Nat) (on : Bool)
  /-- Another package comes to refuse, or to accept again, what is sent to a page of peer memory (R375, R378). -/
  | refusal (page : Nat) (on : Bool)
  /-- A member of another package has completed an instance of a collective (R392). -/
  | collDone (part group : Nat) (seq : W32) (package member : Nat)
  /-- The host writes BAR0 of a function with an access of `size` bytes (R416). -/
  | bar0Write (function offset size : Nat) (value : W64)
  deriving DecidableEq, Repr

/-- The group that is issuing: its gang and slot, and the address of its first word. The model's own. -/
structure Cur where
  gang : Nat
  slotB : Bool
  pc : W64
  /-- The major opcode of the group's instruction word, which says what pipe it uses (R69, R272). -/
  major : Nat := 63
  deriving DecidableEq, Repr

/-- The machine. -/
@[ext]
structure State where
  /-- The schedule (model's own). -/
  todo : List Action
  /-- Numbers free values (model's own). -/
  tick : Nat
  /-- The issuing group (model's own). -/
  cur : Option Cur
  /-- While it is set, commits that begin leave their entries, and scratchpad accesses that issue stay, for the schedule to
  perform (model's own). -/
  loose : Bool
  mem : Memory
  gangs : List (Nat × Gang)
  crews : List (Nat × Crew)
  barriers : List (List Nat × Barrier)
  launches : List (Nat × Launch)
  cores : List (Nat × Core)
  dies : List (Nat × Die)
  ctxs : List (Nat × Ctx)
  parts : List (Nat × Part)
  pkg : Pkg
  /-- Numbers gangs, launches, commands and operations (model's own). -/
  serial : Nat
  /-- Engine commands in the order they reached their engines. -/
  cmds : List (Nat × Command)
  /-- Copy commands that ended with a nonzero CODE, for the markers that cover them (R223). -/
  failed : List Nat
  /-- Markers that have completed (R223). -/
  markers : List Nat
  /-- Commits whose writes are not all acknowledged, in their order (R302, R312). -/
  acks : List Ack
  /-- Answers of any-hit tasks on their way to their rays (R241): command and lane, answer, and the two words. -/
  answers : List ((Nat × Nat) × Nat × W32 × W32)
  /-- Memory as it stood after writes at homes that what waits is still to be tested against (model's own; R182). -/
  past : List Memory
  deriving DecidableEq, Repr

/-- The package right after reset (R324, R331, R384, R410, R411, R418, R419). -/
def Pkg.reset : Pkg :=
  { mini := false, number := 0, straps := 0, badUnits := [], softUnits := [], eccs := [], channels := [], cthr := 16384, lowq := 8, deadline := 0xFFFF,
    scrubEn := true, counters := [], ports := [], routes := [], flows := [], sends := [], toLink := [], cut := [], refusals := [], delivered := [], sceneWrites := [], sceneCopies := [], held := [], sceneAcks := [], homeOps := [], replies := [], touched := [], hostOut := [], rayOut := [], guests := [], collOut := [], log := [], phase := 0,
    code := 0, layout := none, flash := none, image := none, mailboxes := [], temps := [], supplies := [], procs := [], twarn := 0x5F0,
    aclk := 1750, throttled := false, reason := 0, floor := 875, tripped := false }

/-- The machine right after reset (R410): every register at its reset value, memory with nothing listed, no work placed. -/
def State.reset : State :=
  { todo := [], tick := 0, cur := none, loose := false, mem := [], gangs := [], crews := [], barriers := [], launches := [], cores := [],
    dies := [], ctxs := [], parts := [], pkg := Pkg.reset,
    serial := 0, cmds := [], failed := [], markers := [], acks := [], answers := [], past := [] }

end Sys2Proof.Machine
end

