-- ==== Sys2Proof/Machine/Memory.lean ====
section
/-! DEFINITION. Memory in canonical form: its reads and writes, and byte order (R11). -/

namespace Sys2Proof.Machine

/-- What an address that memory does not list reads as: 0 (R411: bring-up writes every ECC unit with zeros; for host and
peer memory a DESIGN CHOICE, notes/assumptions/5.md). -/
def unlisted : Byte := 0

/-- The byte at address `a`. -/
def mread : (m : Memory) → (a : Nat) → Byte
  | [], _ => unlisted
  | (b, v) :: t, a => if b = a then v else mread t a

/-- The cells without address `a`. -/
def merase : (m : Memory) → (a : Nat) → Memory
  | [], _ => []
  | (b, v) :: t, a => if b = a then merase t a else (b, v) :: merase t a

/-- Inserts a cell before the first higher address. -/
def minsert (a : Nat) (v : Byte) : Memory → Memory
  | [] => [(a, v)]
  | (b, w) :: t => if a < b then (a, v) :: (b, w) :: t else (b, w) :: minsert a v t

/-- Writes a byte; the byte an unlisted address reads as is not listed. -/
def mwrite (m : Memory) (a : Nat) (v : Byte) : Memory :=
  if v = unlisted then merase m a else minsert a v (merase m a)

/-- Writes bytes from address `a` up. -/
def mwriteBytes : (m : Memory) → (a : Nat) → List Byte → Memory
  | m, _, [] => m
  | m, a, b :: bs => mwriteBytes (mwrite m a b) (a + 1) bs

/-- The `n` bytes from address `a` up. -/
def mreadBytes (m : Memory) (a : Nat) : (n : Nat) → List Byte
  | 0 => []
  | n + 1 => mread m a :: mreadBytes m (a + 1) n

/-- The number that the `n` bytes at `a` stand for, little-endian (R11). -/
def mreadNat (m : Memory) (a n : Nat) : Nat := ofBytes (mreadBytes m a n)

/-- Writes the `n` low bytes of a number at `a`, little-endian (R11). -/
def mwriteNat (m : Memory) (a n v : Nat) : Memory := mwriteBytes m a (toBytes n v)

/-- The cells outside the `n` addresses from `a` up: those addresses read as unlisted. -/
def mclear (m : Memory) (a n : Nat) : Memory := m.filter (fun c => decide (c.1 < a) || decide (a + n ≤ c.1))

/-- The canonical form: addresses strictly rising, and no listed byte that an unlisted address reads as. -/
def Memory.wf : Memory → Bool
  | [] => true
  | (a, v) :: t => decide (v ≠ unlisted) && (match t with | [] => true | (b, _) :: _ => decide (a < b)) && Memory.wf t

end Sys2Proof.Machine
end

