-- ==== Sys2Proof/Machine/Translate.lean ====
section
/-! DEFINITION. State lookups, and translation: page-table walks, leaf checks and the translation buffers
(R36 to R42, R338 to R344, R374, R375). -/

namespace Sys2Proof.Machine

/-- A core as it stands at device reset. -/
def Core.empty : Core :=
  { scratch := [], scratchOwn := 0, scratchFull := 0, acc := [], accOwn := 0, ops := [], l1 := [], icache := [], cyc := 0, benches := [], tlb := [] }
/-- A die with nothing waiting. -/
def Die.empty : Die := { tlb := [], hold := [], spawns := [], items := [], launches := [] }
/-- A launch queue at reset (R418). -/
def LaunchQueue.empty : LaunchQueue := { q := 0, base := 0, consAddr := 0, prod := 0, cons := 0, stopped := false, owed := false }
/-- A context at reset (R418). -/
def Ctx.empty : Ctx :=
  { preBusy := false, preOff := false, preHeld := 0, preDisc := 0, heldGroups := [], stashBase := 0, stashCfg := 12, stashOcc := 0, stashSpill := 0,
    en := false, becalm := false, scheck := false, root := 0, pasid := 0, pv := false, privLog := 0, privBase := 0,
    torn := false, queues := [], dispatched := 0 }
/-- A partition's registers at reset (R347, R354, R359): the whole package. -/
def Part.empty : Part :=
  { dies := 4, lnkAccept := 0, octCfg := 0, atc := [], atsRequests := [], atomicOps := false, fltLog := 0, fltBase := 0, fltProd := 0, fltCons := 0, hqLog := 0,
    hqBase := 0, hqProd := 0, hqCons := 0, badResp := 0, openRecords := [], unseen := [],
    sd := { va := 0, aspace := 0, log := 12, all := false }, shoots := [], asserted := false, cycles := [], stopped := false,
    tornDown := false, cause := 0, causeAspace := 0, count := 0, current := none, heldFaults := [], stopBase := 0,
    dumpBase := 0, dumpSize := 0, unstopped := [], openThen := [], nthr := 0, ndrop := 0, nqLog := 0, nqBase := 0, nqProd := 0, nqCons := 0,
    octTown := 0, collGt := 0, colls := [], collOpen := [], turns := [], prepared := [] }

/-- The key of a context: its partition index and ASPACE (R30). -/
def spaceKey (part aspace : Nat) : Nat := part * 256 + aspace

/-- Core `n` of the package. -/
def State.core (s : State) (n : Nat) : Core := (aget s.cores n).getD Core.empty
/-- Die `n` of the package. -/
def State.die (s : State) (n : Nat) : Die := (aget s.dies n).getD Die.empty
/-- The partition with index `n`. -/
def State.part (s : State) (n : Nat) : Part := (aget s.parts n).getD Part.empty
/-- The context with a key. -/
def State.ctx (s : State) (k : Nat) : Ctx := (aget s.ctxs k).getD Ctx.empty
/-- The state with core `n` replaced. -/
def State.setCore (s : State) (n : Nat) (c : Core) : State := { s with cores := aput s.cores n c }
/-- The state with die `n` replaced. -/
def State.setDie (s : State) (n : Nat) (d : Die) : State := { s with dies := aput s.dies n d }
/-- The state with partition `n` replaced. -/
def State.setPart (s : State) (n : Nat) (p : Part) : State := { s with parts := aput s.parts n p }
/-- The state with a context replaced. -/
def State.setCtx (s : State) (k : Nat) (c : Ctx) : State := { s with ctxs := aput s.ctxs k c }
/-- The state with a gang replaced. -/
def State.setGang (s : State) (id : Nat) (g : Gang) : State := { s with gangs := aput s.gangs id g }
/-- The state with a gang changed, if there is one. -/
def State.modGang (s : State) (id : Nat) (f : Gang → Gang) : State :=
  match aget s.gangs id with | some g => s.setGang id (f g) | none => s

/-- The bytes of local HBM of a partition of `n` dies (R319). -/
def localSize (n : Nat) : Nat := n * 2 ^ 37

/-- The memory key of a physical address of a partition: package-wide for local HBM, the address itself for the other
apertures (R374). -/
def memKey (part pa : Nat) : Nat := if pa < 2 ^ 50 then part * 2 ^ 37 + pa else pa

/-- The physical address that a memory key stands for in a partition's map. -/
def homePA (part key : Nat) : Nat := if key < 2 ^ 50 then key - part * 2 ^ 37 else key

/-- The aperture of a physical address (R374). -/
def aperture (pa : Nat) : Nat := pa / 2 ^ 50 % 4

/-- The physical address exists in the partition's map (R374, R375). -/
def paExists (p : Part) (pa : Nat) : Bool :=
  match aperture pa with | 0 => decide (pa < localSize p.dies) | 1 => true | 2 => true | _ => false

/-! Leaf attributes (R41, R339). -/

/-- The W attribute. -/
def leafW (e : W64) : Bool := bit e 2
/-- The X attribute. -/
def leafX (e : W64) : Bool := bit e 3
/-- The MS attribute. -/
def leafMS (e : W64) : Bool := bit e 4
/-- The SCENE attribute. -/
def leafScene (e : W64) : Bool := bit e 5
/-- The NC attribute. -/
def leafNC (e : W64) : Bool := bit e 6
/-- Every access to the page reaches its stack and is counted: MS or NC (R159, R332). -/
def leafCounted (e : W64) : Bool := leafMS e || leafNC e
/-- The PRIV attribute. -/
def leafPriv (e : W64) : Bool := bit e 7
/-- The physical page address of an entry. -/
def entryPA (e : W64) : Nat := bits e 51 12 * 4096

/-- The entries of a group and the page size of a leaf at a level (R338, R339); `none` for an SZ not allowed there. -/
def leafSize (level : Nat) (e : W64) : Option (Nat × Nat) :=
  match level, bits e 9 8 with
  | 5, 0 => some (1, 12) | 5, 1 => some (4, 14) | 5, 2 => some (16, 16) | 5, 3 => some (64, 18)
  | 4, 0 => some (1, 21) | 4, 1 => some (8, 24) | 4, 2 => some (64, 27)
  | 3, 0 => some (1, 30)
  | _, _ => none

/-- The packages of a partition's octet (R384). -/
def octetMembers (pkg : Nat) (p : Part) : List Nat :=
  if bit p.octCfg 0 then (List.range 8).map (fun k => bits p.octCfg (16 + 6 * k + 5) (16 + 6 * k)) else [pkg]

/-- The leaf is none of the invalid combinations of R42 and R375. -/
def leafLegal (pkg : Nat) (p : Part) (e : W64) (pa : Nat) : Bool :=
  !(leafMS e && (leafScene e || leafNC e || leafPriv e)) && !(leafX e && (leafW e || leafPriv e)) && paExists p pa
    && (match aperture pa with
      | 1 => decide (bits e 41 39 = 0) && decide (bits e 49 44 ≠ pkg)
          && (!leafScene e || (octetMembers pkg p).contains (bits e 49 44))
      | 2 => !leafMS e && !leafScene e
      | _ => true)

/-- What a walk of the page tables gives (R340). -/
inductive Walk where
  /-- A valid leaf, and the size of its page. -/
  | leaf (e : W64) (log : Nat)
  | miss
  | invalid
  /-- An uncorrectable error in a table, at a memory key (R341). -/
  | ecc (key : Nat)
  deriving DecidableEq, Repr

/-- The unit of a memory key has an uncorrectable error (R328). -/
def State.bad (s : State) (key : Nat) : Bool := s.pkg.badUnits.contains (key / 32)

/-- The page-table entry at a local offset of the partition. -/
def State.entryAt (s : State) (part offset : Nat) : W64 := w64 (mreadNat s.mem (memKey part offset) 8)

/-- The leaf that a walk uses when the entries of its group differ: any one of them (R340), picked by a free value
(notes/assumptions/7.md). -/
def groupLeaf (s : State) (part table index n : Nat) (e : W64) : W64 :=
  let first := index / n * n
  if (List.range n).all (fun k => decide (s.entryAt part (table + 8 * (first + k)) = e)) then e
  else s.entryAt part (table + 8 * (first + (Config.freeByte s.tick index).toNat % n))

/-- Walks from a table at `level`; `fuel` bounds the levels left (R338 to R341). -/
def walkFrom (s : State) (part va : Nat) : (fuel level table : Nat) → Walk
  | 0, _, _ => .invalid
  | fuel + 1, level, table =>
    let index := va / 2 ^ (12 + 9 * (5 - level)) % 512
    let offset := table + 8 * index
    if s.bad (memKey part offset) then .ecc (memKey part offset)
    else
      let e := s.entryAt part offset
      if !bit e 0 then .miss
      else if bit e 1 then
        match leafSize level e with
        | none => .invalid
        | some (n, log) =>
          let e := groupLeaf s part table index n e
          if !bit e 0 then .miss
          else if bit e 1 && decide (bits e 11 10 = 0) && decide (leafSize level e = some (n, log))
              && decide (entryPA e % 2 ^ log = 0) && leafLegal s.pkg.number (s.part part) e (entryPA e) then .leaf e log
          else .invalid
      else if level = 5 ∨ bits e 11 2 ≠ 0 ∨ localSize (s.part part).dies ≤ entryPA e then .invalid
      else walkFrom s part va fuel (level + 1) (entryPA e)

/-- The stack of the package that holds a memory key of a partition (R320). -/
def stackOf (s : State) (part pa : Nat) : Nat := 2 * part + homeStack (stackLog (s.part part).dies) pa

/-- The error registers of a stack. -/
def State.ecc (s : State) (stack : Nat) : Ecc :=
  (aget s.pkg.eccs stack).getD { corr := 0, uncorr := 0, addr := 0, valid := false }

/-- A read of bytes at a memory key corrects the units it needs, which is counted (R328, R329). -/
def correctUnits (s : State) (part key n : Nat) : State :=
  if s.pkg.softUnits.isEmpty then s
  else
    let hit := s.pkg.softUnits.filter (fun u => decide (key / 32 ≤ u) && decide (32 * u < key + n))
    hit.foldl (fun s u =>
      let k := stackOf s part (homePA part (32 * u))
      let e := s.ecc k
      { s with pkg := { s.pkg with
        softUnits := s.pkg.softUnits.filter (· ≠ u), eccs := aput s.pkg.eccs k { e with corr := min 0xFFFF (e.corr + 1) } } }) s

/-- The memory keys of the entries that a walk reads (R338, R341); `fuel` bounds the levels left. -/
def walkReads (s : State) (part va : Nat) : (fuel level table : Nat) → List Nat
  | 0, _, _ => []
  | fuel + 1, level, table =>
    let offset := table + 8 * (va / 2 ^ (12 + 9 * (5 - level)) % 512)
    let e := s.entryAt part offset
    memKey part offset ::
      (if s.bad (memKey part offset) || !bit e 0 || bit e 1 || decide (level = 5) || decide (bits e 11 2 ≠ 0) ||
          decide (localSize (s.part part).dies ≤ entryPA e) then []
       else walkReads s part va fuel (level + 1) (entryPA e))

/-- The walk of an address corrects the units of the entries it reads (R328, R338, R341). -/
def State.walked (s : State) (part aspace va : Nat) : State :=
  if s.pkg.softUnits.isEmpty then s
  else (walkReads s part va 5 1 (s.ctx (spaceKey part aspace)).root).foldl (fun s key => correctUnits s part key 8) s

/-- The walk of an address (R338). -/
def State.walk (s : State) (part aspace va : Nat) : Walk :=
  walkFrom s part va 5 1 (s.ctx (spaceKey part aspace)).root

/-- The translation-buffer entry of a die that covers an address (R342, R343). -/
def tlbFind (space va : Nat) : List TlbEntry → Option TlbEntry
  | [] => none
  | t :: ts => if t.space = space ∧ t.base ≤ va ∧ va < t.base + 2 ^ t.log then some t else tlbFind space va ts

/-- How an access uses its page (R41, R158). -/
inductive Need where
  | read | write | fetch
  deriving DecidableEq, Repr

/-- What translating an address gives. -/
inductive Xlate where
  | ok (pa : Nat) (leaf : W64)
  /-- Not resident; `failed` is a host page whose request failed (R344). -/
  | miss (failed : Option Nat)
  | perm
  | torn
  | ecc (key : Nat)
  /-- A host page that the port holds no translation for, or, with `pri`, one without the permission needed (R344). -/
  | hostWait (page : Nat) (write pri : Bool)
  deriving DecidableEq, Repr

/-- The attributes admit the access (R41, R158). -/
def leafAdmits (n : Need) (e : W64) : Bool :=
  !leafPriv e && (match n with | .read => true | .write => leafW e | .fetch => leafX e)

/-- The host page a context's host address translates to, under its PASID; `failed` are the pages for which the request of the access in
hand has failed (R344). -/
def hostTranslate (s : State) (part aspace pa : Nat) (n : Need) (failed : List Nat) : Xlate :=
  let page := pa % 2 ^ 50 / 4096
  if failed.contains page then .miss (some page)
  else match aget (s.part part).atc (spaceKey part aspace, page) with
  | some (.page host r w) =>
    if (match n with | .write => w | _ => r) then .ok (2 * 2 ^ 50 + host % 2 ^ 38 * 4096 + pa % 4096) 0
    else .hostWait page (n == .write) true
  | none => .hostWait page (n == .write) false

/-- Uses a leaf for an access. -/
def useLeaf (s : State) (part aspace va log : Nat) (e : W64) (n : Need) (failed : List Nat) : Xlate :=
  if !leafAdmits n e then .perm
  else
    let pa := entryPA e + va % 2 ^ log
    if aperture pa = 2 then
      (match hostTranslate s part aspace pa n failed with | .ok h _ => .ok h e | x => x)
    else .ok pa e

/-- A core's translation buffer, if a core asked, takes an entry and lets the oldest go beyond 256 (R342). -/
def State.keepTlb (s : State) (core : Option Nat) (e : TlbEntry) : State :=
  match core with
  | none => s
  | some n => let c := s.core n; s.setCore n { c with tlb := (e :: c.tlb).take 256 }

/-- The entry of a core's translation buffer, if a core asks, that covers an address (R342). -/
def State.coreTlb (s : State) (core : Option Nat) (space va : Nat) : Option TlbEntry :=
  core.bind (fun n => tlbFind space va (s.core n).tlb)

/-- Translates an address: in the core's translation buffer where a core asks, on a miss in the die's, on a further miss by
a walk; the buffers keep a valid leaf (R39, R340 to R343). -/
def State.xlateFrom (s : State) (part aspace die : Nat) (core : Option Nat) (va : Nat) (n : Need) (failed : List Nat) : State × Xlate :=
  let space := spaceKey part aspace
  if (s.ctx space).torn then (s, .torn)
  else if 2 ^ 57 ≤ va then (s, .perm)
  else match s.coreTlb core space va with
  | some t => (s, useLeaf s part aspace va t.log t.leaf n failed)
  | none => match tlbFind space va (s.die die).tlb with
    | some t => (s.keepTlb core t, useLeaf s part aspace va t.log t.leaf n failed)
    | none =>
      let s1 := s.walked part aspace va
      match s.walk part aspace va with
      | .miss => (s1, .miss none)
      | .invalid => (s1, .perm)
      | .ecc k => (s1, .ecc k)
      | .leaf e log =>
        let d := s1.die die
        let t : TlbEntry := { space := space, base := va / 2 ^ log * 2 ^ log, log := log, leaf := e }
        ((s1.setDie die { d with tlb := (t :: d.tlb).take 16384 }).keepTlb core t, useLeaf s1 part aspace va log e n failed)

/-- The host pages of a space for which a waiter's request has failed (R344). -/
def State.hostFailed (s : State) (part space : Nat) (w : Waiter) : List Nat :=
  (s.part part).atsFailed.filterMap (fun x => if x.1 = space ∧ x.2.2 = w then some x.2.1 else none)

/-- Translates an address for a unit of a die (R342). -/
def State.xlate (s : State) (part aspace die va : Nat) (n : Need) (failed : List Nat := []) : State × Xlate :=
  s.xlateFrom part aspace die none va n failed

end Sys2Proof.Machine
end

