-- ==== Sys2Proof/Machine/Regs.lean ====
section
/-! DEFINITION. A gang's registers and PC slots: reads, writes, results in flight (R17 to R25, R62 to R65). -/

namespace Sys2Proof.Machine

/-- A PC slot that is idle (R24). -/
def Slot.idle : Slot :=
  { live := false, pc := 0, mask := 0, stack := [], path := [], icnt := 0, dist := 0, haz := [], parked := none, waits := false, yieldTo := 0,
    boost := 0, aged := false, since := 0, ready := 0, passed := false, pended := false }

/-- Slot B, or slot A. -/
def Gang.slot (g : Gang) (slotB : Bool) : Slot := if slotB then g.b else g.a
/-- The slot is ready from a cycle of its core on, and has been passed over by none since (R265, R271). -/
def Slot.readyFrom (sl : Slot) (now : Nat) : Slot := { sl with ready := max sl.ready now, passed := false }

/-- The gang with slot B, or slot A, replaced. -/
def Gang.setSlot (g : Gang) (slotB : Bool) (x : Slot) : Gang := if slotB then { g with b := x } else { g with a := x }

/-- The lane domain of a slot (R25). -/
def Gang.domain (g : Gang) (slotB : Bool) : W32 :=
  if slotB then g.bStart else if g.b.live then g.lane &&& ~~~g.bStart else g.lane

/-- A scalar register as the issuing slot reads it (R19, R25). -/
def Gang.readS (g : Gang) (slotB : Bool) (n : Nat) : W64 :=
  if n = 63 then 0 else if n = 62 then (g.slot slotB).mask.setWidth 64 else tget 0 g.s n

/-- Writes a scalar register: `s63` ignores it, `s62` is the slot's mask within its lane domain (R19, R25). -/
def Gang.writeS (g : Gang) (slotB : Bool) (n : Nat) (v : W64) : Gang :=
  if n = 63 then g
  else if n = 62 then g.setSlot slotB { g.slot slotB with mask := v.setWidth 32 &&& g.domain slotB }
  else { g with s := tset 0 g.s n v }

/-- A mask register; `m0` reads all ones (R20). -/
def Gang.readM (g : Gang) (n : Nat) : W32 := if n = 0 then 0xFFFFFFFF else tget 0 g.m n
/-- Writes a mask register; `m0` ignores it (R20). -/
def Gang.writeM (g : Gang) (n : Nat) (v : W32) : Gang := if n = 0 then g else { g with m := tset 0 g.m n v }

/-- A vector register as its list of lanes. -/
def Gang.row (g : Gang) (n : Nat) : List W32 := tget [] g.v n
/-- Lane `l` of vector register `n` (R17). -/
def Gang.lane? (g : Gang) (n l : Nat) : W32 := tget 0 (g.row n) l

/-- The lanes in `lanes` from `new`, the others from `old`. -/
def mergeRow (lanes : W32) (new old : List W32) : List W32 :=
  (List.range 32).map (fun l => if bit lanes l then tget 0 new l else tget 0 old l)

/-- Writes the lanes in `lanes` of vector register `n` (R17, R55). -/
def Gang.writeV (g : Gang) (n : Nat) (lanes : W32) (values : List W32) : Gang :=
  if lanes = 0 then g else { g with v := tset [] g.v n (mergeRow lanes values (g.row n)) }

/-- Performs a register write. -/
def Gang.land (g : Gang) (slotB : Bool) : RegWrite → Gang
  | .scalar n v => g.writeS slotB n v
  | .mask n v => g.writeM n v
  | .vector n lanes values => g.writeV n lanes values

/-- Performs register writes in order. -/
def Gang.landAll (g : Gang) (slotB : Bool) : List RegWrite → Gang
  | [] => g
  | w :: ws => (g.land slotB w).landAll slotB ws

/-- Lands results in order, each for its own slot. -/
def Gang.landFlights (g : Gang) : List Flight → Gang
  | [] => g
  | f :: fs => (g.land f.slotB f.write).landFlights fs

/-- A register named by an instruction. -/
inductive Reg where
  | s (n : Nat)
  | m (n : Nat)
  | v (n : Nat)
  deriving DecidableEq, Repr

/-- A number for each register. -/
def Reg.code : Reg → Nat
  | .s n => n
  | .m n => 64 + n
  | .v n => 128 + n

/-- The register a write goes to. -/
def RegWrite.reg : RegWrite → Reg
  | .scalar n _ => .s n
  | .mask n _ => .m n
  | .vector n _ _ => .v n

/-- The registers that read a constant and ignore writes (R19, R20). -/
def Reg.constant (r : Reg) : Bool := r = .s 63 || r = .m 0

/-- The pending bit of a register (R22); mask registers have none. -/
def Gang.pending (g : Gang) : Reg → Bool
  | .s n => bit g.pendS n
  | .m _ => false
  | .v n => bit g.pendV n

/-- Sets the pending bits of registers (R22). -/
def Gang.setPending (g : Gang) : List Reg → Gang
  | [] => g
  | .s n :: rs => { g with pendS := g.pendS ||| BitVec.twoPow 64 n }.setPending rs
  | .v n :: rs => { g with pendV := g.pendV ||| BitVec.twoPow 128 n }.setPending rs
  | .m _ :: rs => g.setPending rs

/-- A returning operation of a slot issues: its destinations become pending, and the slot remembers that it set them (R22). -/
def Gang.begin (g : Gang) (slotB : Bool) (rs : List Reg) : Gang :=
  if rs.isEmpty then g else let h := g.setPending rs; h.setSlot slotB { h.slot slotB with pended := true }

/-- The register tile of a vector register is engine-owned (R31, R32). -/
def Gang.owned (g : Gang) : Reg → Bool
  | .v n => bit g.vtOwner (n / 8)
  | _ => false

/-- The results that `p` selects land in the order they complete (R64). -/
def Gang.landIf (g : Gang) (p : Flight → Bool) : Gang :=
  match g.flight with
  | [] => g
  | fs =>
    ({ g with flight := fs.filter (fun f => !p f) }).landFlights
      (sortBy (fun (a b : Flight) => decide (a.lands < b.lands)) (fs.filter p))

/-- The result was issued on the path of a slot (R62). -/
def Flight.onPath (slotB : Bool) (f : Flight) : Bool := f.slotB == slotB || (f.shared && slotB)

/-- Lands the results that a unit of a slot finds there, which issues at a distance in a cycle: those whose latency has passed, in cycles
or along the slot's path (R62 to R64). -/
def Gang.landDue (g : Gang) (slotB : Bool) (dist cycle : Nat) : Gang :=
  g.landIf (fun f => decide (f.lands ≤ cycle) || (f.onPath slotB && decide (f.due ≤ dist)))

/-- Lands every result of a slot's path (R65). -/
def Gang.landSlot (g : Gang) (slotB : Bool) : Gang := g.landIf (Flight.onPath slotB)

/-- The result is the slot's `s62`. -/
def Flight.ofMask (slotB : Bool) (f : Flight) : Bool := f.slotB == slotB && f.write.reg == .s 62

/-- The cycle from which the slot's pending writes of `s62` have landed (R25). -/
def Gang.maskReady (g : Gang) (slotB : Bool) : Nat := (g.flight.filter (Flight.ofMask slotB)).foldl (fun n f => max n f.lands) 0

/-- Lands the slot's pending writes of `s62`: a unit that uses the mask waits for them (R25). The lane domain that each is ANDed with is
that of its landing (notes/assumptions/89.md). -/
def Gang.landMask (g : Gang) (slotB : Bool) : Gang := g.landIf (Flight.ofMask slotB)

/-- The task is clean: it could be discarded singly (R351), given its NI bit. -/
def Gang.clean (g : Gang) (ni : Bool) : Bool := !g.sealed && !ni && !g.unclean

/-- The lowest set lane of `LANE`, to which scalar accesses are attributed (R122). -/
def Gang.lowLane (g : Gang) : Nat := ctz 32 g.lane.toNat

end Sys2Proof.Machine
end

