-- ==== Sys2Proof/Machine/Ops.lean ====
section
/-! DEFINITION. Taking a fault: the one shared operation that writes the fault record, parks the slot or command and
queues the cause of a squall (R66, R345 to R348, R355, R357), and the ends of a park (R349). -/

namespace Sys2Proof.Machine

/-- The code of a fault class (R345). -/
def FaultClass.code : FaultClass → Nat
  | .xlatMiss => 1 | .xlatPerm => 2 | .torn => 3 | .illegalOp => 4 | .illegalUnit => 5 | .tileOwned => 6
  | .barrierMismatch => 7 | .pendingRead => 8 | .stallShort => 9 | .spillExhausted => 10 | .stackOverflow => 11
  | .align => 12 | .eccUncorr => 13 | .depInvalid => 14 | .trap => 15 | .kill => 16

/-- The recoverable classes (R345). -/
def FaultClass.recoverable : FaultClass → Bool
  | .xlatMiss => true | .spillExhausted => true | _ => false

/-- The KIND code of R346. -/
def AccessKind.code : AccessKind → Nat
  | .fetch => 0 | .vload => 1 | .vgather => 2 | .vstore => 3 | .vatomic => 4 | .scratch => 5 | .sload => 6 | .sstore => 7
  | .watch => 8 | .hash => 9 | .engRead => 10 | .engWrite => 11 | .commit => 12 | .walk => 13 | .none => 15

/-- What a fault reports besides its class (R346). -/
structure FaultInfo where
  kind : AccessKind
  va : Nat
  done : W32
  faulted : W32
  detail : Nat
  code : Nat
  host : Bool
  /-- The lanes a replay re-issues (R158); for a scalar access, the lane it is attributed to (R122). -/
  lanes : W32

/-- A fault that is not an access's. -/
def FaultInfo.plain : FaultInfo := { kind := .none, va := 0, done := 0, faulted := 0, detail := 0, code := 0, host := false, lanes := 0 }

/-- A launch of the state. -/
def State.launch? (s : State) (n : Nat) : Option Launch := aget s.launches n

/-- A word of a launch record (R256). -/
def Launch.word (l : Launch) (i : Nat) : W64 := tget 0 l.words i

/-- The role of a launch is not idempotent (R256). -/
def Launch.ni (l : Launch) (role : Nat) : Bool := bit (l.word (8 + role)) 0

/-- The task of a gang was declared not idempotent (R28). -/
def State.nonidem (s : State) (g : Gang) : Bool :=
  match s.launch? g.launch with | some l => l.ni g.role | none => false

/-- The die a gang sits on. -/
def Gang.die (g : Gang) : Nat := g.core / 40

/-- Translates an address for a gang's access (R342). -/
def State.gangXlate (s : State) (g : Gang) (va : Nat) (n : Need) : State × Xlate :=
  s.xlateFrom g.part g.aspace g.die (some g.core) va n (match s.cur with
    | some c => s.hostFailed g.part (spaceKey g.part g.aspace) (.slot c.gang c.slotB) | none => [])

/-- The dwords d0 to d6 of a gang's fault record (R346). -/
def gangRecord (s : State) (g : Gang) (slotB : Bool) (pc : W64) (cls : FaultClass) (f : FaultInfo) : List W64 :=
  let ni := s.nonidem g
  [ w64 (cls.code + f.kind.code * 2 ^ 8 + slotB.toNat * 2 ^ 12 + g.sealed.toNat * 2 ^ 13 + ni.toNat * 2 ^ 14
      + (g.clean ni).toNat * 2 ^ 15 + g.aspace * 2 ^ 16 + g.die * 2 ^ 24 + g.core % 40 * 2 ^ 26 + g.slotNo * 2 ^ 32
      + f.host.toNat * 2 ^ 41),
    pc.setWidth 64, w64 f.va, f.faulted ++ f.done, w64 f.code, 0, w64 f.detail ]

/-- The fault ring's entries: 2^(6+LOGN), values above 10 acting as 10 (R347). -/
def ringSize (logn : Nat) : Nat := 2 ^ (6 + min logn 10)

/-- A physical ring or area is in an aperture that receives records (R347). -/
def ringReachable (p : Part) (base : Nat) : Bool :=
  decide (base < 2 ^ 52) && (decide (aperture base = 2) || (decide (aperture base = 0) && paExists p base))

/-- The bytes of words, each little-endian (R11). -/
def wordBytes (ws : List W64) : List Byte := ws.flatMap (fun w => toBytes 8 w.toNat)

/-- Units wholly written get fresh check bits (R328). -/
def State.freshUnits (s : State) (units : List Nat) : State :=
  if s.pkg.badUnits.isEmpty && s.pkg.softUnits.isEmpty then s
  else { s with pkg := { s.pkg with
    badUnits := s.pkg.badUnits.filter (fun u => !units.contains u), softUnits := s.pkg.softUnits.filter (fun u => !units.contains u) } }

/-- BAR0 takes writes to registers other than the mailbox's: bring-up has reached phase 6 (R411). -/
def State.ready? (s : State) : Bool := decide (s.pkg.phase = 6)

/-- A write of a register, as a step of its own: before phase 6 it is not accepted (R411). -/
def State.ifReady (s : State) (t : State) : State := if s.ready? then t else s

/-- A write of the host to a partition is held, which a later write, read or doorbell of it may not pass (R389, R396). -/
def hostHeld (s : State) (part : Nat) : Bool :=
  s.pkg.held.any (fun h => match h with | .host p _ _ => decide (p = part) | .bell p _ _ _ => decide (p = part) | .peer _ => false)

/-- A write that has arrived is held (R389). -/
def State.hold (s : State) (h : HeldWrite) : State := { s with pkg := { s.pkg with held := s.pkg.held ++ [h] } }

/-- The package of a peer address (R374). -/
def peerPkg (pa : Nat) : Nat := pa / 2 ^ 44 % 64

/-- A message of a class sets out for a die of another package (R382, R383). -/
def State.linkSend (s : State) (package die cls : Nat) : State := { s with pkg := { s.pkg with toLink := s.pkg.toLink ++ [(package, die, cls)] } }

/-- A request to peer memory sets out for its home; the flow of an address is that of the lowest die of its partition (R374, R383;
notes/assumptions/87.md). -/
def State.linkFor (s : State) (key : Nat) : State :=
  if aperture key = 1 then s.linkSend (peerPkg key) (key / 2 ^ 42 % 4) 0 else s

/-- The device has written `n` bytes of host memory, which the watches on them may not miss, or sent a write to another package (R182,
R382). -/
def State.touch (s : State) (key n : Nat) : State :=
  match aperture key with
  | 1 => s.linkFor key
  | 2 => { s with pkg := { s.pkg with touched := (key, n) :: s.pkg.touched } }
  | _ => s

/-- A record of whole ECC units is written at a physical address: the units get fresh check bits (R328). -/
def State.postBytes (s : State) (part a : Nat) (data : List Byte) : State :=
  let key := memKey part a
  ({ s with mem := mwriteBytes s.mem key data }.freshUnits ((List.range (data.length / 32)).map (fun j => key / 32 + j))).touch key data.length

/-- Unfort logs a record dropped for a ring that receives none (R347). -/
def State.logDropped (s : State) (part : Nat) : State := { s with pkg := { s.pkg with log := s.pkg.log ++ [.dropped part] } }

/-- The slot of a parked gang takes the record's name. -/
def nameRecord (s : State) (seq : Nat) : FaultOwner → State
  | .gang id slotB => s.modGang id (fun g =>
      match (g.slot slotB).parked with
      | some p => g.setSlot slotB { g.slot slotB with parked := some { p with record := some seq } }
      | none => g)
  | _ => s

/-- Writes a record to the partition's fault queue; a queue in no reachable aperture receives none (R347, R348). -/
def writeRecord (s : State) (part : Nat) (r : FaultRecord) : State :=
  let p := s.part part
  if ringReachable p p.fltBase then
    let seq := p.fltProd.toNat
    let a := p.fltBase + 64 * (seq % ringSize p.fltLog)
    let words := r.words ++ [w64 seq]
    let s1 := s.postBytes part a (wordBytes words)
    let named (c : Cause) : Cause := if c.words = r.words then { c with words := words } else c
    let p1 := { p with
      heldFaults := p.heldFaults.map named
      current := p.current.map named
      fltProd := p.fltProd + 1
      openRecords := if r.cls.recoverable then p.openRecords ++ [(seq, r)] else p.openRecords
      unseen := p.unseen ++ [(seq, r)] }
    nameRecord (s1.setPart part p1) seq r.owner
  else s.logDropped part

/-- The fault queue is full (R348). -/
def queueFull (p : Part) : Bool := decide ((p.fltProd - p.fltCons).toNat = ringSize p.fltLog)

/-- A record that has waited in a hold gets its CLEAN as it is written: whether its task could be discarded singly then (R346, R351). A
cause that carries the record carries it so. -/
def cleanNow (s : State) (part : Nat) (r : FaultRecord) : State × FaultRecord :=
  match r.task.bind (aget s.gangs) with
  | none => (s, r)
  | some g =>
    let words := match r.words with
      | d0 :: rest => (d0 &&& ~~~0x8000 ||| w64 ((g.clean (s.nonidem g)).toNat * 2 ^ 15)) :: rest
      | [] => []
    let p := s.part part
    let again (c : Cause) : Cause := if c.words = r.words then { c with words := words } else c
    (s.setPart part { p with heldFaults := p.heldFaults.map again, current := p.current.map again }, { r with words := words })

/-- A fault record goes to the queue, or waits in its die's hold, in order (R348). -/
def postRecord (s : State) (part die : Nat) (r : FaultRecord) : State :=
  let d := s.die die
  if queueFull (s.part part) || !d.hold.isEmpty then s.setDie die { d with hold := d.hold ++ [r] }
  else writeRecord s part r

/-- A fatal cause waits to assert the partition's squall line, in order of detection (R355, R357). -/
def queueCause (s : State) (part : Nat) (c : Cause) : State :=
  let p := s.part part
  let words := match p.unseen.reverse.find? (fun x => x.2.words == c.words) with | some (seq, r) => r.words ++ [w64 seq] | none => c.words
  s.setPart part { p with heldFaults := p.heldFaults ++ [{ c with words := words }] }

/-- TAKING A FAULT in a gang's group (R345 to R348). The slot parks at the group; the record is written or held; a fatal
class queues its cause. The group's other effects are those its meaning has had already. -/
def raiseFault (s : State) (id : Nat) (slotB : Bool) (pc : W64) (cls : FaultClass) (f : FaultInfo) (pos : Pos)
    (byLane : Bool) : State :=
  match aget s.gangs id with
  | none => s
  | some g =>
    let words := gangRecord s g slotB pc cls f
    let park : Park := { record := none, released := false, faulted := f.lanes, byLane := byLane, hostWait := false, pos := pos }
    let s1 := s.setGang id (g.setSlot slotB { g.slot slotB with parked := some park })
    let s2 := postRecord s1 g.part g.die { owner := .gang id slotB, aspace := g.aspace, cls := cls, words := words, task := some id }
    if cls.recoverable then s2
    else queueCause s2 g.part { cls := cls, aspace := g.aspace, words := words, gang := some id }

/-- The gang ends with `TORN`: it issues nothing else and writes no record (R361, R362). A gang of no crew frees its slot. -/
def endTorn (s : State) (id : Nat) : State :=
  match aget s.gangs id with
  | none => s
  | some g =>
    if g.crewKey.isNone then { s with gangs := adel s.gangs id }
    else s.setGang id { g with
      phase := .ended, a := { g.a with live := false, parked := none }, b := { g.b with live := false, parked := none },
      flight := [], loads := [], order := [], entries := [], returns := [], restarting := false }

/-- A Page Request goes out, or waits while 512 are out (R344). -/
def Part.pageStage (p : Part) : AtsStage :=
  if (p.atsRequests.filter (fun r => r.stage == .page)).length < 512 then .page else .held

/-- The host port asks for the translation of a host page if it has not: with a Translation Request, or with a Page Request
where the translation it holds lacks the permission needed, once fewer than 512 of those are out; who asks waits for the answer, `none`
for a test that is made again by itself (R344). -/
def hostAsk (s : State) (part aspace page : Nat) (write pri : Bool) (w : Option Waiter) : State :=
  let p := s.part part
  let space := spaceKey part aspace
  let same (r : AtsRequest) : Bool := r.space == space && r.page == page && (r.write || !write)
  match p.atsRequests.findIdx? same with
  | some k => s.setPart part { p with atsRequests := p.atsRequests.modify k (fun r => { r with waiters := dedup (r.waiters ++ w.toList) }) }
  | none => s.setPart part { p with atsRequests := p.atsRequests ++
    [{ space := space, page := page, write := write, stage := if pri then p.pageStage else .translation, waiters := w.toList }] }

/-- A waiter has made again the access whose request failed, which is forgotten (R344). -/
def State.answered (s : State) (part : Nat) (w : Waiter) : State :=
  let p := s.part part
  if p.atsFailed.isEmpty then s else s.setPart part { p with atsFailed := p.atsFailed.filter (fun x => x.2.2 != w) }

/-- A waiter waits no longer, and no answer is kept for it. -/
def Part.dropWaiter (p : Part) (w : Waiter) : Part :=
  { p with
    atsFailed := p.atsFailed.filter (fun x => x.2.2 != w)
    atsRequests := p.atsRequests.map (fun r => { r with waiters := r.waiters.filter (· != w) }) }

/-- A slot waits for a host translation (R344). -/
def hostPark (s : State) (id : Nat) (slotB : Bool) (page : Nat) (write pri : Bool) (park : Park) : State :=
  match aget s.gangs id with
  | none => s
  | some g => (hostAsk s g.part g.aspace page write pri (some (.slot id slotB))).setGang id (g.setSlot slotB { g.slot slotB with parked := some park })

end Sys2Proof.Machine
end

