-- ==== Sys2Proof/Machine/Home.lean ====
section
/-! DEFINITION. What acts at a home: the operations on its words, the reporting of errors, the routes to other packages, the
counting of requests, and the performing of one buffered entry (R124 to R128, R170 to R172, R298, R301 to R303, R309, R327 to
R333, R378). -/

namespace Sys2Proof.Machine

/-! The operations at the home (R124, R125, R170, R172). -/

/-- The word after an operation of `w` bits, and whether it succeeded: the old word, the value and the comparand or bound. -/
def amoApply (op : AmoOp) (w old v c : Nat) : Nat × Bool :=
  let v := v % 2 ^ w
  let c := c % 2 ^ w
  match op with
  | .add => ((old + v) % 2 ^ w, true)
  | .minI => (if sext w v < sext w old then v else old, true)
  | .maxI => (if sext w old < sext w v then v else old, true)
  | .minN => (min old v, true)
  | .maxN => (max old v, true)
  | .and => (Nat.land old v, true)
  | .or => (Nat.lor old v, true)
  | .xor => (Nat.xor old v, true)
  | .xchg => (v, true)
  | .cas => (if old = c then v else old, true)
  | .incw => (if v ≤ old then 0 else old + 1, true)
  | .faddb => (if old ≤ c ∧ old + v ≤ c then old + v else old, true)
  | .faddF32 => ((faddF32 (w32 old) (w32 v)).toNat, true)
  | .faddBf16x2 => (faddBF16 (old % 65536) (v % 65536) + faddBF16 (old / 65536) (v / 65536) * 65536, true)
  | .racq =>
    let rc := old % 65536
    if old / 2 ^ 31 = 0 ∧ rc < 0xFFFF ∧ ¬(old / 2 ^ 30 % 2 = 1 ∧ old / 2 ^ 16 % 2 ^ 14 ≠ 0) then (old + 1, true) else (old, false)
  | .rrel => if 0 < old % 65536 then (old - 1, true) else (old, false)
  | .wacq =>
    let wc := old / 2 ^ 16 % 2 ^ 14
    if old / 2 ^ 31 = 0 ∧ old % 65536 = 0 then
      ((if v % 2 = 1 ∧ 0 < wc then old - 2 ^ 16 else old) + 2 ^ 31, true)
    else (if v % 2 = 0 ∧ wc < 0x3FFF then old + 2 ^ 16 else old, false)
  | .wrel => if old / 2 ^ 31 = 1 then (old - 2 ^ 31, true) else (old, false)

/-! Routes to other packages (R378, R381, R383, R384). -/

/-- A port of the package, down until it trains. -/
def Port.down : Port :=
  { up := false, train := false, en := true, peer := 0, peerValid := false, replays := 0, retrains := 0, failures := 0, queue := [], buffer := [], credits := [] }
/-- A port of the package. -/
def State.port (s : State) (n : Nat) : Port := (aget s.pkg.ports n).getD Port.down
/-- The port that carries a flow to a package: the first marked up in its route entry; none where nothing sent arrives (R378, R383,
R384). -/
def State.routePort (s : State) (pkg : Nat) : Option Nat :=
  let r := (aget s.pkg.routes pkg).getD 0
  if s.pkg.cut.contains pkg then none
  else ((List.range 4).filter (fun k => bit r (8 * k + 5) && decide (bits r (8 * k + 4) (8 * k) < 18)
    && (s.port (bits r (8 * k + 4) (8 * k))).up)).head?.map (fun k => bits r (8 * k + 4) (8 * k))
/-- A peer address with no working route to its package (R378, R381). -/
def State.unreachable (s : State) (pa : Nat) : Bool := decide (aperture pa = 1) && (s.routePort (peerPkg pa)).isNone

/-- The port that carries what is sent to a peer address retrains, so that an access there waits (R381). -/
def State.trains (s : State) (pa : Nat) : Bool :=
  decide (aperture pa = 1) && (match s.routePort (peerPkg pa) with | some q => (s.port q).train | none => false)

/-- The package of a peer address refuses what is sent to its page (R375). -/
def State.refuses (s : State) (pa : Nat) : Bool := decide (aperture pa = 1) && s.pkg.refusals.contains (pa / 4096)

/-! Errors and ECC units (R328, R329). -/

/-- Logs an uncorrectable event (R329). -/
def logUncorr (s : State) (part pa : Nat) : State :=
  let k := stackOf s part pa
  let e := s.ecc k
  let e1 : Ecc := { e with uncorr := min 0xFFFF (e.uncorr + 1), addr := pa / 32 * 32, valid := true }
  { s with pkg := { s.pkg with eccs := aput s.pkg.eccs k e1 } }

/-- The 32-byte units of `n` bytes at a memory key. -/
def unitsOf (key n : Nat) : List Nat := if n = 0 then [] else (List.range ((key + n - 1) / 32 - key / 32 + 1)).map (fun j => key / 32 + j)

/-- The first of the units of `n` bytes at a memory key that has an uncorrectable error. -/
def State.badUnit (s : State) (key n : Nat) : Option Nat := (unitsOf key n).find? (fun u => s.pkg.badUnits.contains u)

/-- Logs the uncorrectable unit that a read met (R329). -/
def logUnit (s : State) (part unit : Nat) : State := logUncorr s part (homePA part (32 * unit))

/-- Bytes of a range cover a unit whole. -/
def coversUnit (key n u : Nat) : Bool := decide (key ≤ 32 * u) && decide (32 * u + 32 ≤ key + n)

/-- Writes bytes at their home; a unit wholly written gets fresh check bits (R328). The answer names the unit whose old
value a partial write needs and cannot have (R329). -/
def storeHome (s : State) (part pa : Nat) (data : List Byte) : Except Nat State :=
  let key := memKey part pa
  let units := unitsOf key data.length
  match units.find? (fun u => s.pkg.badUnits.contains u && !coversUnit key data.length u) with
  | some u => .error (32 * u)
  | none =>
    let s := (units.filter (fun u => !coversUnit key data.length u)).foldl (fun s u => correctUnits s part (32 * u) 1) s
    .ok (({ s with mem := mwriteBytes s.mem key data }.freshUnits units).touch key data.length)

/-- Applies an operation to a word at its home: the state and the old word with the operation's success (R327, R329). -/
def amoHome (s : State) (part pa n : Nat) (op : AmoOp) (v c : Nat) : Except Nat (State × Nat × Bool) :=
  let key := memKey part pa
  if s.bad key then .error (key / 32 * 32)
  else
    let old := mreadNat s.mem key n
    let (new, ok) := amoApply op (8 * n) old v c
    let s := correctUnits s part key n
    .ok ({ s with mem := mwriteNat s.mem key n new }.touch key n, old, ok)

/-! Notifications and access counters (R332, R333). -/

/-- The first dies of the partitions of a layout, in order, with their dies (R395). -/
def layoutParts : Nat → List (Nat × Nat)
  | 0 => [(0, 4)] | 1 => [(0, 2), (2, 2)] | 2 => [(0, 2), (2, 1), (3, 1)] | _ => [(0, 1), (1, 1), (2, 1), (3, 1)]

/-- The function that holds the `k`-th partition of a layout word; none for none (R415). -/
def layoutFunc (w : W64) (k : Nat) : Option Nat := let f := bits w (8 * k + 15) (8 * k + 8); if f = 0xFF then none else some f

/-- The partitions in force: first die, dies and function (R415). -/
def partitions (s : State) : List (Nat × Nat × Option Nat) :=
  match s.pkg.layout with
  | none => []
  | some w => (layoutParts (bits w 1 0)).zipIdx.map (fun ((p, n), k) => (p, n, layoutFunc w k))

/-- An MSI-X message of the function that holds a partition (R394). -/
def raiseMsi (s : State) (part vector : Nat) : State :=
  match (partitions s).find? (fun x => decide (x.1 = part)) with
  | some (_, _, some f) => { s with pkg := { s.pkg with hostOut := s.pkg.hostOut ++ [.msi f vector] } }
  | _ => s

/-- Appends a notification record, or drops it when the queue is full (R333); one whose own unit is uncorrectable is lost
(notes/assumptions/103.md). -/
def notify (s : State) (part kind stack chan addr : Nat) : State :=
  let p := s.part part
  if (p.nqProd - p.nqCons).toNat = ringSize p.nqLog then s.setPart part { p with ndrop := min 0xFFFF (p.ndrop + 1) }
  else if !ringReachable p p.nqBase then s.logDropped part
  else
    let data := toBytes 8 (kind + (stack - 2 * part) * 4 + chan * 32 + p.nqProd.toNat * 2 ^ 32) ++ toBytes 8 (addr % 2 ^ 52)
    match storeHome s part (p.nqBase + 16 * (p.nqProd.toNat % ringSize p.nqLog)) data with
    | .ok s1 => raiseMsi (s1.setPart part { s1.part part with nqProd := p.nqProd + 1 }) part 1
    | .error key => logUnit s part (key / 32)

/-- The partition that a stack belongs to, with its dies; the whole package while no layout is in force. -/
def stackPart (s : State) (stack : Nat) : Nat × Nat :=
  match (partitions s).find? (fun x => decide (x.1 ≤ stack / 2) && decide (stack / 2 < x.1 + x.2.1)) with
  | some (p, n, _) => (p, n)
  | none => (0, 4)

/-! Channels: remaps and the counting of conflicts (R320 to R324). -/

/-- A channel at reset (R324, R331). -/
def Channel.reset : Channel :=
  { cur := 0, old := 0, active := false, auto := true, tgt := 0, bound := 0, last := 0, changes := 0, requests := 0, conflicts := 0, rows := [], waiting := none, pos := 0,
    passes := 0, missed := 0, elapsed := 0, overdue := false }
/-- A channel of the package. -/
def State.channel (s : State) (k : Nat) : Channel := (aget s.pkg.channels k).getD Channel.reset
/-- A channel replaced. -/
def State.setChannel (s : State) (k : Nat) (c : Channel) : State := { s with pkg := { s.pkg with channels := aput s.pkg.channels k c } }

/-- A remap is asked of the stack's remap engine (R322, R323). -/
def Channel.ask (c : Channel) (version : Nat) : Channel := { c with active := true, bound := 0, waiting := some version }

/-- The hash version under which a row set is placed (R323); a set that is moving is held, and then placed under CUR. -/
def Channel.version (c : Channel) (row : Nat) : Nat := if c.active && c.waiting.isNone && decide (c.bound < row) then c.old else c.cur

/-- A window of 65,536 requests ends: its conflicts are latched, and may start a remap (R322). -/
def Channel.windowEnd (c : Channel) (cthr : Nat) : Channel :=
  let d := { c with last := c.conflicts, requests := 0, conflicts := 0 }
  if c.auto && !c.active && decide (cthr ≠ 0) && decide (cthr ≤ c.conflicts) then d.ask (c.cur % 7 + 1) else d

/-- A request for a row of a bank reaches the channel, after the end of a window that is full; it is a conflict where the bank holds
another row open, which only requests change (R322; notes/assumptions/63.md). -/
def Channel.request (c : Channel) (cthr bank row : Nat) : Channel :=
  let c := if c.requests = 65536 then c.windowEnd cthr else c
  let conflict := match aget c.rows bank with | some r => decide (r ≠ row) | none => false
  { c with requests := c.requests + 1, conflicts := c.conflicts + conflict.toNat, rows := aput c.rows bank row }

/-- The channel of the package that a local address lies in (R318, R320). -/
def channelOf (s : State) (part pa : Nat) : Nat := 64 * part + homeSel (stackLog (s.part part).dies) pa

/-- A request for a local address reaches its channel (R321, R322). -/
def channelRequest (s : State) (part pa : Nat) : State :=
  let k := channelOf s part pa
  let b := stackLog (s.part part).dies
  let row := lineInChannel b pa / 256 % 65536
  let c := s.channel k
  s.setChannel k (c.request s.pkg.cthr (bankOf (c.version row) b pa) row)

/-! Access counters (R332). -/

/-- A region's counter. -/
def State.counter (s : State) (part stack region : Nat) : Nat := (aget s.pkg.counters (part, stack, region)).getD 0

/-- A counter that has reached NTHR returns to 0, and a record of kind 0 is written (R332). -/
def notifyCount (s : State) (stack region : Nat) : State :=
  let part := (stackPart s stack).1
  let n := (s.part part).nthr
  if n ≠ 0 ∧ n ≤ s.counter part stack region then
    notify { s with pkg := { s.pkg with counters := adel s.pkg.counters (part, stack, region) } } part 0 stack 0 (region * 2 ^ 21)
  else s

/-- A request for a line of a region reaches a stack and is counted, after a record that the counter owes; NTHR = 0 stops
counting (R332). -/
def countRequest (s : State) (stack region : Nat) : State :=
  let part := (stackPart s stack).1
  if (s.part part).nthr = 0 then s
  else
    let s := notifyCount s stack region
    { s with pkg := { s.pkg with counters := aput s.pkg.counters (part, stack, region) (min 0xFFFF (s.counter part stack region + 1)) } }

/-- A request of a partition for a line of local HBM reaches its stack: it is counted by its region and by its channel (R159, R322,
R332). -/
def countAccess (s : State) (part pa : Nat) : State :=
  if aperture pa ≠ 0 then s else channelRequest (countRequest s (stackOf s part pa) (pa / 2 ^ 21)) part pa

/-! Domain instances (R301). -/

/-- The key of a crew. -/
def crewKeyOf (launch c : Nat) : Nat := launch * 2 ^ 32 + c

/-- Cores of a partition: the NC of R256. -/
def coresOf (s : State) (part : Nat) : Nat := 40 * (s.part part).dies
/-- The designated core of a crew in partition order (R260). -/
def Launch.coreOf (l : Launch) (nc c : Nat) : Nat := (bits (l.word 5) 15 8 + c / l.k) % nc
/-- CREWS (R256). -/
def Launch.crews (l : Launch) : Nat := bits (l.word 1) 31 0
/-- DOMAIN (R256). -/
def Launch.domain (l : Launch) : Nat := bits (l.word 0) 11 10

/-- The number of a crew's domain instance (R301). -/
def Launch.instOf (l : Launch) (nc c : Nat) : Nat :=
  match l.domain with
  | 0 => c
  | 1 => c / (l.k * nc) * 64 + l.coreOf nc c / 4
  | 2 => c / (l.k * nc) * 4 + l.coreOf nc c / 40
  | _ => c / (l.k * nc)

/-- A launch changed. -/
def State.modLaunch (s : State) (n : Nat) (f : Launch → Launch) : State :=
  match s.launch? n with | some l => { s with launches := aput s.launches n (f l) } | none => s

/-- The instance of a gang's launched ancestor (R301). -/
def gangInst (s : State) (g : Gang) : Nat :=
  match s.launch? g.launch with | some l => l.instOf (coresOf s g.part) g.crew | none => 0

/-- The domain instance of a gang's task has created a detached task (R280). -/
def markCreated (s : State) (g : Gang) : State :=
  s.modLaunch g.launch (fun l => let n := l.instOf (coresOf s g.part) g.crew
    if l.created.contains n then l else { l with created := l.created ++ [n] })

/-- The gang's task is sealed (R120, R128), as the records of its commands say too (R346). -/
def sealTask (s : State) (id : Nat) : State :=
  let s1 := s.modGang id (fun g => { g with sealed := true })
  if s1.cmds.any (fun x => x.2.gang == some id && !x.2.sealed) then
    { s1 with cmds := s1.cmds.map (fun x => if x.2.gang == some id then (x.1, { x.2 with sealed := true }) else x) }
  else s1

/-! Entries at their homes (R303). -/

/-- The commit order of entries (R303): task key, lane, program position. -/
def Entry.before (e f : Entry) : Bool :=
  keyLt e.key f.key || (e.key == f.key && (decide (e.lane < f.lane) || (e.lane == f.lane && keyLt e.pos f.pos)))

/-- The entry acts on an address. -/
def Entry.global (e : Entry) : Bool :=
  match e.kind with | .store _ => true | .amo _ _ _ _ _ => true | .red _ _ _ => true | .hgrad _ => true | _ => false

/-- The entry acts on the one address that it carries. -/
def EntryKind.addressed (k : EntryKind) : Bool :=
  match k with | .store _ => true | .amo _ _ _ _ _ => true | .red _ _ _ => true | _ => false

/-- The virtual and physical address and the bytes of each of an entry's accesses. -/
def Entry.sites (e : Entry) : List (Nat × Nat × Nat) :=
  match e.kind with
  | .store data => [(e.va, e.pa, data.length)]
  | .amo _ size _ _ _ => [(e.va, e.pa, size)]
  | .red _ size _ => [(e.va, e.pa, size)]
  | .hgrad adds => adds.map (fun a => (a.2.1, a.2.2.1, 4))
  | _ => []

/-- An entry is held back until the task's end (R116, R126, R172, R231). -/
def Entry.heldBack (e : Entry) : Bool := match e.kind with | .red _ _ _ => true | .hgrad _ => true | _ => false

/-- A fault of a commit (R329, R346, R378): a record and a cause, with no slot to park. -/
def commitFault (s : State) (id : Nat) (e : Entry) (cls : FaultClass) (detail : Nat) : State :=
  match aget s.gangs id with
  | none => s
  | some g =>
    let words := gangRecord s g e.slotB e.pc cls { FaultInfo.plain with kind := .commit, va := e.va, detail := detail }
    let s1 := postRecord s g.part g.die { owner := .none, aspace := g.aspace, cls := cls, words := words, task := some id }
    queueCause s1 g.part { cls := cls, aspace := g.aspace, words := words, gang := some id }

/-- An entry cannot be performed for want of its unit's old value, or for want of a route (R329, R378). -/
def homeFault (s : State) (id part : Nat) (e : Entry) (key : Nat) : State :=
  commitFault (logUnit s part (key / 32)) id e .eccUncorr (homePA part key / 32 * 32)

/-- The value returned by an operation (R125, R171). -/
def Ret.writes (r : Ret) (size old : Nat) (ok : Bool) : List RegWrite :=
  match r with
  | .none => []
  | .scalar d => [.scalar d (w64 old)]
  | .lock d => [.scalar d (w64 (old + ok.toNat * 2 ^ 32))]
  | .lane d l =>
    (List.range (if size = 8 then 2 else 1)).map (fun j =>
      .vector (d + j) (BitVec.twoPow 32 l) ((List.range 32).map (fun _ => w32 (old / 2 ^ (32 * j)))))

/-- Contributions added to f32 words in order (R231), and whether every one could be. -/
def addAll (id part : Nat) (e : Entry) : List (Nat × Nat × Nat × W32) → State → State × Bool
  | [], s => (s, true)
  | (_, va, pa, v) :: rest, s =>
    let e1 := { e with va := va, pa := pa }
    if s.unreachable pa then (commitFault s id e1 .eccUncorr pa, false)
    else if s.refuses pa then (commitFault s id e1 .xlatPerm 0, false)
    else match amoHome s part pa 4 .faddF32 v.toNat 0 with
      | .ok (s1, _, _) => addAll id part e rest s1
      | .error key => (homeFault s id part e1 key, false)

/-- Performs an entry that acts on memory at its home, and whether it could be (R302, R303, R329, R375, R378). -/
def performGlobal (s : State) (id : Nat) (e : Entry) : State × Bool :=
  match aget s.gangs id with
  | none => (s, true)
  | some g =>
    if e.kind.addressed && s.unreachable e.pa then (commitFault s id e .eccUncorr e.pa, false)
    else if e.kind.addressed && s.refuses e.pa then (commitFault s id e .xlatPerm 0, false)
    else
      let s := if e.ms then e.sites.foldl (fun s z => countAccess s g.part z.2.1) s else s
      match e.kind with
      | .store data => (match storeHome s g.part e.pa data with
        | .ok s1 => (s1, true)
        | .error key => (homeFault s id g.part e key, false))
      | .amo op size value compare ret => (match amoHome s g.part e.pa size op value.toNat compare.toNat with
        | .ok (s1, old, ok) =>
          (sealTask (s1.modGang id (fun g => { g with returns := g.returns ++ ret.writes size old ok })) id, true)
        | .error key => (homeFault s id g.part e key, false))
      | .red op size value => (match amoHome s g.part e.pa size op value.toNat 0 with
        | .ok (s1, _, _) => (s1, true)
        | .error key => (homeFault s id g.part e key, false))
      | .hgrad adds => addAll id g.part e (sortBy (fun (a b : Nat × Nat × Nat × W32) => decide (a.1 < b.1)) adds) s
      | _ => (s, true)

end Sys2Proof.Machine
end

