-- ==== Sys2Proof/Machine/Loads.lean ====
section
/-! DEFINITION. Performing unbuffered accesses: loads with forwarding from the gang's own buffered stores, the L1, and error
reports (R159 to R164, R328, R329), and scratchpad accesses (R168, R169). -/

namespace Sys2Proof.Machine

/-- The gang's buffered stores before a position, in commit order (R162). -/
def storesBefore (g : Gang) (p : Pos) : List Entry :=
  sortBy Entry.before (g.entries.filter (fun e => (match e.kind with | .store _ => true | _ => false) && keyLt e.pos p))

/-- A byte with buffered stores applied over it (R162). -/
def forward (pa : Nat) : List Entry → Byte → Byte
  | [], b => b
  | e :: es, b =>
    forward pa es (match e.kind with
      | .store data => if e.pa ≤ pa ∧ pa < e.pa + data.length then tget 0 data (pa - e.pa) else b
      | _ => b)

/-- A line has no uncorrectable unit, so that it may be filled (R329). -/
def lineGood (s : State) (line : Nat) : Bool := s.pkg.badUnits.all (fun u => decide (u / 4 ≠ line))

/-- The 128 bytes of the line at a memory key. -/
def lineBytes (s : State) (line : Nat) : List Byte := mreadBytes s.mem (128 * line) 128

/-- A core's L1 with a line brought in, if it is not there; beyond 2,048 lines the oldest goes (R2, R161, R165). -/
def fillL1 (s : State) (core line : Nat) : State :=
  let c := s.core core
  match aget c.l1 line with
  | some _ => s
  | none => s.setCore core { c with l1 := ((line, lineBytes s line) :: c.l1).take 2048 }

/-- The bytes of a load's access before forwarding, from the L1 or from the home (R161). -/
def baseBytes (s : State) (core key n : Nat) (fromL1 : Bool) : List Byte :=
  if fromL1 then
    match aget (s.core core).l1 (key / 128) with
    | some line => (List.range n).map (fun i => tget 0 line (key % 128 + i))
    | none => mreadBytes s.mem key n
  else mreadBytes s.mem key n

/-- The registers a load writes. -/
def LoadDest.regs : LoadDest → List Reg
  | .scalar d => [.s d]
  | .vector d n _ => (List.range n).map (fun j => .v (d + j))
  | .store _ => []

/-- The words that a vector load writes for one lane (R160). -/
def laneWords (bytes : List Byte) (signed : Bool) : List W32 :=
  let n := bytes.length
  if n < 4 then [if signed then BitVec.ofInt 32 (sext (8 * n) (ofBytes bytes)) else w32 (ofBytes bytes)]
  else (List.range (n / 4)).map (fun j => w32 (ofBytes ((bytes.drop (4 * j)).take 4)))

/-- Writes one lane's loaded value. -/
def writeLoaded (g : Gang) (slotB : Bool) (lane : Nat) (bytes : List Byte) : LoadDest → Gang
  | .scalar d => g.writeS slotB d (w64 (ofBytes bytes))
  | .vector d _ signed =>
    (laneWords bytes signed).zipIdx.foldl
      (fun g (w, j) => g.writeV (d + j) (BitVec.twoPow 32 lane) ((List.range 32).map (fun _ => w))) g
  | .store _ => g

/-- The lanes that a fault of a load reports: none for a scalar load (R346). -/
def Load.marks (ld : Load) (lane : Nat) : W32 := match ld.dest with | .scalar _ => 0 | _ => BitVec.twoPow 32 lane

/-- An uncorrectable error, a lost route, or a refusal of one access of a load is reported (R329, R375, R378). -/
def loadFault (s : State) (id : Nat) (ld : Load) (a : Access) (cls : FaultClass) (detail : Nat) : State :=
  raiseFault s id ld.slotB ld.pc cls
    { FaultInfo.plain with kind := ld.kind, va := a.va, faulted := ld.marks a.lane, detail := detail } ld.pos false

/-- A scratchpad access is performed at the core: a load's value lands, or a store's bytes are written (R168, R169). -/
def performChip (s : State) (id : Nat) (g : Gang) (ld : Load) (a : Access) : State :=
  let c := s.core g.core
  match ld.dest with
  | .store bytes => s.setCore g.core { c with scratch := mwriteBytes c.scratch a.pa (tget [] bytes a.lane) }
  | _ => s.setGang id (writeLoaded g ld.slotB a.lane (mreadBytes c.scratch a.pa ld.size) ld.dest)

/-- The value of a load's access lands, its bytes at the home or in the core's L1 with the gang's own stores over them (R161,
R162). -/
def landLoad (s : State) (id : Nat) (g : Gang) (ld : Load) (a : Access) (fromL1 : Bool) : State :=
  let base := baseBytes s g.core (memKey g.part a.pa) ld.size fromL1
  let stores := storesBefore g ld.pos
  s.setGang id (writeLoaded g ld.slotB a.lane (base.zipIdx.map (fun (b, i) => forward (a.pa + i) stores b)) ld.dest)

/-- A line that an access would have brought in is not, for an uncorrectable unit of it that the access itself does not need: the event is
logged (R329; notes/assumptions/99.md). -/
def fillFails (s : State) (part line : Nat) : State := match s.badUnit (128 * line) 128 with | some u => logUnit s part u | none => s

/-- Performs one access: from a line that the L1 holds, at the home with the line brought in where it may be, or at the home
alone; an access to an MS or NC page is counted where it reaches its stack, and one that cannot be served is reported (R161, R329, R332, R375,
R378; notes/assumptions/99.md). -/
def performAccess (s : State) (id : Nat) (ld : Load) (fromL1 : Bool) (a : Access) : State :=
  match aget s.gangs id with
  | none => s
  | some g =>
    if ld.onChip then performChip s id g ld a
    else
      let key := memKey g.part a.pa
      let cached := fromL1 && !ld.atHome && !a.uncached
      if cached && (aget (s.core g.core).l1 (key / 128)).isSome then landLoad s id g ld a true
      else if s.unreachable a.pa then loadFault s id ld a .eccUncorr a.pa
      else if s.refuses a.pa then loadFault s id ld a .xlatPerm 0
      else
        let s1 := if a.ms then countAccess s g.part a.pa else s
        if s1.bad key then loadFault (logUncorr s1 g.part a.pa) id ld a .eccUncorr (a.pa / 32 * 32)
        else
          let line := cached && lineGood s1 (key / 128)
          let s2 := if line then fillL1 (correctUnits s1 g.part (key / 128 * 128) 128) g.core (key / 128)
            else correctUnits (if cached then fillFails s1 g.part (key / 128) else s1) g.part key ld.size
          landLoad (s2.linkFor a.pa) id g ld a line

/-- Performs accesses of a load in order. -/
def performAccesses (s : State) (id : Nat) (ld : Load) (fromL1 : Bool) : List Access → State
  | [] => s
  | a :: rest => performAccesses (performAccess s id ld fromL1 a) id ld fromL1 rest

end Sys2Proof.Machine
end

