-- ==== Sys2Proof/Machine/Order.lean ====
section
/-! DEFINITION. In what order accesses may be performed: a gang's unbuffered accesses (R169, R174, R299, R300, R314), the
entries of a commit (R174, R303, R312), and what a party that reads or writes a byte may not find undone (R303, R309, R314). -/

namespace Sys2Proof.Machine

/-- Two ranges of bytes have a byte in common. -/
def meets (base size lo n : Nat) : Bool := decide (base < lo + n) && decide (lo < base + size)

/-! Fences (R174). -/

/-- The scope that a fence must have to order accesses of an address at all (R312). -/
def leastScope (pa : Nat) : Nat := match aperture pa with | 1 => 4 | 2 => 5 | _ => 0

/-- No party of the model lies outside a scope that orders accesses of an address: `.sys`, and `.pod` for memory of another
package. -/
def scopeFull (scope pa : Nat) : Bool := decide (5 ≤ scope) || (decide (4 ≤ scope) && decide (aperture pa = 1))

/-! The unbuffered accesses of a gang (R299). -/

/-- The access is performed at the home or in the scratchpad, so that R299 orders it against others of its bytes. -/
def Load.exact (l : Load) (a : Access) : Bool := l.atHome || l.onChip || a.uncached

/-- A scratchpad store. -/
def Load.isStore (l : Load) : Bool := match l.dest with | .store _ => true | _ => false

/-- A fence of a kind orders an access before it against a later one: `ar` all, `acq` a load against all, `rel` all against a
store (R174). -/
def Load.fenced (l later : Load) (kind : Nat) : Bool :=
  match kind with | 0 => true | 1 => !l.isStore | _ => later.isStore

/-- The widest scope in which the gang's fences order access `a` of `l` before access `b` of a later one (R174, R312). -/
def fenceScope (g : Gang) (l later : Load) (a b : Access) : Option Nat :=
  let chip (x : Load) (y : Access) : Nat := if x.onChip then 0 else leastScope y.pa
  let scopes := (g.order.filter (fun f => keyLt l.pos f.1 && keyLt f.1 later.pos && l.fenced later f.2.1 && later.exact b &&
    decide (max (chip l a) (chip later b) ≤ f.2.2))).map (fun f => f.2.2)
  scopes.foldl (fun m k => some (max k (m.getD 0))) none

/-- Access `a` of `l` must be performed before access `b` of a later one: they share a byte, and neither may take it from the
L1, or a fence orders them for every party (R299, R314). -/
def mustFirst (g : Gang) (l later : Load) (a b : Access) : Bool :=
  (l.exact a && later.exact b && (l.onChip == later.onChip) && meets a.pa l.size b.pa later.size) ||
    (match fenceScope g l later a b with
     | some k => l.onChip || scopeFull k a.pa
     | none => false)

/-- An earlier access of the gang must be performed before `later` (R299). -/
def Gang.blocks (g : Gang) (later l : Load) : Bool :=
  keyLt l.pos later.pos && l.accesses.any (fun a => later.accesses.any (fun b => mustFirst g l later a b))

/-- `later` is performed: an earlier access that a fence orders before it for some parties alone is marked with their scope
(R314). -/
def Gang.passLoads (g : Gang) (later : Load) : Gang :=
  if g.order.isEmpty then g
  else { g with loads := g.loads.map (fun l =>
    if keyLt l.pos later.pos then
      l.accesses.foldl (fun l a => later.accesses.foldl (fun l b =>
        match fenceScope g l later a b with
        | some k => { l with passed := some (max k (l.passed.getD 0)) }
        | none => l) l) l
    else l) }

/-! Who reads or writes a byte at its home. -/

/-- A party (R174, R297, R303): a gang on a core, with the launch and domain instance of its task; a command at an engine of a core or of a
die, or a die's front end; another package, or the host. -/
inductive Party where
  | core (n launch inst : Nat)
  | unit (die : Nat) (core : Option Nat)
  | package
  | host
  deriving DecidableEq, Repr

/-- The party lies within a scope of a core (R174). -/
def Party.within (p : Party) (core scope : Nat) : Bool :=
  match p with
  | .core n _ _ => match scope with
    | 0 => decide (n = core) | 1 => decide (n / 4 = core / 4) | 2 => decide (n / 40 = core / 40) | _ => true
  | .unit die c => match scope with
    | 0 => c == some core | 1 => c.map (· / 4) == some (core / 4) | 2 => decide (die = core / 40) | _ => true
  | .package => decide (4 ≤ scope)
  | .host => decide (5 ≤ scope)

/-- A gang as a party. -/
def State.partyOf (s : State) (g : Gang) : Party := .core g.core g.launch (gangInst s g)

/-- The entry acts on one of the `n` bytes at a memory key. -/
def Entry.meets (part : Nat) (e : Entry) (key n : Nat) : Bool := e.sites.any (fun x => Machine.meets (memKey part x.2.1) x.2.2 key n)

/-- The partition of a gang. -/
def partOf (s : State) (id : Nat) : Nat := match aget s.gangs id with | some g => g.part | none => 0

/-- Two entries of a commit act on a common byte. -/
def sharesByte (s : State) (x y : Nat × Entry) : Bool :=
  y.2.sites.any (fun z => x.2.meets (partOf s x.1) (memKey (partOf s y.1) z.2.1) z.2.2)

/-- The scope that an entry's addresses need (R312). -/
def Entry.leastScope (e : Entry) : Nat := e.sites.foldl (fun m x => max m (Machine.leastScope x.2.1)) 0

/-- A fence stands between entry `x` and entry `y` of its gang: `x` before it in program order, `y` after it or held back to the end; a
held-back entry comes before none, and an `acq` orders returning atomics alone (R174). -/
def fenceOrders (x y : Nat × Entry) (f : Nat × Pos × Nat × Nat) : Bool :=
  decide (x.1 = f.1) && decide (y.1 = f.1) && !x.2.heldBack && keyLt x.2.pos f.2.1 && (y.2.heldBack || keyLt f.2.1 y.2.pos) &&
    (decide (f.2.2.1 ≠ 1) || (match x.2.kind with | .amo _ _ _ _ _ => true | _ => false))

/-- A fence orders entry `x` before entry `y` for the parties within its scope, which is wide enough for their addresses (R174, R312). -/
def fenceBetween (x y : Nat × Entry) (f : Nat × Pos × Nat × Nat) : Bool :=
  fenceOrders x y f && decide (max x.2.leastScope y.2.leastScope ≤ f.2.2.2)

/-- The entry queues tasks, whose own commits come after this one (R305). -/
def Entry.creates (e : Entry) : Bool := match e.kind with | .spawn _ => true | .items _ => true | _ => false

/-- Entry `x`, not yet performed, must take effect before or together with `y`: it comes first on a common byte; a fence orders it
before `y` for every party, or before a command or a launch, which is no memory access; `y` is no memory access and `x` comes
first; or `y` queues tasks (R174, R211, R303, R305, R311, R312). -/
def Ack.mustFirst (s : State) (a : Ack) (x y : Nat × Entry) : Bool :=
  (x.2.before y.2 && (sharesByte s x y || !y.2.global)) || (x.2.global && y.2.creates) ||
    a.fences.any (fun f => if y.2.global then
        fenceBetween x y f && (decide (5 ≤ f.2.2.2) || (decide (f.2.2.2 = 4) && decide (y.2.leastScope = 4)))
      else fenceOrders x y f)

/-- Entries closed under what must take effect before them: `n` rounds. -/
def Ack.closure (s : State) (a : Ack) : (n : Nat) → List (Nat × Entry) → List (Nat × Entry)
  | 0, l => l
  | n + 1, l => a.closure s n (a.pending.filter (fun x => l.contains x || l.any (a.mustFirst s x)))

/-- The core of a gang; 0 without it. -/
def coreOfGang (s : State) (id : Nat) : Nat := match aget s.gangs id with | some g => g.core | none => 0

/-- Party `p` may not find entry `x`, not yet performed, undone once it has met the effect of `y`: `x` comes before it in the commit order
of the party's own instance, or a fence of a scope that holds the party orders it before `y` (R303, R314). -/
def Ack.orders (s : State) (a : Ack) (p : Party) (x y : Nat × Entry) : Bool :=
  ((match p with | .core _ l i => decide (l = a.launch) && decide (i = a.inst) | _ => false) && x.2.before y.2) ||
    a.fences.any (fun f => fenceBetween x y f && p.within (coreOfGang s y.1) f.2.2.2)

/-- The entries on bytes at a memory key that have been overtaken for a party: they are not yet performed, and one that comes after them
for the party has been (R303, R314). -/
def Ack.overtaken (s : State) (a : Ack) (p : Party) (key n : Nat) : List (Nat × Entry) :=
  a.pending.filter (fun x => x.2.global && x.2.meets (partOf s x.1) key n && a.early.any (a.orders s p x))

/-- A commit changed. -/
def State.setAck (s : State) (k : Nat) (a : Ack) : State := { s with acks := s.acks.set k a }
/-- Commit `k` changed. -/
def State.modAck (s : State) (k : Nat) (f : Ack → Ack) : State := match s.acks[k]? with | some a => s.setAck k (f a) | none => s

/-- Commit `k` pauses: its partition's squall line is asserted, its context is torn down, or a fatal fault of its context is about to
assert the line (R355, R360). -/
def commitHalts (s : State) (a : Ack) : Bool :=
  match s.launch? a.launch with
  | some l => (s.part l.part).asserted || (s.ctx (spaceKey l.part l.aspace)).torn || (s.part l.part).heldFaults.any (fun c => decide (c.aspace = l.aspace))
  | none => false

/-- The writes of an entry to another package, with the bytes they replace (R375). -/
def peerWrites (s : State) (x : Nat × Entry) : List PeerWrite :=
  if x.2.global then
    (x.2.sites.filter (fun z => decide (aperture z.2.1 = 1) && !s.unreachable z.2.1)).map (fun (va, pa, n) =>
      { gang := x.1, entry := { x.2 with va := va, pa := pa }, old := mreadBytes s.mem pa n })
  else []

/-- Entry `x` of commit `k` is taken in hand: it is no longer among those left. -/
def Ack.take (a : Ack) (x : Nat × Entry) : Ack := { a with pending := a.pending.erase x }
/-- An entry in hand could not be performed, and is left, in its place in commit order. -/
def Ack.putBack (a : Ack) (x : Nat × Entry) : Ack :=
  { a with pending := sortBy (fun (y z : Nat × Entry) => y.2.before z.2) (a.pending ++ [x]) }
/-- The entries left that some party finds undone although `x`, which comes after them for it, is performed (R303, R314). -/
def Ack.passedOver (a : Ack) (x : Nat × Entry) : List (Nat × Entry) :=
  a.pending.filter (fun z => z.2.global && (z.2.before x.2 || a.fences.any (fenceBetween z x)))
/-- An entry in hand has been performed, with the writes that it made to other packages. -/
def Ack.did (a : Ack) (x : Nat × Entry) (ws : List PeerWrite) : Ack :=
  { a with early := if (a.passedOver x).isEmpty then a.early else a.early ++ [x], writes := a.writes ++ ws }

/-- Some step or START waits, and may watch a word in memory, or has still to be tested (R182, R262). -/
def State.waits (s : State) : Bool :=
  s.gangs.any (fun x => match x.2.phase with | .waiting _ => true | _ => false) || s.launches.any (fun x => !x.2.started) || !s.past.isEmpty

/-- Memory as it now is, kept for the tests of what waits: a write at a home is tested (R182). -/
def State.keepPast (s : State) : State := if s.waits then { s with past := s.past ++ [s.mem] } else s

/-- An entry of a commit acts on its bytes, or comes to stand as if it had for some parties: `touch` says what such an access by its gang makes
happen first. -/
def touchEntry (touch : State → Party → Nat → Nat → State) (s : State) (x : Nat × Entry) : State :=
  match aget s.gangs x.1 with
  | none => s
  | some g => x.2.sites.foldl (fun s z => touch s (s.partyOf g) (memKey g.part z.2.1) z.2.2) s

/-- Entry `x` of commit `k` is taken in hand; what must happen first does, at its bytes and at those of the entries that it passes over. -/
def takeEntry (touch : State → Party → Nat → Nat → State) (s : State) (k : Nat) (x : Nat × Entry) : State :=
  let s1 := s.modAck k (·.take x)
  let behind := match s1.acks[k]? with | some a => a.passedOver x | none => []
  touchEntry touch (behind.foldl (touchEntry touch) s1) x

/-- Performs entries of commit `k` in commit order, to the first that could not be. -/
def forceEntries (touch : State → Party → Nat → Nat → State) (s : State) (k : Nat) : List (Nat × Entry) → State
  | [] => s
  | x :: rest =>
    let s1 := takeEntry touch s k x
    match performGlobal s1 x.1 x.2 with
    | (s2, true) => forceEntries touch (s2.modAck k (·.did x (peerWrites s1 x))).keepPast k rest
    | (s2, false) => s2.modAck k (·.putBack x)

/-- Commit `k` performs the entries on bytes that a party is about to read or write, and that it may not find undone, with what must come
before them (R303, R314). -/
def forceEarly (touch : State → Party → Nat → Nat → State) (s : State) (p : Party) (key n k : Nat) : State :=
  match s.acks[k]? with
  | none => s
  | some a =>
    let due := a.overtaken s p key n
    if due.isEmpty || commitHalts s a then s
    else
      let list := a.closure s a.pending.length due
      forceEntries touch s k (a.pending.filter (fun x => x.2.global && list.contains x))

/-- Loads that a later access has passed, and that a write by a party would show, are performed first, each as an access that its gang
makes (R174, R314). -/
def forcePassed (touch : State → Party → Nat → Nat → State) (s : State) (p : Party) (key n : Nat) : State :=
  s.gangs.foldl (fun s (id, g) =>
    let due := g.loads.filter (fun l => (match l.passed with | some k => p.within g.core k | none => false) &&
      l.accesses.any (fun a => meets (memKey g.part a.pa) l.size key n))
    if due.isEmpty then s
    else
      let s1 := s.modGang id (fun g => { g with loads := g.loads.filter (fun l => !due.contains l) })
      due.foldl (fun s l =>
        performAccesses (l.accesses.foldl (fun s a => touch s (s.partyOf g) (memKey g.part a.pa) l.size) s) id l false l.accesses) s1) s

/-- The reply to another package. -/
def State.reply (s : State) (r : PeerReply) : State :=
  { s with pkg := { s.pkg with replies := s.pkg.replies ++ [r] } }.linkSend (match r with | .done k _ _ => k | .refused k _ => k | .failed k _ => k) 0 0

/-- Bytes that a request touches. -/
def requestSize (r : PeerRequest) : Nat := match r.access with | .read n => n | .write d => d.length | .atomic _ n _ _ => n

/-- The old value that goes back, with a lock operation's success in its high half (R125, R171). -/
def oldBytes (op : AmoOp) (size old : Nat) (ok : Bool) : List Byte :=
  match op with
  | .racq | .rrel | .wacq | .wrel => toBytes 8 (old + ok.toNat * 2 ^ 32)
  | _ => toBytes size old

/-- The lines of `n` bytes at a memory key, by memory key / 128. -/
def linesOf (key n : Nat) : List Nat := dedup ((unitsOf key n).map (fun u => u / 4))

/-- SCENE lines that are to be written by commits that have begun and by operations of other packages that have arrived (R389). -/
def sceneClaims (s : State) : List Nat :=
  s.acks.flatMap (·.scene) ++ (s.pkg.homeOps.filter (·.scene)).flatMap (fun r => linesOf (memKey r.part r.offset) (requestSize r))

/-- A writer of SCENE lines is done: no copy of them is left, and the invalidation ends of those that no other writer is to write
(R389). -/
def sceneDone (s : State) (lines : List Nat) : State :=
  if lines.isEmpty then s
  else { s with pkg := { s.pkg with
    sceneWrites := s.pkg.sceneWrites.filter (fun w => !lines.contains w.line || (sceneClaims s).contains w.line)
    sceneCopies := s.pkg.sceneCopies.filter (fun k => !lines.contains k) } }

/-- An operation of another package is applied at its home, and answered (R327, R377, R389). -/
def applyHomeOp (s : State) (r : PeerRequest) : State :=
  let s := if r.scene then sceneDone s (linesOf (memKey r.part r.offset) (requestSize r)) else s
  match r.access with
  | .atomic op size value compare =>
    (match amoHome s r.part r.offset size op value.toNat compare.toNat with
     | .ok (s1, old, ok) => s1.reply (.done r.package r.tag (oldBytes op size old ok))
     | .error key => (logUnit s r.part (key / 32)).reply (.failed r.package r.tag))
  | _ => s

/-- An operation of another package acts on one of the `n` bytes at a memory key. -/
def requestMeets (r : PeerRequest) (key n : Nat) : Bool := Machine.meets (memKey r.part r.offset) (requestSize r) key n

/-- Operations of other packages that have arrived at the home of bytes are applied before what arrives after them (R309, R312,
R383). -/
def forceHomeOps (touch : State → Party → Nat → Nat → State) (s : State) (key n : Nat) : State :=
  (s.pkg.homeOps.filter (requestMeets · key n)).foldl
    (fun s r => applyHomeOp (touch s .package (memKey r.part r.offset) (requestSize r)) r)
    { s with pkg := { s.pkg with homeOps := s.pkg.homeOps.filter (fun r => !requestMeets r key n) } }

/-- Nothing stands undone that a party could come to meet: no entry has been performed early, no load passed by a later
access, and no operation of another package waits at its home. -/
def State.calm (s : State) : Bool :=
  s.pkg.homeOps.isEmpty && s.acks.all (fun a => a.early.isEmpty) && s.gangs.all (fun x => x.2.loads.all (fun l => l.passed.isNone))

/-- A party reads or writes the `n` bytes at a memory key: first comes what it may not find undone there. `skip` is the party's own commit;
what comes first is itself the access of a party, so that `fuel` bounds how far this reaches. -/
def observeN : (fuel : Nat) → State → Party → (skip : Option Nat) → (key n : Nat) → (write : Bool) → State
  | 0, s, _, _, _, _, _ => s
  | fuel + 1, s, p, skip, key, n, write =>
    let s1 := forceHomeOps (fun s p key n => observeN fuel s p none key n true) s key n
    let s2 := (List.range s1.acks.length).foldl (fun s k =>
      if skip == some k then s else forceEarly (fun s p key n => observeN fuel s p (some k) key n true) s p key n k) s1
    if write then forcePassed (fun s p key n => observeN fuel s p none key n false) s2 p key n else s2

/-- A party reads or writes bytes: first comes what it may not find undone (R303, R309, R314). -/
def observe (s : State) (p : Party) (skip : Option Nat) (key n : Nat) (write : Bool) : State :=
  if s.calm then s else observeN (2 * s.acks.length + 2) s p skip key n write

/-! The interlock (R63). -/

/-- Performs a load, or some of its accesses: what its gang may not find undone comes first, and earlier loads that it passes are marked. -/
def performLoad (s : State) (id : Nat) (ld : Load) (fromL1 : Bool) : State :=
  match aget s.gangs id with
  | none => s
  | some g =>
    let s1 := if ld.onChip then s
      else ld.accesses.foldl (fun s a => observe s (s.partyOf g) none (memKey g.part a.pa) ld.size false) s
    performAccesses (s1.modGang id (fun g => g.passLoads ld)) id ld fromL1 ld.accesses

/-- Performs loads whole, in order. -/
def performLoads (s : State) (id : Nat) : List Load → State
  | [] => s
  | ld :: rest => performLoads (performLoad s id ld true) id rest

/-- The outstanding accesses that `p` selects, with the earlier ones that must be performed before them, in program order
(R299). -/
def Gang.due (g : Gang) (p : Load → Bool) : List Load :=
  (sortBy (fun (a b : Load) => keyLt a.pos b.pos) g.loads).foldr (fun l acc => if p l || acc.any (fun x => g.blocks x l) then l :: acc else acc) []

/-- An access of an outstanding instruction waits for a port that retrains (R381). -/
def Load.awaitsPort (s : State) (l : Load) : Bool := !l.onChip && l.accesses.any (fun a => s.trains a.pa)

/-- The interlock: the outstanding accesses that `p` selects are performed before the unit goes on, unless one of them waits for a port (R381). -/
def settleIf (p : Load → Bool) (s : State) (id : Nat) : State :=
  match aget s.gangs id with
  | none => s
  | some g =>
    match g.loads with
    | [] => s
    | ls =>
      let due := g.due p
      if due.any (·.awaitsPort s) then s else performLoads (s.setGang id { g with loads := ls.filter (fun l => !due.contains l) }) id due

/-- The access is to one of the scratchpad ranges. -/
def Load.onRanges (l : Load) (rs : List (Nat × Nat)) : Bool :=
  l.onChip && l.accesses.any (fun a => rs.any (fun r => meets a.pa l.size r.1 r.2))

/-- The outstanding accesses that a unit of a slot needs performed: those to registers it reads or writes (R63), a load of
the slot's mask where it uses the mask (R25), those to scratchpad bytes it acts on (R169, R175, R200), and those that must come
before an access it performs as it issues (R299). -/
def Gang.needs (g : Gang) (regs : List Reg) (mask : Option Bool) (chip : List (Nat × Nat)) (atOnce : Option Load) (l : Load) : Bool :=
  l.dest.regs.any (fun r => regs.contains r) || (mask == some l.slotB && l.dest.regs.contains (.s 62)) ||
    l.onRanges chip || (match atOnce with | some x => g.blocks x l | none => false)

/-- The outstanding accesses that a unit needs are performed. -/
def settle (s : State) (id : Nat) (regs : List Reg) (mask : Option Bool) (chip : List (Nat × Nat)) (atOnce : Option Load) : State :=
  match aget s.gangs id with
  | none => s
  | some g => settleIf (g.needs regs mask chip atOnce) s id

/-- Performs every outstanding access of the gang. -/
def settleAll (s : State) (id : Nat) : State := settleIf (fun _ => true) s id

end Sys2Proof.Machine
end

