-- ==== Sys2Proof/Machine/Issue.lean ====
section
/-! DEFINITION. How a group issues: interlocks, the faults made before any effect in their order, results and
retirement (R22, R25, R27, R50, R61 to R66). Every meaning of an encoded instruction goes through `issue`. -/

namespace Sys2Proof.Machine

/-- The outcome of a step of this machine. -/
abbrev Outcome := Host.Outcome State Fault Refusal

/-- The issuing group: whose it is, where it stands and what it counts. -/
structure Issue where
  id : Nat
  slotB : Bool
  /-- The address of the group's first word. -/
  pc : W64
  /-- The address of the instruction word, from which branch offsets count (R49). -/
  wordPc : W64
  /-- The address of the next group. -/
  next : W64
  /-- The issue distance of the instruction word's unit, and of the next unit (R62). -/
  dist : Nat
  nextDist : Nat
  pos : Pos
  /-- The lanes of a replay (R158). -/
  replay : Option W32
  /-- The cycle of its core at which the instruction word's unit issues (R6, R62). -/
  cycle : Nat
  /-- What the unit takes of its bench's cycle (R272). -/
  use : UnitUse

/-- Hint words of a group that come before its instruction word (R50): each is an issue unit (R62). -/
def hintWords (g : Grp) : Nat := g.limms.length + g.ext.isSome.toNat + g.modifier.isSome.toNat
/-- The bytes of a group before its instruction word. -/
def bytesBefore (g : Grp) : Nat := 4 * (hintWords g + g.pfx.isSome.toNat)
/-- The stall of a group's instruction (R61, R62). -/
def stallsOf (g : Grp) : Nat := g.stall.toNat + (match g.ext with | some e => e.toNat | none => 0)

/-- What a unit names and needs, in the order of R66: grounds for `ILLEGAL_OP` that its words give and for `ILLEGAL_UNIT`, the
registers it reads or writes, the registers its own replay may find pending (R22), grounds for `ILLEGAL_OP` that values and
states give, and grounds for `ALIGN`, `XLAT_PERM` and `TILE_OWNED`. -/
structure Uses where
  illegal : Bool
  noUnit : Bool
  /-- Grounds for `ILLEGAL_OP` that R66 does not rank: a register's value, a record, the state of the slot, the task or a buffer
  (notes/assumptions/83.md). -/
  illegalState : Bool
  regs : List Reg
  own : List Reg
  /-- Registers of tiles that the unit names without reading or writing them: the checks of `regs` but the stall count's. -/
  named : List Reg
  misaligned : Bool
  perm : Bool
  owned : Bool
  /-- Grounds for `DEP_INVALID`, tested after those of R66 (R183). -/
  depInvalid : Bool
  /-- The unit uses its slot's mask as its activity mask (R25). -/
  active : Bool
  /-- Ranges of the core's scratchpad whose outstanding accesses by the gang come first (R169, R175, R200). -/
  chip : List (Nat × Nat)
  /-- A scratchpad access that the unit performs as it issues, after those that must come before it (R299). -/
  atOnce : Option Load
  /-- The access that `misaligned`, `perm` or `owned` is about, and its address (R346). -/
  site : AccessKind × Nat

/-- A unit that only names registers. -/
def Uses.of (regs : List Reg) : Uses :=
  { illegal := false, noUnit := false, illegalState := false, regs := regs, own := [], named := [], misaligned := false, perm := false,
    owned := false, depInvalid := false, active := false, chip := [], atOnce := none, site := (.none, 0) }

/-- A register beyond the gang's count (R18). -/
def Gang.beyond (g : Gang) : Reg → Bool
  | .v n => decide (g.vcount ≤ n)
  | _ => false

/-- A unit at a distance comes too early for a fixed-latency result (R63, R64). -/
def Slot.short (sl : Slot) (dist : Nat) (r : Reg) : Bool :=
  sl.haz.any (fun (c, due) => c == r.code && decide (dist < due))

/-- The first fault that a unit raises before its effect (R66); what R66 does not rank, `ILLEGAL_OP` from values and states and
`DEP_INVALID`, stands as notes/assumptions/83.md says. -/
def firstFault (scheck : Bool) (g : Gang) (i : Issue) (u : Uses) : Option FaultClass :=
  if u.illegal || u.regs.any g.beyond || u.named.any g.beyond then some .illegalOp
  else if u.noUnit then some .illegalUnit
  else if scheck && u.regs.any ((g.slot i.slotB).short i.dist) then some .stallShort
  else if u.regs.any (fun r => g.pending r && !((g.slot i.slotB).pended && u.own.contains r)) || u.named.any g.pending then some .pendingRead
  else if u.illegalState then some .illegalOp
  else if u.misaligned then some .align
  else if u.perm then some .xlatPerm
  else if u.owned || u.regs.any g.owned || u.named.any g.owned then some .tileOwned
  else if u.depInvalid then some .depInvalid
  else none

/-- What a fault made before any effect reports (R346). -/
def faultSite (cls : FaultClass) (u : Uses) : FaultInfo :=
  match cls with
  | .align => { FaultInfo.plain with kind := u.site.1, va := u.site.2 }
  | .xlatPerm => { FaultInfo.plain with kind := u.site.1, va := u.site.2 }
  | .tileOwned => { FaultInfo.plain with kind := u.site.1, va := u.site.2 }
  | _ => FaultInfo.plain

/-- The bench of a gang slot within its core (R270, R271). -/
def benchOf (slotNo : Nat) : Nat := slotNo % 4

/-- The pipe of a major opcode: 1 scalar, 2 vector, 3 special function, 4 memory, 5 matrix and engine, 0 for none (R272). -/
def pipeOf (major : Nat) : Nat :=
  if major = 1 ∨ major = 2 ∨ (4 ≤ major ∧ major ≤ 7) then 1
  else if (8 ≤ major ∧ major ≤ 0xE) ∨ major = 0x10 ∨ (0x12 ≤ major ∧ major ≤ 0x15) then 2
  else if major = 0x11 then 3
  else if major = 3 ∨ (0x18 ≤ major ∧ major ≤ 0x1F) ∨ major = 0x27 ∨ major = 0x28 then 4
  else if (0x20 ≤ major ∧ major ≤ 0x22) ∨ (0x24 ≤ major ∧ major ≤ 0x26) ∨ major = 0x29 then 5
  else 0

/-- What a unit of a gang uses that names these registers (R272). -/
def unitUse (gang major : Nat) (regs : List Reg) : UnitUse :=
  { gang := gang, pipe := pipeOf major
    banks := regs.filterMap (fun r => match r with | .v n => some (n % 4) | _ => none)
    scalars := regs.any (fun r => match r with | .s _ => true | _ => false) }

/-- Starts the issue of a group, while its core's cycle count stands at `now`: a replay keeps the position of its first issue and
sets `REPLAY` (R27, R349). -/
def startIssue (c : Cur) (g : Gang) (grp : Grp) (now : Nat) : Gang × Issue :=
  let sl := g.slot c.slotB
  let off : W64 := w64 (bytesBefore grp)
  let dist := sl.dist + hintWords grp
  let (pos, replay) : Pos × Option W32 := match sl.parked with
    | some p => (p.pos, if p.byLane then some p.faulted else none)
    | none => (sl.path ++ [g.seq], none)
  let g1 := g.setSlot c.slotB { sl with parked := none, waits := false, aged := false, passed := false }
  let g2 : Gang := match sl.parked with
    | some p => if p.byLane && p.record.isSome then { g1 with replay := p.faulted } else g1
    | none => { g1 with seq := g1.seq + 1 }
  (g2, { id := c.gang, slotB := c.slotB, pc := c.pc, wordPc := c.pc + off, next := c.pc + off + 4, dist := dist,
         nextDist := dist + 1 + stallsOf grp, pos := pos, replay := replay, cycle := max now sl.ready + hintWords grp, use := unitUse c.gang c.major [] })

/-- The stall-count check mode of a gang's context (R64). -/
def State.scheck (s : State) (g : Gang) : Bool := (s.ctx (spaceKey g.part g.aspace)).scheck

/-- The outstanding accesses that a unit needs are performed, unless its slot has parked (R25, R63). -/
def prepare (uses : State → Gang → Issue → Uses) (i : Issue) (s : State) : State :=
  match aget s.gangs i.id with
  | none => s
  | some g =>
    if (g.slot i.slotB).parked.isSome then s
    else
      let u := uses s g i
      settle s i.id (u.regs ++ u.named) (if u.active then some i.slotB else none) u.chip u.atOnce

/-- A unit may not issue in one cycle of its bench with another (R272). -/
def UnitUse.conflicts (x y : UnitUse) : Bool :=
  (x.pipe != 0 && x.pipe == y.pipe) || x.banks.any y.banks.contains || (x.gang == y.gang && x.scalars && y.scalars)

/-- A bench's units of a cycle leave no room in it for a unit: there are two, or one that the unit conflicts with (R272). -/
def BenchUse.shuts (b : BenchUse) (cycle : Nat) (x : UnitUse) : Bool :=
  b.cycle == cycle && (decide (2 ≤ b.units.length) || b.units.any x.conflicts)

/-- The first cycle from `cycle` on in which a bench of a core has room for a unit (R272). -/
def Core.roomFrom (c : Core) (bench cycle : Nat) (x : UnitUse) : Nat :=
  match aget c.benches bench with | some b => if b.shuts cycle x then cycle + 1 else cycle | none => cycle

/-- The cycle of a group's instruction word: its first word finds room on its bench from the earliest cycle it may issue in, and each word
after it takes a cycle; a unit that uses its slot's mask waits for it (R25, R62, R272). -/
def Issue.onBench (i : Issue) (core : Core) (bench hints : Nat) (maskReady : Nat) (x : UnitUse) : Issue :=
  let first := if hints = 0 then x else { x with pipe := 0, banks := [], scalars := false }
  let c := core.roomFrom bench (i.cycle - hints) first + hints
  { i with cycle := max c maskReady }

/-- The unit waits at issue: nothing but its landings has happened, its slot is not ready in this cycle, and it issues again later (R63,
R175, R198, R224, R265). -/
def stall (s : State) (i : Issue) (g : Gang) : State := s.setGang i.id (g.setSlot i.slotB ((g.slot i.slotB).readyFrom (i.cycle + 1)))

/-- Issues a group (R62 to R66, R272): the cycle is one in which its bench has room; its outstanding loads and the results that are there by
then land, in two rounds since `vxsel` names registers by value (R151); where one still waits for a port, the unit waits (R381); then the first fault is raised or the effect happens. Without an
issuing gang the machine stops. -/
def issue (grp : Grp) (uses : State → Gang → Issue → Uses) (effect : State → Gang → Issue → State) (s : State) : Outcome :=
  match s.cur with
  | none => .fault .noIssuer
  | some c =>
    match aget s.gangs c.gang with
    | none => .fault .noIssuer
    | some g =>
      let (g0, i0) := startIssue c g grp (s.core g.core).cyc
      let core := s.core g.core
      let bench := benchOf g.slotNo
      let u0 := uses s (g0.landDue i0.slotB i0.dist i0.cycle) i0
      let i := i0.onBench core bench (hintWords grp) (if u0.active then g0.maskReady i0.slotB else 0) (unitUse c.gang c.major u0.regs)
      let g1 := g0.landDue i.slotB i.dist i.cycle
      let g1 := if (uses s g1 i).active then g1.landMask i.slotB else g1
      let s1 := prepare uses i (prepare uses i (s.setGang i.id g1))
      match aget s1.gangs i.id with
      | none => .fault .noIssuer
      | some g2 =>
        let u := uses s1 g2 i
        .next (
          if (g2.slot i.slotB).parked.isSome then s1
          else if g2.loads.any (g2.needs (u.regs ++ u.named) (if u.active then some i.slotB else none) u.chip u.atOnce) then stall s1 i g2
          else match firstFault (s1.scheck g2) g2 i u with
            | some cls => raiseFault s1 i.id i.slotB i.pc cls (faultSite cls u) i.pos false
            | none => effect s1 g2 { i with use := unitUse c.gang c.major u.regs })

/-- The slot after its unit: at `target`, one instruction counted, its distance advanced (R27, R62). -/
def Slot.advance (sl : Slot) (i : Issue) (target : W64) : Slot :=
  { sl with pc := target, icnt := sl.icnt + 1, dist := i.nextDist, boost := if sl.boost = 0 then 0 else max 1 (sl.boost - 1),
            ready := i.cycle + (i.nextDist - i.dist), pended := false, haz := sl.haz.filter (fun h => decide (i.nextDist < h.2)) }

/-- Cycles pass at a core (R6). -/
def State.addCycles (s : State) (core n : Nat) : State :=
  let c := s.core core
  s.setCore core { c with cyc := c.cyc + n }

/-- A bench with one more unit in a cycle (R272). -/
def Core.takeCycle (c : Core) (bench cycle : Nat) (x : UnitUse) : BenchUse :=
  { cycle := cycle, units := (match aget c.benches bench with | some b => if b.cycle = cycle then b.units else [] | none => []) ++ [x] }

/-- A core after a unit of gang `g` has issued on its bench: its cycle count is the unit's cycle (R6, R272). -/
def Core.issued (c : Core) (g : Gang) (cycle : Nat) (x : UnitUse) : Core :=
  { c with cyc := cycle, benches := aput c.benches (benchOf g.slotNo) (c.takeCycle (benchOf g.slotNo) cycle x) }

/-- A unit of a gang issues at a cycle of its core, on its bench (R6, R271, R272). -/
def State.issuedAt (s : State) (g : Gang) (cycle : Nat) (x : UnitUse) : State := s.setCore g.core ((s.core g.core).issued g cycle x)

/-- The gang as an effect leaves it, its unit retired to `target`. -/
def retireTo (s : State) (i : Issue) (target : W64) (g : Gang) : State :=
  (s.setGang i.id (g.setSlot i.slotB ((g.slot i.slotB).advance i target))).issuedAt g i.cycle i.use

/-- The unit retires to the next group. -/
def retire (s : State) (i : Issue) (g : Gang) : State := retireTo s i i.next g

/-- The results of a fixed-latency unit take flight, due `latency` after it (R63). -/
def Gang.launchResults (g : Gang) (i : Issue) (latency : Nat) (ws : List RegWrite) : Gang :=
  let due := i.dist + latency
  let real := ws.filter (fun (w : RegWrite) => !w.reg.constant)
  let sl := g.slot i.slotB
  ({ g with flight := g.flight ++ real.map (fun (w : RegWrite) => ({ slotB := i.slotB, shared := false, due := due, lands := i.cycle + latency, write := w } : Flight)) }).setSlot
    i.slotB { sl with haz := sl.haz ++ real.map (fun (w : RegWrite) => (w.reg.code, due)) }

/-- A slot is ready to issue (R265, R355): live, its step running, not parked, its partition not stopped. -/
def ready (s : State) (g : Gang) (slotB : Bool) : Bool :=
  (g.slot slotB).live && g.phase == .running && !(s.part g.part).asserted && !g.restarting &&
    !((g.slot slotB).waits && g.b.live) && (match (g.slot slotB).parked with | some p => p.released | none => true)

/-- A fixed-latency instruction whose effect is to write registers (R63). -/
def execFixed (grp : Grp) (latency : Nat) (uses : State → Gang → Issue → Uses)
    (results : State → Gang → Issue → List RegWrite) (s : State) : Outcome :=
  issue grp uses (fun s g i => retire s i (g.launchResults i latency (results s g i))) s

/-- An interlocked instruction whose effect is to write registers (R63). -/
def execInterlocked (grp : Grp) (uses : State → Gang → Issue → Uses)
    (results : State → Gang → Issue → List RegWrite) (s : State) : Outcome :=
  issue grp uses (fun s g i => retire s i (g.landAll i.slotB (results s g i))) s

end Sys2Proof.Machine
end

