-- ==== Sys2Proof/Machine/Operands.lean ====
section
/-! DEFINITION. Operand forms shared by the families: which registers a form names, immediates widened by `limm` words,
branch targets, and activity masks (R47 to R49, R55, R59, R156). -/

namespace Sys2Proof.Machine

/-- An immediate field widened by the group's `limm` words (R59): its value and its width. -/
def widen {w : Nat} (limms : List (BitVec 24)) (field : BitVec w) : Nat × Nat :=
  match limms with
  | [] => (field.toNat, w)
  | [a] => (a.toNat * 2 ^ w + field.toNat, w + 24)
  | a :: b :: _ => (a.toNat * 2 ^ (24 + w) + b.toNat * 2 ^ w + field.toNat, w + 48)

/-- The widened immediate, sign-extended to 64 bits (R59, R103). -/
def immX {w : Nat} (g : Grp) (field : BitVec w) : W64 :=
  let (v, n) := widen g.limms field
  BitVec.ofInt 64 (sext n v)

/-- The widened immediate, zero-extended to 64 bits (R59, R103). -/
def immZ {w : Nat} (g : Grp) (field : BitVec w) : W64 := w64 (widen g.limms field).1

/-- A branch target: the address of the word that holds the offset, plus 4 times the widened signed offset (R49). -/
def branchTarget {w : Nat} (g : Grp) (i : Issue) (off : BitVec w) : W64 :=
  i.wordPc + 4 * immX g off

/-- The registers of the format S3. -/
def regsS3 (o : OpS3) : List Reg := [.s o.d.toNat, .s o.a.toNat, .s o.b.toNat]
/-- The registers of the format S3 with one source. -/
def regsS2 (o : OpS2) : List Reg := [.s o.d.toNat, .s o.a.toNat]
/-- The register of the format SI. -/
def regsSI (o : OpSI) : List Reg := [.s o.d.toNat]

/-- A unit that uses the activity mask and names registers. -/
def Uses.vec (regs : List Reg) : Uses := { Uses.of regs with active := true }

end Sys2Proof.Machine
end

