-- ==== Sys2Proof/Machine/Access.lean ====
section
/-! DEFINITION. Memory accesses of a gang: lane addresses, translation of an instruction's lanes, parking, and the store
buffer (R122, R156 to R159, R166, R167, R334, R342, R344). -/

namespace Sys2Proof.Machine

/-- The lanes of a mask, ascending. -/
def lanesOf (m : W32) : List Nat := (List.range 32).filter (fun l => bit m l)

/-- The participation mask of a group (R55, R156): the slot's mask, the prefix's mask register, and a replay's lanes. -/
def partMask (g : Gang) (i : Issue) (grp : Grp) : W32 :=
  let p := (g.slot i.slotB).mask &&& g.readM grp.fields.mask.toNat
  match i.replay with | some r => p &&& r | none => p

/-- The lanes of the slot's mask outside the prefix's mask register of a group that zeroes them (R55). -/
def maskedOff (g : Gang) (i : Issue) (grp : Grp) : W32 :=
  if grp.fields.zero then (g.slot i.slotB).mask &&& ~~~g.readM grp.fields.mask.toNat else 0

/-- The lanes that zeroing writes 0 to (R55); a replay writes none (R158). -/
def zeroMask (g : Gang) (i : Issue) (grp : Grp) : W32 := if i.replay.isNone then maskedOff g i grp else 0

/-- The address of a lane (R156). -/
def laneAddress (g : Gang) (i : Issue) (sb : BitVec 6) (vo : BitVec 7) (l : Nat) : Nat :=
  (g.readS i.slotB sb.toNat + (g.lane? vo.toNat l).signExtend 64).toNat

/-- The lanes of a mask with their addresses. -/
def laneAddresses (g : Gang) (i : Issue) (p : W32) (sb : BitVec 6) (vo : BitVec 7) : List (Nat × Nat) :=
  (lanesOf p).map (fun l => (l, laneAddress g i sb vo l))

/-- A register group that is not aligned to its size, where some lane takes part (R131, R156). -/
def badGroup (p : W32) (d n : Nat) : Bool := p != 0 && d % n != 0

/-- Some lane is not aligned to the access (R156). -/
def anyMisaligned (size : Nat) (as : List (Nat × Nat)) : Bool := as.any (fun a => a.2 % size != 0)

/-- The access that is reported when a lane is misaligned: the lowest such lane's (R346); none when only registers are. -/
def misSite (kind : AccessKind) (size : Nat) (as : List (Nat × Nat)) : AccessKind × Nat :=
  match as.find? (fun a => a.2 % size != 0) with | some a => (kind, a.2) | none => (.none, 0)

/-- What translating the lanes of an instruction gives: the accesses of the lanes whose pages are resident, the lanes that
missed with their addresses and the host pages whose requests failed, and the first lane of each other outcome. -/
structure LaneSet where
  ok : List (Access × W64)
  missed : List (Nat × Nat × Option Nat)
  perm : Option (Nat × Nat)
  ecc : Option (Nat × Nat × Nat)
  /-- A lane whose host page is not translated: the lane, its address, and the page with whether a write waits and whether a Page
  Request is due (R344). -/
  wait : Option (Nat × Nat × Nat × Bool × Bool)
  torn : Bool
  deriving DecidableEq, Repr

/-- Nothing translated yet. -/
def LaneSet.empty : LaneSet := { ok := [], missed := [], perm := none, ecc := none, wait := none, torn := false }

/-- The first of two. -/
def orFirst {α : Type} (a b : Option α) : Option α := match a with | some x => some x | none => b

/-- The page of a leaf is held by no cache: MS, NC, SCENE, peer or host memory (R159, R376, R379, R389). -/
def uncachedLeaf (leaf : W64) (pa : Nat) : Bool := leafMS leaf || leafNC leaf || leafScene leaf || decide (aperture pa ≠ 0)

/-- Translates lanes in ascending order (R342). -/
def translateLanes (g : Gang) (n : Need) : State → List (Nat × Nat) → State × LaneSet
  | s, [] => (s, LaneSet.empty)
  | s, (l, va) :: rest =>
    let (s1, x) := s.gangXlate g va n
    let (s2, r) := translateLanes g n s1 rest
    (s2, match x with
      | .ok pa leaf => { r with ok := ({ lane := l, va := va, pa := pa, ms := leafCounted leaf, uncached := uncachedLeaf leaf pa }, leaf) :: r.ok }
      | .miss host => { r with missed := (l, va, host) :: r.missed }
      | .perm => { r with perm := some (l, va) }
      | .torn => { r with torn := true }
      | .ecc key => { r with ecc := some (l, va, key) }
      | .hostWait page write pri => { r with wait := some (l, va, page, write, pri) })

/-- The mask of lanes. -/
def maskOf (ls : List Nat) : W32 := ls.foldl (fun m l => m ||| BitVec.twoPow 32 l) 0

/-- Parks a group whose lanes missed: one record, naming the lowest faulted lane (R158, R334). A scalar access records no
lanes and is attributed to one (R122, R346). -/
def parkMissed (s : State) (i : Issue) (kind : AccessKind) (scalar : Bool) (p : W32) (missed : List (Nat × Nat × Option Nat)) : State :=
  let faulted := maskOf (missed.map (·.1))
  let host := missed.any (·.2.2.isSome)
  let va := (missed.headD (0, 0, none)).2.1
  raiseFault s i.id i.slotB i.pc .xlatMiss
    { FaultInfo.plain with
      kind := kind, va := va, host := host, done := if scalar then 0 else p &&& ~~~faulted,
      faulted := if scalar then 0 else faulted, lanes := faulted } i.pos true

/-- The course of a memory instruction whose lanes have translated (R158, R334): a lane that fails a check makes the whole
instruction fault; a lane whose host page is not translated makes it wait whole; else `run` has the effect of the lanes whose
pages are resident, and the slot parks for the others or retires. `check` may refuse a translated lane, or one whose page is in
host memory, translated or not (R379). The registers `pend` become pending at the first issue, whatever becomes of the lanes (R22, R171). -/
def accessSet (s1 : State) (g : Gang) (i : Issue) (kind : AccessKind) (scalar : Bool) (p : W32) (r : LaneSet)
    (check : Access × W64 → Bool) (pend : List Reg)
    (run : State → Gang → List (Access × W64) → Except (FaultClass × Nat) (State × Gang)) : State :=
  let info := { FaultInfo.plain with kind := kind }
  let mark (l : Nat) : W32 := if scalar then 0 else BitVec.twoPow 32 (l % 32)
  let onHost (l va page : Nat) : Option (Nat × Nat) :=
    if check ({ lane := l, va := va, pa := 2 * 2 ^ 50 + page * 4096, ms := false, uncached := true }, 0) then none else some (l, va)
  let refused : Option (Nat × Nat) := orFirst ((r.ok.find? (fun a => !check a)).map (fun a => (a.1.lane, a.1.va)))
    (orFirst (r.wait.bind (fun (l, va, page, _, _) => onHost l va page)) (r.missed.findSome? (fun (l, va, failed) => failed.bind (onHost l va))))
  if r.torn then endTorn s1 i.id
  else match orFirst r.perm refused with
  | some (l, va) => raiseFault s1 i.id i.slotB i.pc .xlatPerm { info with va := va, faulted := mark l } i.pos false
  | none =>
    match r.ecc, r.wait with
    | some (l, va, key), _ =>
      raiseFault (logUncorr s1 g.part (homePA g.part key)) i.id i.slotB i.pc .eccUncorr
        { info with kind := .walk, va := va, faulted := mark l, detail := homePA g.part key / 32 * 32 } i.pos false
    | none, some (_, _, page, write, pri) =>
      hostPark (s1.setGang i.id (g.begin i.slotB pend)) i.id i.slotB page write pri
        { record := none, released := false, faulted := i.replay.getD 0, byLane := i.replay.isSome, hostWait := true,
          pos := i.pos }
    | none, none =>
      match run s1 (g.begin i.slotB pend) r.ok with
      | .error (cls, detail) => raiseFault s1 i.id i.slotB i.pc cls { info with detail := detail, lanes := i.replay.getD 0 } i.pos i.replay.isSome
      | .ok (s2, g2) =>
        match r.missed with
        | [] => retire s2 i g2
        | missed => parkMissed (s2.setGang i.id g2) i kind scalar p missed

/-- The common course of a memory instruction: the lanes of `as` translate, and what they give decides (R158, R334, R342). -/
def accessLanes (s : State) (g : Gang) (i : Issue) (n : Need) (kind : AccessKind) (scalar : Bool) (p : W32)
    (as : List (Nat × Nat)) (check : Access × W64 → Bool) (pend : List Reg)
    (run : State → Gang → List (Access × W64) → Except (FaultClass × Nat) (State × Gang)) : State :=
  let (s1, r) := translateLanes g n s as
  accessSet s1 g i kind scalar p r check pend run

/-! Outstanding requests (R2; notes/assumptions/84.md). -/

/-- The requests of an outstanding load: the 128-byte lines it reads. -/
def Load.requests (l : Load) : Nat := if l.onChip then 0 else (dedup (l.accesses.map (fun a => a.va / 128))).length
/-- The outstanding requests of a core. -/
def coreRequests (s : State) (core : Nat) : Nat :=
  s.gangs.foldl (fun n (_, g) => if g.core = core then g.loads.foldl (fun n l => n + l.requests) n else n) 0
/-- The core may have the loads of these lanes outstanding beside its others: 1,024 requests at most. -/
def requestRoom (s : State) (g : Gang) (as : List (Nat × Nat)) : Bool :=
  decide (coreRequests s g.core + (dedup (as.map (fun a => a.2 / 128))).length ≤ 1024)

/-! The store buffer (R167). -/

/-- Bytes of a gang's store buffer in use. -/
def bufferUse (es : List Entry) : Nat := es.foldl (fun n e => n + e.space) 0

/-- The 4 KiB blocks that a buffer of `n` bytes spills beyond its 16 KiB on chip (R167). -/
def spillBlocks (n : Nat) : Nat := (n - 16384 + 4095) / 4096

/-! The private region of a context (R26, R167, R268, R388, R418). -/

/-- Bytes of a context's private region (R418). -/
def regionBytes (c : Ctx) : Nat := 2 ^ max 16 (min 40 c.privLog)

/-- Delegated rays of a die that wait in its queue: no unit has begun them (R388). -/
def queuedRays (s : State) (die : Nat) : List (Nat × RayGuest) :=
  s.pkg.guests.filter (fun g => decide (g.2.die = die) && g.2.ray.scene.isNone)

/-- Bytes of the private region that mask stacks, store buffers, spawn queues and ray queues have taken from the context; of gang
`but` the store buffer is not counted. -/
def regionUse (s : State) (part aspace : Nat) (but : Option Nat) : Nat :=
  let deep (g : Gang) : Nat := (g.a.stack.length - 8 + (g.b.stack.length - 8)) * Config.stackEntry
  let gangs := s.gangs.foldl (fun n (id, g) =>
    if g.part = part ∧ g.aspace = aspace then
      n + deep g + (if but = some id then 0 else 4096 * spillBlocks (bufferUse g.entries))
    else n) 0
  let items := s.dies.foldl (fun n (_, d) =>
    n + ((d.spawns.drop 4096).filter (fun x => decide (x.part = part) && decide (x.aspace = aspace))).length * Config.spawnItem) 0
  let rays := if bits (s.part part).octCfg 15 8 = aspace then
    ((List.range 4).map (fun d => 64 * (((queuedRays s d).filter (fun g => decide (g.2.part = part))).length - 1024))).sum else 0
  gangs + items + rays

/-- Adds entries to the gang's store buffer; they spill to the context's private region, and when they cannot be placed the
answer is `SPILL_EXHAUSTED` with the bytes still needed (R167, R346, R418). -/
def buffer (s : State) (i : Issue) (g : Gang) (es : List Entry) : Except (FaultClass × Nat) Gang :=
  let blocks := spillBlocks (bufferUse (g.entries ++ es))
  let room := regionBytes (s.ctx (spaceKey g.part g.aspace))
  if blocks = 0 then .ok { g with entries := g.entries ++ es }
  else
    let need := 4096 * blocks + regionUse s g.part g.aspace (some i.id)
    if need ≤ room then .ok { g with entries := g.entries ++ es } else .error (.spillExhausted, need - room)

/-- The commit key and lane of an entry of lane `l`: a regrouped lane commits as its origin lane (R244, R267). -/
def Gang.commitKey (g : Gang) (l : Nat) : List Nat × Nat :=
  match g.origins[l]? with | some o => (o.key, o.lane) | none => (g.key, l)

/-- A store-buffer entry of a lane. -/
def mkEntry (g : Gang) (i : Issue) (a : Access) (leaf : W64) (space : Nat) (kind : EntryKind) : Entry :=
  let (key, lane) := g.commitKey a.lane
  { pos := i.pos, lane := lane, key := key, va := a.va, pa := a.pa, ms := leafCounted leaf, scene := leafScene leaf,
    pc := i.pc, slotB := i.slotB, space := space, kind := kind }

/-- The space of a lane access of `size` bytes (R167). -/
def laneSpace (size : Nat) : Nat := if size ≤ 8 then 24 else 32

end Sys2Proof.Machine
end

