-- ==== Sys2Proof/Machine/ScalarMem.lean ====
section
/-! DEFINITION. Scalar memory (major `0x03`): loads, stores, returning atomics, lock operations and reductions
(R122 to R127, R379). -/

namespace Sys2Proof.Machine

/-- The one access of a scalar memory instruction, attributed to the lowest set lane of `LANE` (R122). -/
def scalarAccess (g : Gang) (a : W64) : List (Nat × Nat) := [(g.lowLane, a.toNat)]

/-- A commit key and lane for a scalar access: that of the lowest launched lane (R303). -/
def scalarEntry (g : Gang) (i : Issue) (a : Access) (leaf : W64) (kind : EntryKind) : Entry := mkEntry g i a leaf 96 kind

/-- The address A + B of a scalar load or store (R122). -/
def addressAB (g : Gang) (slotB : Bool) (o : OpS3) : W64 := g.readS slotB o.a.toNat + g.readS slotB o.b.toNat

/-- A scalar load of `n` bytes, zero-extended, performed at the home (R122, R123). -/
def scalarLoad (n : Nat) (grp : Grp) (o : OpS3) (s : State) : Outcome :=
  issue grp
    (fun _ g i => { Uses.of (regsS3 o) with misaligned := (addressAB g i.slotB o).toNat % n != 0, site := (.sload, (addressAB g i.slotB o).toNat) })
    (fun s g i =>
      let as := scalarAccess g (addressAB g i.slotB o)
      if !requestRoom s g as then stall s i g
      else accessLanes s g i .read .sload true 0 as (fun _ => true) []
        (fun s g oks => .ok (s, if oks.isEmpty then g else
          { g with loads := g.loads ++
              [{ pos := i.pos, slotB := i.slotB, pc := i.pc, kind := .sload, size := n, atHome := true, onChip := false, passed := none,
                 accesses := oks.map (·.1), dest := .scalar o.d.toNat }] }))) s

/-- A scalar store of the low `n` bytes of `sd`, buffered (R122, R123). -/
def scalarStore (n : Nat) (grp : Grp) (o : OpS3) (s : State) : Outcome :=
  issue grp
    (fun _ g i => { Uses.of (regsS3 o) with misaligned := (addressAB g i.slotB o).toNat % n != 0, site := (.sstore, (addressAB g i.slotB o).toNat) })
    (fun s g i =>
      accessLanes s g i .write .sstore true 0 (scalarAccess g (addressAB g i.slotB o)) (fun _ => true) []
        (fun s g oks =>
          match buffer s i g (oks.map (fun (a, leaf) =>
              scalarEntry g i a leaf (.store (toBytes n (g.readS i.slotB o.d.toNat).toNat)))) with
          | .ok g => .ok (s, g)
          | .error e => .error e)) s

/-- The operations that PCIe carries as AtomicOps (R379). -/
def hostOp (op : AmoOp) : Bool := match op with | .add => true | .xchg => true | .cas => true | _ => false

/-- An atomic or reduction on a host page is one that PCIe carries, with AtomicOps enabled (R379). -/
def hostAllows (s : State) (g : Gang) (op : AmoOp) (a : Access × W64) : Bool :=
  decide (aperture a.1.pa ≠ 2) || (hostOp op && (s.part g.part).atomicOps)

/-- A returning operation on the word at A, which names `regs`: it enters the store buffer, and `sd` becomes pending (R22, R124,
R125). -/
def scalarAmo (op : AmoOp) (n : Nat) (ret : Ret) (value compare : Gang → Bool → W64) (regs : List Reg) (grp : Grp) (o : OpS2)
    (s : State) : Outcome :=
  issue grp
    (fun _ g i => { Uses.of regs with
      own := [.s o.d.toNat]
      misaligned := (g.readS i.slotB o.a.toNat).toNat % n != 0
      site := (.sstore, (g.readS i.slotB o.a.toNat).toNat) })
    (fun s g i =>
      accessLanes s g i .write .sstore true 0 (scalarAccess g (g.readS i.slotB o.a.toNat)) (hostAllows s g op) [.s o.d.toNat]
        (fun s g oks =>
          match buffer s i g (oks.map (fun (a, leaf) =>
              scalarEntry g i a leaf (.amo op n (value g i.slotB) (compare g i.slotB) ret))) with
          | .ok g => .ok (s, g)
          | .error e => .error e)) s

/-- A returning atomic whose operand is B (R124). -/
def samoB (op : AmoOp) (grp : Grp) (o : OpS3) (s : State) : Outcome :=
  scalarAmo op 8 (.scalar o.d.toNat) (fun g b => g.readS b o.b.toNat) (fun _ _ => 0) (regsS3 o) grp ⟨o.d, o.a⟩ s

/-- A lock operation without an operand on the 32-bit word at A (R125). -/
def lockOp (op : AmoOp) (grp : Grp) (o : OpS2) (s : State) : Outcome :=
  scalarAmo op 4 (.lock o.d.toNat) (fun _ _ => 0) (fun _ _ => 0) [.s o.d.toNat, .s o.a.toNat] grp o s

/-- A scalar reduction of B into the word at A, held back until the task's end (R126). -/
def scalarRed (op : AmoOp) (n : Nat) (grp : Grp) (o : OpSR) (s : State) : Outcome :=
  issue grp
    (fun _ g i => { Uses.of [.s o.a.toNat, .s o.b.toNat] with
      misaligned := (g.readS i.slotB o.a.toNat).toNat % n != 0
      site := (.sstore, (g.readS i.slotB o.a.toNat).toNat) })
    (fun s g i =>
      accessLanes s g i .write .sstore true 0 (scalarAccess g (g.readS i.slotB o.a.toNat)) (hostAllows s g op) []
        (fun s g oks =>
          match buffer s i g (oks.map (fun (a, leaf) => scalarEntry g i a leaf (.red op n (g.readS i.slotB o.b.toNat)))) with
          | .ok g => .ok (s, g)
          | .error e => .error e)) s

/-- `sld.8` (R123). -/
def execSld8 (g : Grp) (o : OpS3) (s : State) : Outcome := scalarLoad 1 g o s

/-- `sld.16` (R123). -/
def execSld16 (g : Grp) (o : OpS3) (s : State) : Outcome := scalarLoad 2 g o s

/-- `sld.32` (R123). -/
def execSld32 (g : Grp) (o : OpS3) (s : State) : Outcome := scalarLoad 4 g o s

/-- `sld.64` (R123). -/
def execSld64 (g : Grp) (o : OpS3) (s : State) : Outcome := scalarLoad 8 g o s

/-- `sst.8` (R123). -/
def execSst8 (g : Grp) (o : OpS3) (s : State) : Outcome := scalarStore 1 g o s

/-- `sst.16` (R123). -/
def execSst16 (g : Grp) (o : OpS3) (s : State) : Outcome := scalarStore 2 g o s

/-- `sst.32` (R123). -/
def execSst32 (g : Grp) (o : OpS3) (s : State) : Outcome := scalarStore 4 g o s

/-- `sst.64` (R123). -/
def execSst64 (g : Grp) (o : OpS3) (s : State) : Outcome := scalarStore 8 g o s

/-- `samo.add` (R124). -/
def execSamoAdd (g : Grp) (o : OpS3) (s : State) : Outcome := samoB .add g o s

/-- `samo.min.i` (R124). -/
def execSamoMinI (g : Grp) (o : OpS3) (s : State) : Outcome := samoB .minI g o s

/-- `samo.max.i` (R124). -/
def execSamoMaxI (g : Grp) (o : OpS3) (s : State) : Outcome := samoB .maxI g o s

/-- `samo.min.n` (R124). -/
def execSamoMinN (g : Grp) (o : OpS3) (s : State) : Outcome := samoB .minN g o s

/-- `samo.max.n` (R124). -/
def execSamoMaxN (g : Grp) (o : OpS3) (s : State) : Outcome := samoB .maxN g o s

/-- `samo.and` (R124). -/
def execSamoAnd (g : Grp) (o : OpS3) (s : State) : Outcome := samoB .and g o s

/-- `samo.or` (R124). -/
def execSamoOr (g : Grp) (o : OpS3) (s : State) : Outcome := samoB .or g o s

/-- `samo.xor` (R124). -/
def execSamoXor (g : Grp) (o : OpS3) (s : State) : Outcome := samoB .xor g o s

/-- `samo.xchg` (R124). -/
def execSamoXchg (g : Grp) (o : OpS3) (s : State) : Outcome := samoB .xchg g o s

/-- `samo.incw` (R124). -/
def execSamoIncw (g : Grp) (o : OpS3) (s : State) : Outcome := samoB .incw g o s

/-- `samo.cas`: compare is B and swap is old `sd` (R124). -/
def execSamoCas (g : Grp) (o : OpS3) (s : State) : Outcome :=
  scalarAmo .cas 8 (.scalar o.d.toNat) (fun x b => x.readS b o.d.toNat) (fun x b => x.readS b o.b.toNat) (regsS3 o) g ⟨o.d, o.a⟩ s

/-- `samo.faddb`: the addend is B and the bound is old `sd` (R124). -/
def execSamoFaddb (g : Grp) (o : OpS3) (s : State) : Outcome :=
  scalarAmo .faddb 8 (.scalar o.d.toNat) (fun x b => x.readS b o.b.toNat) (fun x b => x.readS b o.d.toNat) (regsS3 o) g ⟨o.d, o.a⟩ s

/-- `srwl.racq` (R125). -/
def execSrwlRacq (g : Grp) (o : OpS2) (s : State) : Outcome := lockOp .racq g o s

/-- `srwl.rrel` (R125). -/
def execSrwlRrel (g : Grp) (o : OpS2) (s : State) : Outcome := lockOp .rrel g o s

/-- `srwl.wacq` (R125). -/
def execSrwlWacq (g : Grp) (o : OpS3) (s : State) : Outcome :=
  scalarAmo .wacq 4 (.lock o.d.toNat) (fun x b => x.readS b o.b.toNat) (fun _ _ => 0) (regsS3 o) g ⟨o.d, o.a⟩ s

/-- `srwl.wrel` (R125). -/
def execSrwlWrel (g : Grp) (o : OpS2) (s : State) : Outcome := lockOp .wrel g o s

/-- `sred.add` (R126). -/
def execSredAdd (g : Grp) (o : OpSR) (s : State) : Outcome := scalarRed .add 8 g o s

/-- `sred.add.f32` (R126). -/
def execSredAddF32 (g : Grp) (o : OpSR) (s : State) : Outcome := scalarRed .faddF32 4 g o s

end Sys2Proof.Machine
end

