-- ==== Sys2Proof/Machine/VMem.lean ====
section
/-! DEFINITION. Vector memory (majors `0x18` to `0x1A`), vector atomics and reductions (majors `0x1C` to `0x1E`): R156 to
R167, R170 to R172, R379. -/

namespace Sys2Proof.Machine

/-- The registers of a group of `n` from `d`. -/
def regGroup (d n : Nat) : List Reg := (List.range n).map (fun j => .v (d + j))

/-- Registers that hold an access of `size` bytes in each lane (R160, R166). -/
def groupOf (size : Nat) : Nat := if size ≤ 4 then 1 else size / 4

/-- What a vector memory instruction names: its data registers, the base, the offsets and the mask register (R156, R158). -/
def memUses (grp : Grp) (data : List Reg) (sb : BitVec 6) (vo : BitVec 7) : Uses :=
  Uses.vec (data ++ [.s sb.toNat, .v vo.toNat, .m grp.fields.mask.toNat])

/-- Writes zeros to lanes of a group of registers (R55). -/
def zeroGroup (g : Gang) (d n : Nat) (lanes : W32) : Gang :=
  (List.range n).foldl (fun g j => g.writeV (d + j) lanes []) g

/-- A vector load of `size` bytes in each lane (R160). -/
def vectorLoad (size : Nat) (signed atHome : Bool) (kind : AccessKind) (grp : Grp) (d : BitVec 7) (sb : BitVec 6) (vo : BitVec 7)
    (s : State) : Outcome :=
  let n := groupOf size
  issue grp
    (fun _ g i => { memUses grp (regGroup d.toNat n) sb vo with
      misaligned := badGroup (partMask g i grp) d.toNat n || anyMisaligned size (laneAddresses g i (partMask g i grp) sb vo)
      site := if d.toNat % n != 0 then (.none, 0) else misSite kind size (laneAddresses g i (partMask g i grp) sb vo) })
    (fun s g i =>
      let p := partMask g i grp
      let as := laneAddresses g i p sb vo
      if !requestRoom s g as then stall s i g
      else accessLanes s g i .read kind false p as (fun _ => true) []
        (fun s g oks =>
          let g := zeroGroup g d.toNat n (zeroMask g i grp)
          .ok (s, if oks.isEmpty then g else
            { g with loads := g.loads ++
                [{ pos := i.pos, slotB := i.slotB, pc := i.pc, kind := kind, size := size, atHome := atHome, onChip := false, passed := none,
                   accesses := oks.map (·.1), dest := .vector d.toNat n signed }] }))) s

/-- The bytes that a lane stores: those of its register, pair or block (R166). -/
def laneBytes (g : Gang) (d size l : Nat) : List Byte :=
  ((List.range (groupOf size)).flatMap (fun j => toBytes 4 (g.lane? (d + j) l).toNat)).take size

/-- A vector store of `size` bytes in each lane, buffered (R166, R167). -/
def vectorStore (size : Nat) (grp : Grp) (o : OpM) (s : State) : Outcome :=
  let n := groupOf size
  issue grp
    (fun _ g i => { memUses grp (regGroup o.ds.toNat n) o.sb o.vo with
      misaligned := badGroup (partMask g i grp) o.ds.toNat n || anyMisaligned size (laneAddresses g i (partMask g i grp) o.sb o.vo)
      site := if o.ds.toNat % n != 0 then (.none, 0) else misSite .vstore size (laneAddresses g i (partMask g i grp) o.sb o.vo) })
    (fun s g i =>
      let p := partMask g i grp
      accessLanes s g i .write .vstore false p (laneAddresses g i p o.sb o.vo) (fun _ => true) []
        (fun s g oks =>
          match buffer s i g (oks.map (fun (a, leaf) =>
              mkEntry g i a leaf (laneSpace size) (.store (laneBytes g o.ds.toNat size a.lane)))) with
          | .ok g => .ok (s, g)
          | .error e => .error e)) s

/-- `vld.8` (R160, R161). -/
def execVld8 (g : Grp) (o : OpMB) (s : State) : Outcome := vectorLoad 1 false o.byp .vload g o.ds o.sb o.vo s

/-- `vld.8s` (R160, R161). -/
def execVld8s (g : Grp) (o : OpMB) (s : State) : Outcome := vectorLoad 1 true o.byp .vload g o.ds o.sb o.vo s

/-- `vld.16` (R160, R161). -/
def execVld16 (g : Grp) (o : OpMB) (s : State) : Outcome := vectorLoad 2 false o.byp .vload g o.ds o.sb o.vo s

/-- `vld.16s` (R160, R161). -/
def execVld16s (g : Grp) (o : OpMB) (s : State) : Outcome := vectorLoad 2 true o.byp .vload g o.ds o.sb o.vo s

/-- `vld.32` (R160, R161). -/
def execVld32 (g : Grp) (o : OpMB) (s : State) : Outcome := vectorLoad 4 false o.byp .vload g o.ds o.sb o.vo s

/-- `vld.64` (R160, R161). -/
def execVld64 (g : Grp) (o : OpMB) (s : State) : Outcome := vectorLoad 8 false o.byp .vload g o.ds o.sb o.vo s

/-- `vld.128` (R160, R161). -/
def execVld128 (g : Grp) (o : OpMB) (s : State) : Outcome := vectorLoad 16 false o.byp .vload g o.ds o.sb o.vo s

/-- `vst.8` (R166). -/
def execVst8 (g : Grp) (o : OpM) (s : State) : Outcome := vectorStore 1 g o s

/-- `vst.16` (R166). -/
def execVst16 (g : Grp) (o : OpM) (s : State) : Outcome := vectorStore 2 g o s

/-- `vst.32` (R166). -/
def execVst32 (g : Grp) (o : OpM) (s : State) : Outcome := vectorStore 4 g o s

/-- `vst.64` (R166). -/
def execVst64 (g : Grp) (o : OpM) (s : State) : Outcome := vectorStore 8 g o s

/-- `vst.128` (R166). -/
def execVst128 (g : Grp) (o : OpM) (s : State) : Outcome := vectorStore 16 g o s

/-- `vldg`: a word for each lane as `vld.32.by` loads it, sent as gather packets (R164). -/
def execVldg (g : Grp) (o : OpM) (s : State) : Outcome := vectorLoad 4 false true .vgather g o.ds o.sb o.vo s

/-- The lines of `vldl`: for each register j of `n` the lane that stands for the line, 32·j plus the lowest lane of P, and that
lane's address (R163). -/
def lineSites (p : W32) (base n : Nat) : List (Nat × Nat) :=
  if p = 0 then [] else
    let low := ctz 32 p.toNat
    (List.range n).map (fun j => (32 * j + low, base + 128 * j + 4 * low))

/-- The loads of `vldl` from its translated lines: one for each register (R163). -/
def lineLoads (i : Issue) (p : W32) (o : OpML) (lines : List (Access × W64)) : List Load :=
  lines.map (fun (a, _) =>
    let back := 4 * (a.lane % 32)
    { pos := i.pos, slotB := i.slotB, pc := i.pc, kind := .vload, size := 4, atHome := o.byp, onChip := false, passed := none,
      accesses := (lanesOf p).map (fun l => { a with lane := l, va := a.va - back + 4 * l, pa := a.pa - back + 4 * l }),
      dest := .vector (o.ds.toNat + a.lane / 32) 1 false })

/-- `vldl`: consecutive 128-byte lines; if any is not resident no register is written, and the replay re-issues the whole
instruction, zeroed lanes among it, with `REPLAY` reading as P (R163). -/
def execVldl (g : Grp) (o : OpML) (s : State) : Outcome :=
  let n := o.n.toNat + 1
  issue g
    (fun _ x i => { Uses.vec (regGroup o.ds.toNat n ++ [.s o.sb.toNat, .m g.fields.mask.toNat]) with
      misaligned := (x.readS i.slotB o.sb.toNat).toNat % 128 != 0, site := (.vload, (x.readS i.slotB o.sb.toNat).toNat) })
    (fun s x i =>
      let p := partMask x i g
      let lines := lineSites p (x.readS i.slotB o.sb.toNat).toNat n
      let (s1, r) := translateLanes x .read s lines
      if !requestRoom s x lines then stall s i x
      else match r.missed, r.perm, r.torn, r.wait with
      | (_, va, _) :: _, none, false, none =>
        raiseFault s1 i.id i.slotB i.pc .xlatMiss
          { FaultInfo.plain with kind := .vload, va := va, host := r.missed.any (·.2.2.isSome), faulted := p, lanes := p } i.pos true
      | _, _, _, _ =>
        accessSet s1 x i .vload false p r (fun _ => true) []
          (fun s y oks =>
            let y := zeroGroup y o.ds.toNat n (maskedOff x i g)
            .ok (s, { y with loads := y.loads ++ lineLoads i p o oks }))) s

/-- The lanes of a prefetch whose lines are brought in: those aligned to a word, whose page is resident, readable and may be
cached (R165; notes/assumptions/85.md). -/
def prefetchLines (g : Gang) (r : LaneSet) : List Nat :=
  (r.ok.filter (fun a => !a.1.uncached && a.1.va % 4 == 0)).map (fun a => memKey g.part a.1.pa / 128)

/-- A prefetch: it raises only `XLAT_PERM` for an address outside the ordinary range, and drops other lanes without a fault
(R165). `l1` for the core's L1; the L2 holds no state of its own here. -/
def prefetch (l1 : Bool) (grp : Grp) (o : OpMP) (s : State) : Outcome :=
  issue grp (fun _ _ _ => { Uses.vec [] with named := [.s o.sb.toNat, .v o.vo.toNat, .m grp.fields.mask.toNat] })
    (fun s g i =>
      let as := laneAddresses g i (partMask g i grp) o.sb o.vo
      match as.find? (fun a => decide (2 ^ 57 ≤ a.2)) with
      | some (l, va) =>
        raiseFault s i.id i.slotB i.pc .xlatPerm
          { FaultInfo.plain with kind := .vload, va := va, faulted := BitVec.twoPow 32 l } i.pos false
      | none =>
        let (s1, r) := translateLanes g .read s as
        retire (if l1 then ((prefetchLines g r).filter (lineGood s1)).foldl (fun s k => fillL1 s g.core k) s1 else s1) i g) s

/-- `pref.l1` (R165). -/
def execPrefL1 (g : Grp) (o : OpMP) (s : State) : Outcome := prefetch true g o s
/-- `pref.l2` (R165). -/
def execPrefL2 (g : Grp) (o : OpMP) (s : State) : Outcome := prefetch false g o s

/-- The bytes of an element of a vector atomic or reduction (R170, R172): 8 for the types i64 and n64. -/
def amoSize (grp : Grp) : Nat := if 12 ≤ grp.fields.typ.toNat then 8 else 4
/-- The type of an element is unsigned (R70). -/
def amoUnsigned (grp : Grp) : Bool := grp.fields.typ == 2 || grp.fields.typ == 13

/-- The element of a lane over one register or a pair. -/
def laneElem (g : Gang) (d size l : Nat) : W64 :=
  if size = 8 then (g.lane? (d + 1) l ++ g.lane? d l : BitVec 64) else (g.lane? d l).setWidth 64

/-- The register that carries V: OP4, or `vds` (R170). -/
def amoSource (grp : Grp) (ds : BitVec 7) : Nat := if grp.fields.op4 = 0 then ds.toNat else grp.fields.op4.toNat

/-- A returning vector atomic (R170, R171): each lane's operation enters the store buffer, `vds` becomes pending, and lanes
that zeroing clears receive 0 between the step end and the successor's dispatch. `value` and `compare` are made of Vd and
V. -/
def vectorAmo (op : AmoOp) (size : Nat) (value compare : W64 → W64 → W64) (grp : Grp) (o : OpM) (s : State) : Outcome :=
  let n := groupOf size
  let src := amoSource grp o.ds
  let dest := regGroup o.ds.toNat n
  issue grp
    (fun _ g i => { memUses grp (dest ++ regGroup src n) o.sb o.vo with
      own := dest
      misaligned := badGroup (partMask g i grp) o.ds.toNat n || badGroup (partMask g i grp) src n || anyMisaligned size (laneAddresses g i (partMask g i grp) o.sb o.vo)
      site := if o.ds.toNat % n != 0 || src % n != 0 then (.none, 0) else misSite .vatomic size (laneAddresses g i (partMask g i grp) o.sb o.vo) })
    (fun s g i =>
      let p := partMask g i grp
      accessLanes s g i .write .vatomic false p (laneAddresses g i p o.sb o.vo) (hostAllows s g op) dest
        (fun s g oks =>
          let zero := zeroMask g i grp
          let g := if zero = 0 then g else
            { g with returns := g.returns ++ (List.range n).map (fun j => .vector (o.ds.toNat + j) zero []) }
          match buffer s i g (oks.map (fun (a, leaf) =>
              let vd := laneElem g o.ds.toNat size a.lane
              let v := laneElem g src size a.lane
              mkEntry g i a leaf (laneSpace size) (.amo op size (value vd v) (compare vd v) (.lane o.ds.toNat a.lane)))) with
          | .ok g => .ok (s, g)
          | .error e => .error e)) s

/-- A returning vector atomic whose operand is V (R170). -/
def vamoV (op : AmoOp) (grp : Grp) (o : OpM) (s : State) : Outcome :=
  vectorAmo op (amoSize grp) (fun _ v => v) (fun _ _ => 0) grp o s

/-- `vamo.add` (R170). -/
def execVamoAdd (g : Grp) (o : OpM) (s : State) : Outcome := vamoV .add g o s

/-- `vamo.and` (R170). -/
def execVamoAnd (g : Grp) (o : OpM) (s : State) : Outcome := vamoV .and g o s

/-- `vamo.or` (R170). -/
def execVamoOr (g : Grp) (o : OpM) (s : State) : Outcome := vamoV .or g o s

/-- `vamo.xor` (R170). -/
def execVamoXor (g : Grp) (o : OpM) (s : State) : Outcome := vamoV .xor g o s

/-- `vamo.xchg` (R170). -/
def execVamoXchg (g : Grp) (o : OpM) (s : State) : Outcome := vamoV .xchg g o s

/-- `vamo.min`, in the type's order (R170). -/
def execVamoMin (g : Grp) (o : OpM) (s : State) : Outcome := vamoV (if amoUnsigned g then .minN else .minI) g o s

/-- `vamo.max`, in the type's order (R170). -/
def execVamoMax (g : Grp) (o : OpM) (s : State) : Outcome := vamoV (if amoUnsigned g then .maxN else .maxI) g o s

/-- `vamo.cas`: compare is Vd and swap is V (R170). -/
def execVamoCas (g : Grp) (o : OpM) (s : State) : Outcome := vectorAmo .cas (amoSize g) (fun _ v => v) (fun d _ => d) g o s

/-- `vamo.incw`: the bound is V (R170). -/
def execVamoIncw (g : Grp) (o : OpM) (s : State) : Outcome := vectorAmo .incw 4 (fun _ v => v) (fun _ _ => 0) g o s

/-- `vamo.faddb`: the addend is V and the bound is Vd (R170). -/
def execVamoFaddb (g : Grp) (o : OpM) (s : State) : Outcome := vectorAmo .faddb 4 (fun _ v => v) (fun d _ => d) g o s

/-- `vamo.fadd.f32` (R170). -/
def execVamoFaddF32 (g : Grp) (o : OpM) (s : State) : Outcome := vectorAmo .faddF32 4 (fun _ v => v) (fun _ _ => 0) g o s

/-- A vector reduction, held back until the task's end (R172). -/
def vectorRed (op : AmoOp) (size : Nat) (grp : Grp) (o : OpM) (s : State) : Outcome :=
  let n := groupOf size
  issue grp
    (fun _ g i => { memUses grp (regGroup o.ds.toNat n) o.sb o.vo with
      misaligned := badGroup (partMask g i grp) o.ds.toNat n || anyMisaligned size (laneAddresses g i (partMask g i grp) o.sb o.vo)
      site := if o.ds.toNat % n != 0 then (.none, 0) else misSite .vatomic size (laneAddresses g i (partMask g i grp) o.sb o.vo) })
    (fun s g i =>
      let p := partMask g i grp
      accessLanes s g i .write .vatomic false p (laneAddresses g i p o.sb o.vo) (hostAllows s g op) []
        (fun s g oks =>
          match buffer s i g (oks.map (fun (a, leaf) =>
              mkEntry g i a leaf (laneSpace size) (.red op size (laneElem g o.ds.toNat size a.lane)))) with
          | .ok g => .ok (s, g)
          | .error e => .error e)) s

/-- `vred.add` (R172). -/
def execVredAdd (g : Grp) (o : OpM) (s : State) : Outcome := vectorRed .add (amoSize g) g o s

/-- `vred.and` (R172). -/
def execVredAnd (g : Grp) (o : OpM) (s : State) : Outcome := vectorRed .and (amoSize g) g o s

/-- `vred.or` (R172). -/
def execVredOr (g : Grp) (o : OpM) (s : State) : Outcome := vectorRed .or (amoSize g) g o s

/-- `vred.xor` (R172). -/
def execVredXor (g : Grp) (o : OpM) (s : State) : Outcome := vectorRed .xor (amoSize g) g o s

/-- `vred.min`, in the type's order (R172). -/
def execVredMin (g : Grp) (o : OpM) (s : State) : Outcome := vectorRed (if amoUnsigned g then .minN else .minI) (amoSize g) g o s

/-- `vred.max`, in the type's order (R172). -/
def execVredMax (g : Grp) (o : OpM) (s : State) : Outcome := vectorRed (if amoUnsigned g then .maxN else .maxI) (amoSize g) g o s

/-- `vred.add.f32` (R172). -/
def execVredAddF32 (g : Grp) (o : OpM) (s : State) : Outcome := vectorRed .faddF32 4 g o s

/-- `vred.add.bf16x2` (R172). -/
def execVredAddBf16x2 (g : Grp) (o : OpM) (s : State) : Outcome := vectorRed .faddBf16x2 4 g o s

end Sys2Proof.Machine
end

