-- ==== Sys2Proof/Machine/Vector.lean ====
section
/-! DEFINITION. The frame of the vector majors `0x08` to `0x0E` and `0x10` to `0x15`: participation, operand groups,
elements, types and stochastic draws (R55, R63, R70, R79, R87, R129 to R131). -/

namespace Sys2Proof.Machine

/-- Element `k` of width `w` of a lane's bits (R79). -/
def elem (w x k : Nat) : Nat := x / 2 ^ (w * k) % 2 ^ w

/-- The bits of `total / w` elements given by their numbers (R79). -/
def packElems (w total : Nat) (f : Nat → Nat) : Nat :=
  (List.range (total / w)).foldl (fun acc k => acc + f k % 2 ^ w * 2 ^ (w * k)) 0

/-- The registers of a lane's result, low register first (R79). -/
def outWords (n x : Nat) : List W32 := (List.range n).map (fun j => w32 (x / 2 ^ (32 * j)))

/-- A lane's bits of a register or an even-odd pair (R79). -/
def Gang.operand (g : Gang) (r n l : Nat) : Nat :=
  if n = 2 then (g.lane? r l).toNat + (g.lane? (r + 1) l).toNat * 2 ^ 32 else (g.lane? r l).toNat

/-- The writes of a vector result: the lanes of P receive `f`, lanes that zeroing clears receive 0 (R129). -/
def vecWrites (g : Gang) (i : Issue) (grp : Grp) (d n : Nat) (f : Nat → List W32) : List RegWrite :=
  let p := partMask g i grp
  let rows := (List.range 32).map (fun l => if bit p l then f l else [])
  (List.range n).map (fun j => .vector (d + j) (p ||| zeroMask g i grp) (rows.map (fun r => tget 0 r j)))

/-- What a vector instruction names: groups of registers as (first, size), the destination among them (R131). -/
def vecUses (grp : Grp) (groups : List (Nat × Nat)) : Uses :=
  { Uses.vec (groups.flatMap (fun (r, n) => regGroup r n) ++ [.m grp.fields.mask.toNat]) with
    misaligned := groups.any (fun (r, n) => r % n != 0) }

/-- A vector instruction of the frame of R129 with a fixed latency (R63): the destination group `d` of `n` registers, its
other operand groups, and each lane's result. -/
def vecOp (grp : Grp) (latency d n : Nat) (srcs : List (Nat × Nat)) (f : State → Gang → Issue → Nat → List W32) (s : State) : Outcome :=
  execFixed grp latency (fun _ _ _ => vecUses grp ((d, n) :: srcs)) (fun s g i => vecWrites g i grp d n (f s g i)) s

/-- The register of the third source (R130). -/
def thirdReg (grp : Grp) (d : Nat) : Nat := if grp.fields.op4 = 0 then d else grp.fields.op4.toNat

/-- An integer element type: its width and whether it is signed (R78). -/
structure IntTy where
  w : Nat
  signed : Bool

/-- The integer type of a TYPE code (R70). -/
def intTyOf (code : Nat) : IntTy :=
  match code with
  | 2 => ⟨32, false⟩ | 3 => ⟨16, true⟩ | 4 => ⟨16, false⟩ | 5 => ⟨8, true⟩ | 6 => ⟨8, false⟩
  | 12 => ⟨64, true⟩ | 13 => ⟨64, false⟩ | _ => ⟨32, true⟩

/-- The TYPE in force: the prefix's, or the instruction's default (R54, R70). -/
def typeOf (grp : Grp) (default : Nat) : Nat := if grp.fields.typ = 0 then default else grp.fields.typ.toNat

/-- Registers of an operand of a TYPE code (R131). -/
def typeRegs (code : Nat) : Nat := if 12 ≤ code then 2 else 1

/-- The value of an element of an integer type. -/
def IntTy.val (t : IntTy) (e : Nat) : Int := if t.signed then sext t.w e else ((e % 2 ^ t.w : Nat) : Int)

/-- The value after the prefix's absolute value and negation, with wraparound (R55). -/
def IntTy.pre (t : IntTy) (abs neg : Bool) (e : Nat) : Int :=
  let x := t.val e
  let x := if abs then (x.natAbs : Int) else x
  t.val (wrapTo t.w (if neg then -x else x))

/-- An exact result as an element: wrapped, or clamped under SAT (R92, R134). -/
def IntTy.out (t : IntTy) (sat : Bool) (x : Int) : Nat := wrapTo t.w (if sat then clampInt t.w t.signed x else x)

/-- The floating-point format of a TYPE code (R70). -/
def fmtOf (code : Nat) : Fmt := match code with | 8 => fF16 | 9 => fBF16 | _ => fF32

/-- A float's bits after the prefix's absolute value and negation, which act on the sign bit (R55). -/
def preFloat (f : Fmt) (abs neg : Bool) (e : Nat) : Nat :=
  let e := if abs then e % f.signBit else e
  if neg then (if e < f.signBit then e + f.signBit else e - f.signBit) else e

/-- The rounding code in force (R54, R85). -/
def rndOf (grp : Grp) : Rnd := Rnd.of grp.fields.rnd.toNat

/-- `SEED` of a gang's launch (R256). -/
def State.seedOf (s : State) (g : Gang) : W64 := match s.launch? g.launch with | some l => l.word 2 | none => 0

/-- The global lane index of R87: the launched ancestor's `CREW` and `GANG.INDEX` with the origin lane. -/
def Gang.globalLane (g : Gang) (l : Nat) : W64 :=
  let (key, lane) := g.commitKey l
  w64 (tget 0 key 0 * 1024 + tget 0 key 1 * 32 + lane)

/-- The draw of a lane's result element `k` under `rsr` (R87). -/
def drawOf (s : State) (g : Gang) (i : Issue) (l k : Nat) : Nat :=
  rsrBits (s.seedOf g) (g.globalLane l) ((g.slot i.slotB).icnt.setWidth 64) (w64 k)

/-- The draw when the rounding code asks for one. -/
def drawIf (grp : Grp) (s : State) (g : Gang) (i : Issue) (l k : Nat) : Nat :=
  if grp.fields.rnd = 5 then drawOf s g i l k else 0

/-- An infinite result becomes the largest finite value of its sign under SAT (R141). -/
def satInf (f : Fmt) (sat : Bool) (code : Nat) : Nat :=
  if sat && code % f.signBit == f.infCode then code / f.signBit * f.signBit + f.maxCode else code

/-- A value rounded to a format by the group's rounding code and SAT (R85, R86, R141). -/
def roundTo (grp : Grp) (f : Fmt) (draw : Nat) (x : FVal) : Nat :=
  satInf f grp.fields.sat (x.round f (rndOf grp) grp.fields.sat draw)

end Sys2Proof.Machine
end

