-- ==== Sys2Proof/Machine/Convert.lean ====
section
/-! DEFINITION. Conversions (major `0x10`): R91, R145, R146. -/

namespace Sys2Proof.Machine

/-- A value as a conversion reads it: an integer, or a float with the width of its format (R91). -/
inductive Num where
  | int (x : Int)
  | float (bits : Nat) (x : FVal)

/-- Bits of an element type code of R71. -/
def codeWidth (ty : Nat) : Nat :=
  match ty with
  | 1 => 8 | 2 => 8 | 3 => 16 | 4 => 16 | 5 => 32 | 6 => 32 | 7 => 64 | 8 => 64
  | 0x10 => 16 | 0x11 => 16 | 0x14 => 8 | 0x15 => 8 | 0x16 => 4 | 0x17 => 8 | _ => 32

/-- The value of an element of a type code of R71. -/
def codeVal (ty x : Nat) : Num :=
  match ty with
  | 1 => .int (sext 8 x) | 2 => .int (x % 2 ^ 8 : Nat)
  | 3 => .int (sext 16 x) | 4 => .int (x % 2 ^ 16 : Nat)
  | 5 => .int (sext 32 x) | 6 => .int (x % 2 ^ 32 : Nat)
  | 7 => .int (sext 64 x) | 8 => .int (x % 2 ^ 64 : Nat)
  | 0x10 => .float 16 (fF16.val x) | 0x11 => .float 16 (fBF16.val x) | 0x14 => .float 8 (fE4M3.val x)
  | 0x15 => .float 8 (fE5M2.val x) | 0x16 => .float 4 (fE2M1.val x) | 0x17 => .float 8 (valE8M0 x)
  | _ => .float 32 (fF32.val x)

/-- A value converted to an integer type (R91). -/
def Num.toInt (x : Num) (rm : Rnd) (sat : Bool) (draw w : Nat) (signed : Bool) : Nat :=
  match x with
  | .int n => wrapTo w (if sat then clampInt w signed n else n)
  | .float _ v => wrapTo w (v.toInt rm draw w signed)

/-- A value converted to a floating-point format: exactly into a wider one, an infinity too (R86, R91). -/
def Num.toFloat (x : Num) (f : Fmt) (rm : Rnd) (sat : Bool) (draw : Nat) : Nat :=
  match x with
  | .int n => (FVal.ofInt n).round f rm sat draw
  | .float b v => if b < f.width then v.round f rm sat draw else v.convert f rm sat draw

/-- A conversion of one element of va to 32 bits (R145). -/
def vcvt1 (f : Grp → Nat → Num → Nat → Nat) (grp : Grp) (o : OpVC) (s : State) : Outcome :=
  let ty := o.ty.toNat
  vecOp grp 5 o.d.toNat 1 [(o.a.toNat, 1)]
    (fun s g i l =>
      let x := elem (codeWidth ty) (g.operand o.a.toNat 1 l) o.sel.toNat
      [w32 (f grp (drawIf grp s g i l 0) (codeVal ty x) x)]) s

/-- `vcvt.f`: to f32; an f32 source is copied (R145). -/
def execVcvtF (g : Grp) (o : OpVC) (s : State) : Outcome :=
  vcvt1 (fun grp r v x => if o.ty = 0x12 then x else
    match v with
    | .int n => (FVal.ofInt n).round fF32 (rndOf grp) false r
    | .float _ v => v.round fF32 (rndOf grp) false r) g o s
/-- `vcvt.i`: to i32 (R145). -/
def execVcvtI (g : Grp) (o : OpVC) (s : State) : Outcome :=
  vcvt1 (fun grp r v _ => v.toInt (rndOf grp) grp.fields.sat r 32 true) g o s
/-- `vcvt.n`: to n32 (R145). -/
def execVcvtN (g : Grp) (o : OpVC) (s : State) : Outcome :=
  vcvt1 (fun grp r v _ => v.toInt (rndOf grp) grp.fields.sat r 32 false) g o s

/-- A 32-bit source converted to an element of a packed TYPE (R145). -/
def packTo (grp : Grp) (draw code x : Nat) : Nat :=
  let sat := grp.fields.sat
  match code with
  | 3 => (Num.int (sext 32 x)).toInt .rne sat 0 16 true
  | 4 => (Num.int (x % 2 ^ 32 : Nat)).toInt .rne sat 0 16 false
  | 5 => (Num.int (sext 32 x)).toInt .rne sat 0 8 true
  | 6 => (Num.int (x % 2 ^ 32 : Nat)).toInt .rne sat 0 8 false
  | 8 => (fF32.val x).convert fF16 (rndOf grp) sat draw
  | 9 => (fF32.val x).convert fBF16 (rndOf grp) sat draw
  | 10 => (fF32.val x).convert fE4M3 (rndOf grp) sat draw
  | _ => (fF32.val x).convert fE5M2 (rndOf grp) sat draw

/-- `vcvt.pk16` (R145). -/
def execVcvtPk16 (g : Grp) (o : OpV3) (s : State) : Outcome :=
  vecOp g 5 o.d.toNat 1 [(o.a.toNat, 1), (o.b.toNat, 1)]
    (fun s x i l => outWords 1 (packElems 16 32 (fun k =>
      packTo g (drawIf g s x i l k) g.fields.typ.toNat (x.operand (if k = 0 then o.a.toNat else o.b.toNat) 1 l)))) s

/-- `vcvt.pk8` (R145). -/
def execVcvtPk8 (g : Grp) (o : OpV3) (s : State) : Outcome :=
  vecOp g 5 o.d.toNat 1 [(o.a.toNat, 2), (o.b.toNat, 2)]
    (fun s x i l => outWords 1 (packElems 8 32 (fun k =>
      packTo g (drawIf g s x i l k) g.fields.typ.toNat
        (x.operand ((if k < 2 then o.a.toNat else o.b.toNat) + k % 2) 1 l)))) s

/-- `vcvt.unpk`: two 8-bit elements, or the nibbles of a byte, to a 16-bit pair (R145). -/
def execVcvtUnpk (g : Grp) (o : OpVC) (s : State) : Outcome :=
  let ty := o.ty.toNat
  vecOp g 5 o.d.toNat 1 [(o.a.toNat, 1)]
    (fun _ x _ l => outWords 1 (packElems 16 32 (fun k =>
      match codeVal ty (elem (codeWidth ty) (x.operand o.a.toNat 1 l) (2 * o.sel.toNat + k)) with
      | .int n => wrapTo 16 n
      | .float _ v => v.round (fmtOf g.fields.typ.toNat) .rne false 0))) s

/-- `vcvt.bs`: the lanes of P as one block of e2m1 codes and a scale (R84, R146). -/
def execVcvtBs (g : Grp) (o : OpV2) (s : State) : Outcome :=
  vecOp g 5 o.d.toNat 1 [(o.a.toNat, 1)]
    (fun s x i l =>
      let p := partMask x i g
      let (scale, codes) := blockE2M1
        ((List.range 32).map (fun l => if bit p l then fF32.val (x.operand o.a.toNat 1 l) else .zero false)) (rndOf g)
        ((List.range 32).map (fun l => drawIf g s x i l 0))
      [w32 (tget 0 codes l + scale * 2 ^ 8)]) s

end Sys2Proof.Machine
end

