-- ==== Sys2Proof/Machine/Scratch.lean ====
section
/-! DEFINITION. The crew's scratchpad (major `0x1B`): R168, R169, with the crew's tiles (R23, R30 to R32). -/

namespace Sys2Proof.Machine

/-- The crew of a gang. -/
def State.crewOf (s : State) (g : Gang) : Option Crew := g.crewKey.bind (aget s.crews)

/-- Scratchpad tiles of the gang's crew (`CREWMAP.TCOUNT`); none without a crew. -/
def State.tcount (s : State) (g : Gang) : Nat := match s.crewOf g with | some c => c.tcount | none => 0

/-- The physical scratchpad tile of crew tile `n` (R30). -/
def State.physTile (s : State) (g : Gang) (n : Nat) : Nat := match s.crewOf g with | some c => c.tfirst + n | none => n

/-- Some lane's scratchpad address lies beyond the crew's tiles (R168). -/
def scratchBeyond (s : State) (g : Gang) (as : List (Nat × Nat)) : Bool := as.any (fun a => decide (4096 * s.tcount g ≤ a.2))

/-- Some lane's scratchpad address lies in an engine-owned tile (R32, R168). -/
def scratchOwned (s : State) (g : Gang) (as : List (Nat × Nat)) : Bool :=
  as.any (fun a => bit (s.core g.core).scratchOwn (s.physTile g (a.2 / 4096)))

/-- The byte of the core's scratchpad at a crew-relative offset. -/
def scratchKey (s : State) (g : Gang) (a : Nat) : Nat := 4096 * s.physTile g (a / 4096) + a % 4096

/-- A physical scratchpad tile is held by an unfinished `smma` of the gang's crew (R200). -/
def tileHeld (s : State) (g : Gang) (phys : Nat) : Bool :=
  (s.core g.core).ops.any (fun o => decide (some o.crewKey = g.crewKey) && o.tiles.contains phys)

/-- The accesses of a scratchpad instruction as one that is not yet performed, its addresses bytes of the core's scratchpad (R168,
R169). -/
def chipAccess (s : State) (g : Gang) (i : Issue) (size : Nat) (as : List (Nat × Nat)) (dest : LoadDest) : Load :=
  { pos := i.pos, slotB := i.slotB, pc := i.pc, kind := .scratch, size := size, atHome := false, onChip := true, passed := none,
    accesses := as.map (fun (l, a) => { lane := l, va := a, pa := scratchKey s g a, ms := false, uncached := true }), dest := dest }

/-- Every byte of a core's scratchpad. -/
def wholeScratch : List (Nat × Nat) := [(0, 786432)]

/-- The bytes that each lane stores (R166). -/
def storeBytes (g : Gang) (d size : Nat) : List (List Byte) := (List.range 32).map (laneBytes g d size)

/-- What a scratchpad instruction names and needs (R66, R168). -/
def scratchUses (size : Nat) (dest : Gang → LoadDest) (grp : Grp) (o : OpM) (s : State) (g : Gang) (i : Issue) : Uses :=
  let n := groupOf size
  let p := partMask g i grp
  let as := laneAddresses g i p o.sb o.vo
  let mis := anyMisaligned size as
  let beyond := scratchBeyond s g as
  { memUses grp (regGroup o.ds.toNat n) o.sb o.vo with
    misaligned := badGroup p o.ds.toNat n || mis
    perm := beyond
    owned := scratchOwned s g as
    atOnce := if s.loose then none else some (chipAccess s g i size as (dest g))
    site := if o.ds.toNat % n != 0 then (.none, 0)
      else if mis then misSite .scratch size as
      else if beyond then (.scratch, ((as.find? (fun a => decide (4096 * s.tcount g ≤ a.2))).getD (0, 0)).2)
      else match as.find? (fun a => bit (s.core g.core).scratchOwn (s.physTile g (a.2 / 4096))) with
        | some a => (.scratch, a.2) | none => (.none, 0) }

/-- A scratchpad load: each lane's value is written as the vector load of its size writes it (R168), at once or, while the
schedule keeps such accesses, when it is performed. -/
def scratchLoad (size : Nat) (grp : Grp) (o : OpM) (s : State) : Outcome :=
  let n := groupOf size
  let dest : LoadDest := .vector o.ds.toNat n false
  issue grp (scratchUses size (fun _ => dest) grp o)
    (fun s g i =>
      let c := s.core g.core
      let as := laneAddresses g i (partMask g i grp) o.sb o.vo
      let ld := chipAccess s g i size as dest
      let g1 := zeroGroup g o.ds.toNat n (zeroMask g i grp)
      if s.loose then retire s i { g1 with loads := g1.loads ++ [ld] }
      else retire s i (as.foldl (fun x (l, a) =>
        writeLoaded x i.slotB l (mreadBytes c.scratch (scratchKey s g a) size) dest) (g1.passLoads ld))) s

/-- A scratchpad store: each lane's bytes are written, lanes ascending (R168, R169), as for a load; on a tile that an `smma` reads
it waits (R200). -/
def scratchStore (size : Nat) (grp : Grp) (o : OpM) (s : State) : Outcome :=
  issue grp (scratchUses size (fun g => .store (storeBytes g o.ds.toNat size)) grp o)
    (fun s g i =>
      let c := s.core g.core
      let as := laneAddresses g i (partMask g i grp) o.sb o.vo
      let ld := chipAccess s g i size as (.store (storeBytes g o.ds.toNat size))
      if as.any (fun a => tileHeld s g (s.physTile g (a.2 / 4096))) then stall s i g
      else if s.loose then retire s i { g with loads := g.loads ++ [ld] }
      else
        let mem := as.foldl (fun m (l, a) => mwriteBytes m (scratchKey s g a) (laneBytes g o.ds.toNat size l)) c.scratch
        retire (s.setCore g.core { c with scratch := mem }) i (g.passLoads ld)) s

/-- `vlsp.8` (R168). -/
def execVlsp8 (g : Grp) (o : OpM) (s : State) : Outcome := scratchLoad 1 g o s
/-- `vlsp.32` (R168). -/
def execVlsp32 (g : Grp) (o : OpM) (s : State) : Outcome := scratchLoad 4 g o s
/-- `vlsp.64` (R168). -/
def execVlsp64 (g : Grp) (o : OpM) (s : State) : Outcome := scratchLoad 8 g o s
/-- `vlsp.128` (R168). -/
def execVlsp128 (g : Grp) (o : OpM) (s : State) : Outcome := scratchLoad 16 g o s
/-- `vssp.8` (R168, R169). -/
def execVssp8 (g : Grp) (o : OpM) (s : State) : Outcome := scratchStore 1 g o s
/-- `vssp.32` (R168, R169). -/
def execVssp32 (g : Grp) (o : OpM) (s : State) : Outcome := scratchStore 4 g o s
/-- `vssp.64` (R168, R169). -/
def execVssp64 (g : Grp) (o : OpM) (s : State) : Outcome := scratchStore 8 g o s
/-- `vssp.128` (R168, R169). -/
def execVssp128 (g : Grp) (o : OpM) (s : State) : Outcome := scratchStore 16 g o s

end Sys2Proof.Machine
end

