-- ==== Sys2Proof/Machine/Tiles.lean ====
section
/-! DEFINITION. Tiles, circular buffers and barriers of a gang's crew: names, owner bits and tile-state updates
(R23, R31 to R35, R173, R178, R179). -/

namespace Sys2Proof.Machine

/-- Accumulator tiles of the gang's crew (`CREWMAP.CCOUNT`). -/
def State.ccount (s : State) (g : Gang) : Nat := match s.crewOf g with | some c => c.ccount | none => 0
/-- The physical accumulator tile of crew tile `n` (R30). -/
def State.physAcc (s : State) (g : Gang) (n : Nat) : Nat := match s.crewOf g with | some c => c.cfirst + n | none => n
/-- The state with a crew changed. -/
def State.modCrew (s : State) (key : Nat) (f : Crew → Crew) : State :=
  match aget s.crews key with | some c => { s with crews := aput s.crews key (f c) } | none => s

/-- The tile that a code names, through its scalar register when it is indirect (R173). -/
def tileOf (g : Gang) (i : Issue) (t : BitVec 12) : Option (TileKind × Nat) :=
  match tileIndirect t with
  | some r =>
    let v := g.readS i.slotB r
    if v.toNat < 2 ^ 12 then tileCode (v.setWidth 12) else none
  | none => tileCode t

/-- A tile, buffer or barrier beyond the crew's allocation (R23). -/
def tileBeyond (s : State) (g : Gang) : TileKind × Nat → Bool
  | (.scratch, n) => decide (s.tcount g ≤ n)
  | (.acc, n) => decide (s.ccount g ≤ n)
  | (.reg, _) => false
  | (.buffer, _) => (s.crewOf g).isNone
  | (.barrier, _) => (s.crewOf g).isNone

/-- The owner bit of a tile (R31). -/
def tileOwned (s : State) (g : Gang) : TileKind × Nat → Bool
  | (.scratch, n) => bit (s.core g.core).scratchOwn (s.physTile g n)
  | (.acc, n) => bit (s.core g.core).accOwn (s.physAcc g n)
  | (.reg, n) => bit g.vtOwner n
  | _ => false

/-- Bit `n` of a word set to a value. -/
def setBitTo {w : Nat} (x : BitVec w) (n : Nat) (v : Bool) : BitVec w :=
  if v then x ||| BitVec.twoPow w n else x &&& ~~~BitVec.twoPow w n

/-- A core's physical scratchpad tiles get an owner bit. -/
def ownScratch (s : State) (core : Nat) (v : Bool) (tiles : List Nat) : State :=
  let c := s.core core
  s.setCore core { c with scratchOwn := tiles.foldl (fun x n => setBitTo x n v) c.scratchOwn }
/-- A core's physical accumulator tile gets an owner bit. -/
def ownAcc (s : State) (core n : Nat) (v : Bool) : State :=
  let c := s.core core
  s.setCore core { c with accOwn := setBitTo c.accOwn n v }
/-- A physical scratchpad tile gets a full bit (R31). -/
def setFull (s : State) (core n : Nat) (v : Bool) : State :=
  let c := s.core core
  s.setCore core { c with scratchFull := setBitTo c.scratchFull n v }

/-- The registers of a register tile (R31). -/
def vtRegs (n : Nat) : List Reg := (List.range 8).map (fun j => .v (8 * n + j))

/-- A matrix operation of the crew that names a tile is unfinished (R175, R200). -/
def tileBusy (s : State) (g : Gang) : TileKind × Nat → Bool
  | (.scratch, n) => tileHeld s g (s.physTile g n)
  | (.acc, n) => (s.core g.core).ops.any (fun o => decide (some o.crewKey = g.crewKey) && decide (o.c = s.physAcc g n))
  | _ => false

/-- What an instruction of major `0x1F` names with its tile code (R66, R173): its faults for a code it does not accept, for
a tile beyond the allocation, and, for an `access`, for an engine-owned tile. An indirect code is a value, so that what is
wrong with it stands where notes/assumptions/83.md puts it. An `access` comes after those of the gang to the tile (R175). -/
def tileUses (kinds : List TileKind) (access : Bool) (t : BitVec 12) (s : State) (g : Gang) (i : Issue) : Uses :=
  let direct := (tileIndirect t).isNone
  let base := Uses.of (match tileIndirect t with | some r => [.s r] | none => [])
  match tileOf g i t with
  | none => { base with illegal := direct, illegalState := !direct }
  | some x =>
    let bad := !kinds.contains x.1 || (x.1 == .reg && decide (g.vcount ≤ 8 * x.2 + 7))
    { base with
      illegal := direct && bad
      illegalState := !direct && bad
      named := if access && !bad && x.1 == .reg then vtRegs x.2 else []
      perm := tileBeyond s g x
      owned := access && tileOwned s g x
      chip := if access && x.1 == .scratch then [(4096 * s.physTile g x.2, 4096)] else [] }

/-- The results in flight to a register tile land: every earlier access to it is performed (R175). -/
def landTile (g : Gang) (n : Nat) : Gang := g.landIf (fun f => (vtRegs n).contains f.write.reg)

/-- Releases a tile to the engines (R175). -/
def releaseTile (s : State) (id : Nat) (g : Gang) : TileKind × Nat → State
  | (.scratch, n) => ownScratch s g.core true [s.physTile g n]
  | (.acc, n) => ownAcc s g.core (s.physAcc g n) true
  | (.reg, n) => s.modGang id (fun g => { g with vtOwner := setBitTo g.vtOwner n true })
  | _ => s

/-! Circular buffers (R34, R178, R179). -/

/-- A buffer that is not defined. -/
def CBuf.none : CBuf := { defined := false, first := 0, slots := 0, span := 0, free := 0, filled := 0, widx := 0, ridx := 0, held := [] }
/-- A crew's buffer. -/
def Crew.buf (c : Crew) (k : Nat) : CBuf := tget CBuf.none c.bufs k
/-- A crew with a buffer replaced. -/
def Crew.setBuf (c : Crew) (k : Nat) (b : CBuf) : Crew := { c with bufs := tset CBuf.none c.bufs k b }
/-- The crew tiles of `n` slots of a buffer from a slot on. -/
def CBuf.tiles (b : CBuf) (slot n : Nat) : List Nat :=
  (List.range n).flatMap (fun j => (List.range b.span).map (fun k => b.first + (slot + j) % b.slots * b.span + k))

/-- A copy command that advances a buffer of its crew (R216). -/
def Command.advances (c : Command) (k : Nat) : Bool :=
  (match c.kind with | .cpy => true | .cpyg => true | _ => false) && bit (tget 0 c.words 5) 20 && decide (bits (tget 0 c.words 5) 19 16 = k)

/-- The commands of a crew that have been sent or are held for a commit. -/
def crewCommands (s : State) (key : Nat) : List Command :=
  ((s.cmds.map (·.2)) ++ s.gangs.flatMap (fun (_, g) => g.entries.filterMap (fun e =>
    match e.kind with | .command _ c => some c | _ => none))).filter (fun c => c.crewKey == some key)

/-! Barriers (R35, R177, R263). -/

/-- The scope of a barrier: 0 core, 1 quad, 2 die, 3 package (R256). -/
def Launch.barrierScope (l : Launch) (k : Nat) : Nat := bits (l.word 0) (2 * k + 33) (2 * k + 32)

/-- Where a gang's barrier `k` lives: launch, scope, the crew, quad, die or package, and `k` (R263). -/
def barrierKey (s : State) (g : Gang) (k : Nat) : List Nat :=
  let scope := match s.launch? g.launch with | some l => l.barrierScope k | none => 0
  let c := match s.crewOf g with | some c => c.index | none => 0
  [g.launch, scope, (match scope with | 0 => c | 1 => g.core / 4 | 2 => g.core / 40 | _ => 0), k]

/-- A barrier as placement leaves it (R23). -/
def Barrier.fresh : Barrier := { gen := 0, latch := 0, arrived := 0 }
/-- A barrier. -/
def State.barrier (s : State) (key : List Nat) : Barrier := (aget s.barriers key).getD Barrier.fresh

end Sys2Proof.Machine
end

