-- ==== Sys2Proof/Machine/Matrix.lean ====
section
/-! DEFINITION. Matrix and sparse matrix operations (majors `0x20` to `0x22`) and the matrix array: R94 to R97, R184 to
R209. -/

namespace Sys2Proof.Machine

/-- The element type of a matrix form: integer, or a float with its group size G of R94. -/
inductive MatTy where
  | int
  | float (f : Fmt) (group : Nat)

/-- The shape of a form: element type, element width, K and the number of scale registers per operand (R187 to R189,
R196). -/
structure Shape where
  ty : MatTy
  w : Nat
  k : Nat
  scaled : Bool

/-- The shape of a form (R189, R196). -/
def MatForm.shape : MatForm → Shape
  | .dense 0 => ⟨.float fF16 4, 16, 16, false⟩
  | .dense 1 => ⟨.float fBF16 4, 16, 16, false⟩
  | .dense 2 => ⟨.float fE4M3 8, 8, 32, false⟩
  | .dense 3 => ⟨.float fE5M2 8, 8, 32, false⟩
  | .dense 4 => ⟨.float fE2M1 8, 4, 64, true⟩
  | .dense 5 => ⟨.int, 8, 32, false⟩
  | .dense _ => ⟨.float fF32 4, 32, 8, false⟩
  | .sparse 0 => ⟨.float fF16 4, 16, 16, false⟩
  | .sparse 1 => ⟨.float fBF16 4, 16, 16, false⟩
  | .sparse 2 => ⟨.float fE4M3 8, 8, 32, false⟩
  | .sparse _ => ⟨.int, 8, 32, false⟩
  | .zero => ⟨.int, 32, 0, false⟩

/-- The extents of an operation: EM, EN, EK and SAT (R186). -/
structure Extents where
  em : Nat
  en : Nat
  ek : Nat
  sat : Bool

/-- The extents in a scalar register (R186). -/
def extentsOf (v : W64) : Extents := { em := bits v 7 0, en := bits v 15 8, ek := bits v 23 16, sat := bit v 24 }

/-- The extents exceed the shape, or a reserved bit is set (R186). -/
def extentsIllegal (sh : Shape) (v : W64) : Bool :=
  let e := extentsOf v
  decide (16 < e.em) || decide (16 < e.en) || decide (sh.k < e.ek) || decide (bits v 63 25 ≠ 0) ||
    (e.sat && (match sh.ty with | .int => false | _ => true))

/-- The scalar register that a prefix names for the extents (R56). -/
def extentsReg (grp : Grp) : Nat := grp.fields.op4.toNat % 64

/-- The extents in force (R186). -/
def extents (g : Gang) (i : Issue) (grp : Grp) (sh : Shape) (o : OpX) : Extents :=
  if o.ext then extentsOf (g.readS i.slotB (extentsReg grp)) else { em := 16, en := 16, ek := sh.k, sat := false }

/-- The four registers of a fragment group. -/
def fragment (g : Gang) (v : BitVec 5) : List (List W32) := (List.range 4).map (fun r => g.row (4 * v.toNat + r))

/-- Element (line, k) of a fragment (R187). -/
def fragElem (rows : List (List W32)) (w line k : Nat) : Nat :=
  let e := 32 / w
  let h := k / (4 * e)
  let r := k % (4 * e) / e
  elem w (tget 0 (tget [] rows r) (line % 16 + 16 * h)).toNat (k % e)

/-! Sparse tiles (R194, R195). -/

/-- Bytes of a bitmap (R194). -/
def bitmapBytes (sh : Shape) : Nat := if sh.w = 16 then 32 else 64
/-- Bit (line, k) of a bitmap (R194). -/
def mapBit (sh : Shape) (m : List Byte) (line k : Nat) : Bool :=
  let b := line * sh.k + k
  bit (tget (0 : Byte) m (b / 8)) (b % 8)
/-- Set bits of a bitmap below bit `b` (R194). -/
def mapRank (m : List Byte) (b : Nat) : Nat := popcount b (ofBytes m)
/-- Bytes of a tile from SA to the end of its values (R194, R196). -/
def tileBytes (sh : Shape) (m : List Byte) : Nat := bitmapBytes sh + popcount (8 * bitmapBytes sh) (ofBytes m) * (sh.w / 8)
/-- Element (line, k) of a bitmap-compressed tile at a scratchpad byte offset read through `rd` (R194). -/
def tileElem (sh : Shape) (rd : Nat → Byte) (m : List Byte) (sa line k : Nat) : Nat :=
  if mapBit sh m line k then
    let a := sa + bitmapBytes sh + mapRank m (line * sh.k + k) * (sh.w / 8)
    ofBytes ((List.range (sh.w / 8)).map (fun j => rd (a + j)))
  else 0

/-- SA of a tile in lane 0 of an address group (R196). -/
def tileAddress (g : Gang) (v : BitVec 5) : Nat := bits (g.lane? (4 * v.toNat) 0) 19 0

/-- The scratchpad byte at a crew offset. -/
def crewByte (s : State) (g : Gang) (a : Nat) : Byte := mread (s.core g.core).scratch (scratchKey s g a)

/-- The bitmap at SA (R194). -/
def bitmapAt (s : State) (g : Gang) (sh : Shape) (sa : Nat) : List Byte := (List.range (bitmapBytes sh)).map (fun j => crewByte s g (sa + j))

/-- The crew tiles of `n` bytes from an offset. -/
def tilesSpanned (sa n : Nat) : List Nat := if n = 0 then [] else (List.range ((sa + n - 1) / 4096 - sa / 4096 + 1)).map (fun j => sa / 4096 + j)

/-- The bytes of the core's scratchpad of ranges of crew offsets; a crew's tiles follow one another (R30). -/
def chipRanges (s : State) (g : Gang) (rs : List (Nat × Nat)) : List (Nat × Nat) := rs.map (fun r => (scratchKey s g r.1, r.2))

/-! The arithmetic (R94 to R97, R190, R195, R197). -/

/-- `Prod(a, b)` (R94). -/
def matProd (a b : FVal) : FVal := if a.isZero || b.isZero then .zero false else a.mul b

/-- `ExactSum` of terms (R94). -/
def exactSum (l : List FVal) : FVal :=
  let pos := l.contains (.inf false)
  let neg := l.contains (.inf true)
  if l.any FVal.isNan || (pos && neg) then .canonical
  else if pos then .inf false
  else if neg then .inf true
  else match l.foldl (FVal.add .rne) (.zero false) with
    | .zero _ => .zero false
    | x => x

/-- The f32 word of an accumulation; NaN results are canonical (R94, R95). -/
def accumulate (acc : W32) (s : FVal) : W32 :=
  match (valF32 acc).add .rne s with
  | .nan _ _ => 0x7FC00000
  | x => roundF32 x .rne 0

/-- The groups of R94 over terms, `n` of them from `k` on. -/
def groupsFrom (group : Nat) (term : Nat → FVal) (ek : Nat) : (n k : Nat) → W32 → W32
  | 0, _, acc => acc
  | n + 1, k, acc =>
    let ks := ((List.range group).map (fun j => k + j)).filter (fun k => decide (k < ek))
    groupsFrom group term ek n (k + group) (accumulate acc (exactSum (ks.map term)))

/-- The value of an element's bits, negated or scaled (R83, R191). -/
def matVal (f : Fmt) (neg : Bool) (scale : Option Nat) (x : Nat) : FVal :=
  let v := match scale with | some s => blockVal s x | none => f.val x
  if neg then v.neg else v

/-- Every NaN output is the canonical NaN (R95). -/
def canonNan (w : W32) : W32 := match valF32 w with | .nan _ _ => 0x7FC00000 | _ => w

/-- An element of D from C's word (R94, R95, R97, R190); with no group it is C's word, a NaN made canonical, or +0 under `zc`
(R407; notes/assumptions/27.md). -/
def matElem (sh : Shape) (o : MatOp) (ea eb : Nat → Nat) (sca scb : Nat → Option Nat) (c : W32) : W32 :=
  match sh.ty with
  | .int =>
    let sgn (neg : Bool) (x : Nat) : Int := if neg then -(sext 8 x) else sext 8 x
    let x := (List.range o.ek).foldl (fun x k => x + sgn o.na (ea k) * sgn o.nb (eb k)) (if o.zc then 0 else c.toInt)
    w32 (wrapTo 32 (if o.sat then clampInt 32 true x else x))
  | .float f group =>
    let acc : W32 := if o.zc then 0 else c
    canonNan (groupsFrom group (fun k => matProd (matVal f o.na (sca k) (ea k)) (matVal f o.nb (scb k) (eb k))) o.ek
      ((o.ek + group - 1) / group) 0 acc)

/-- A stored element of a float form is not zero. -/
def Shape.nonzero (sh : Shape) (x : Nat) : Bool := match sh.ty with | .float f _ => !(f.val x).isZero | .int => decide (x ≠ 0)

/-- The word of an operation's result at (i, j), from the word of C (R190, R197, R207). The bits of a sparse result are those that R96 fixes: the
dense result of the same values, whose groups that hold no issued pair change nothing, but for a C of -0 that takes no nonzero product,
which becalmed mode alone turns to +0 (notes/assumptions/86.md). -/
def opElem (o : MatOp) (rd : Nat → Byte) (i j : Nat) (c : W32) : W32 :=
  let sh := o.word.shape
  match o.word with
  | .zero => 0
  | .dense _ =>
    let scale (rows : List W32) (line k : Nat) : Option Nat :=
      if sh.scaled then some (bits (tget 0 rows (line % 16 + 16 * (k / 32))) 7 0) else none
    matElem sh o (fragElem o.a sh.w i) (fragElem o.b sh.w j) (scale o.sa i) (scale o.sb j) c
  | .sparse _ =>
    let x := tileElem sh rd o.ma o.ta i
    let y := tileElem sh rd o.mb o.tb j
    if !o.becalm && !o.zc && decide (c = 0x80000000) && (List.range o.ek).all (fun k => !(sh.nonzero (x k) && sh.nonzero (y k))) then c
    else matElem sh o x y (fun _ => none) (fun _ => none) c

/-- The byte of element (i, j) of a physical accumulator tile (R37). -/
def accKey (tile i j : Nat) : Nat := 1024 * tile + 4 * (16 * i + j)

/-- The accumulator file after an operation: the EM by EN corner of its tile is written (R190). -/
def opWrites (o : MatOp) (rd : Nat → Byte) (acc : Memory) : Memory :=
  (List.range o.em).foldl (fun m i =>
    (List.range o.en).foldl (fun m j =>
      mwriteNat m (accKey o.c i j) 4 (opElem o rd i j (w32 (mreadNat acc (accKey o.c i j) 4))).toNat) m) acc

/-- Issued pairs of a sparse operation, its TOTAL (R195, R202, R203). -/
def opPairs (o : MatOp) : Nat :=
  let sh := o.word.shape
  if o.becalm then 256 * sh.k
  else (List.range o.em).foldl (fun n i => (List.range o.en).foldl (fun n j =>
    n + ((List.range o.ek).filter (fun k => mapBit sh o.ma i k && mapBit sh o.mb j k)).length) n) 0

/-! Issue (R184 to R186, R196, R198 to R200, R208). -/

/-- The registers of a group. -/
def groupRegs (v : BitVec 5) (n : Nat) : List Reg := (List.range n).map (fun j => .v (4 * v.toNat + j))

/-- An operation of a gang's form with its inputs as they stand (R199). -/
def newOp (s : State) (g : Gang) (pc : W64) (form : MatForm) (o : OpX) (e : Extents) : MatOp :=
  let sh := form.shape
  let sparse := match form with | .sparse _ => true | _ => false
  let ta := tileAddress g o.va
  let tb := tileAddress g o.vb
  let ma := if sparse then bitmapAt s g sh ta else []
  let mb := if sparse then bitmapAt s g sh tb else []
  { num := s.serial, gang := none, batch := g.batch + 1, pc := pc, slotNo := g.slotNo, crewKey := g.crewKey.getD 0, word := form, c := s.physAcc g o.c.toNat,
    na := o.na, nb := o.nb, zc := o.zc, becalm := (s.ctx (spaceKey g.part g.aspace)).becalm, em := e.em, en := e.en, ek := e.ek, sat := e.sat,
    a := if sparse then [] else fragment g o.va, b := if sparse then [] else fragment g o.vb,
    sa := if sh.scaled then g.row (4 * o.va.toNat + 4) else [], sb := if sh.scaled then g.row (4 * o.vb.toNat + 4) else [],
    ta := if sparse then scratchKey s g ta else 0, tb := if sparse then scratchKey s g tb else 0, ma := ma, mb := mb,
    tiles := if sparse then (tilesSpanned ta (tileBytes sh ma) ++ tilesSpanned tb (tileBytes sh mb)).map (s.physTile g) else [],
    started := false, stopping := false, issued := 0, total := 0 }

/-- The array is full (R198). -/
def arrayFull (s : State) (core : Nat) : Bool := decide (64 ≤ (s.core core).ops.length)

/-- The operation enters the array, in order of issue (R198). -/
def enterArray (s : State) (core : Nat) (o : MatOp) : State :=
  let c := s.core core
  { s.setCore core { c with ops := c.ops ++ [o] } with serial := s.serial + 1 }

/-- What an `mma` names and needs (R185, R186). -/
def mmaUses (form : MatForm) (grp : Grp) (o : OpX) (s : State) (g : Gang) (i : Issue) : Uses :=
  let sh := form.shape
  let n := if sh.scaled then 5 else 4
  { Uses.of ((if o.ext then [.s (extentsReg grp)] else []) ++ groupRegs o.va n ++ groupRegs o.vb n) with
    illegalState := g.b.live || (o.ext && extentsIllegal sh (g.readS i.slotB (extentsReg grp)))
    perm := decide (s.ccount g ≤ o.c.toNat)
    owned := tileOwned s g (.acc, o.c.toNat) }

/-- What an `smma` names and needs (R185, R186, R196). -/
def smmaUses (form : MatForm) (grp : Grp) (o : OpX) (s : State) (g : Gang) (i : Issue) : Uses :=
  let sh := form.shape
  let ta := tileAddress g o.va
  let tb := tileAddress g o.vb
  let na := tileBytes sh (bitmapAt s g sh ta)
  let nb := tileBytes sh (bitmapAt s g sh tb)
  let mis := decide (ta % 32 ≠ 0) || decide (tb % 32 ≠ 0)
  let out (a n : Nat) : Bool := decide (4096 * s.tcount g < a + n)
  { Uses.of ((if o.ext then [.s (extentsReg grp)] else []) ++ [.v (4 * o.va.toNat), .v (4 * o.vb.toNat)]) with
    named := groupRegs o.va 4 ++ groupRegs o.vb 4
    illegalState := g.b.live || (o.ext && extentsIllegal sh (g.readS i.slotB (extentsReg grp)))
    chip := wholeScratch
    misaligned := mis
    perm := decide (s.ccount g ≤ o.c.toNat) || out ta na || out tb nb
    owned := tileOwned s g (.acc, o.c.toNat) ||
      (tilesSpanned ta na ++ tilesSpanned tb nb).any (fun t => tileOwned s g (.scratch, t))
    site := if ta % 32 ≠ 0 then (.scratch, ta) else if tb % 32 ≠ 0 then (.scratch, tb)
      else if out ta na then (.scratch, ta) else if out tb nb then (.scratch, tb) else (.none, 0) }

/-- Issues a matrix operation: it enters the array, or waits while the array is full (R198, R208). -/
def matrixIssue (form : MatForm) (uses : State → Gang → Issue → Uses) (grp : Grp) (o : OpX) (s : State) : Outcome :=
  issue grp uses
    (fun s g i =>
      if arrayFull s g.core then stall s i g
      else enterArray (retire s i g) g.core { newOp s g i.pc form o (extents g i grp form.shape o) with gang := some i.id }) s

/-- A dense product (R189, R190). -/
def mma (func : Nat) (g : Grp) (o : OpX) (s : State) : Outcome := matrixIssue (.dense func) (mmaUses (.dense func) g o) g o s
/-- A sparse product (R196, R197). -/
def smma (func : Nat) (g : Grp) (o : OpX) (s : State) : Outcome := matrixIssue (.sparse func) (smmaUses (.sparse func) g o) g o s

/-- `mma.f16` (R189). -/
def execMmaF16 (g : Grp) (o : OpX) (s : State) : Outcome := mma 0 g o s
/-- `mma.bf16` (R189). -/
def execMmaBf16 (g : Grp) (o : OpX) (s : State) : Outcome := mma 1 g o s
/-- `mma.e4m3` (R189). -/
def execMmaE4m3 (g : Grp) (o : OpX) (s : State) : Outcome := mma 2 g o s
/-- `mma.e5m2` (R189). -/
def execMmaE5m2 (g : Grp) (o : OpX) (s : State) : Outcome := mma 3 g o s
/-- `mma.e2m1` (R188, R189). -/
def execMmaE2m1 (g : Grp) (o : OpX) (s : State) : Outcome := mma 4 g o s
/-- `mma.i8` (R189, R192). -/
def execMmaI8 (g : Grp) (o : OpX) (s : State) : Outcome := mma 5 g o s
/-- `mma.f32` (R189). -/
def execMmaF32 (g : Grp) (o : OpX) (s : State) : Outcome := mma 6 g o s
/-- `smma.f16` (R196). -/
def execSmmaF16 (g : Grp) (o : OpX) (s : State) : Outcome := smma 0 g o s
/-- `smma.bf16` (R196). -/
def execSmmaBf16 (g : Grp) (o : OpX) (s : State) : Outcome := smma 1 g o s
/-- `smma.e4m3` (R196). -/
def execSmmaE4m3 (g : Grp) (o : OpX) (s : State) : Outcome := smma 2 g o s
/-- `smma.i8` (R196). -/
def execSmmaI8 (g : Grp) (o : OpX) (s : State) : Outcome := smma 3 g o s

/-! Fragment loads and accumulator transfers (R204 to R207). -/

/-- OFFSET of a fragment descriptor (R204). -/
def fragOffset (v : W64) : Nat := bits v 19 0
/-- STRIDE of a fragment descriptor (R204). -/
def fragStride (v : W64) : Nat := bits v 39 24
/-- WIDTH of a fragment descriptor as bits per element (R204). -/
def fragWidth (v : W64) : Nat := match bits v 42 40 with | 0 => 32 | 1 => 16 | 2 => 8 | _ => 4

/-- The source rows that a fragment load reads: start and length (R205). -/
def fragRows (transposed : Bool) (v : W64) : List (Nat × Nat) :=
  if transposed then (List.range (256 / fragWidth v)).map (fun k => (fragOffset v + k * fragStride v, 2 * fragWidth v))
  else (List.range 16).map (fun r => (fragOffset v + r * fragStride v, 32))

/-- The reads of a fragment load as one access, which is performed as it issues (R169, R205; notes/assumptions/17.md). -/
def fragLoad (transposed : Bool) (o : OpCGA) (s : State) (g : Gang) (i : Issue) : Load :=
  let rows := fragRows transposed (g.readS i.slotB o.a.toNat)
  chipAccess s g i ((rows.map (·.2)).headD 0) (rows.zipIdx.map (fun (r, j) => (j, r.1))) (.vector (4 * o.g.toNat) 4 false)

/-- What `mld` or `mldt` names and needs (R204, R205). -/
def mldUses (transposed : Bool) (o : OpCGA) (s : State) (g : Gang) (i : Issue) : Uses :=
  let v := g.readS i.slotB o.a.toNat
  let rows := fragRows transposed v
  let align := if transposed && fragWidth v == 4 then 8 else 16
  let mis := decide (fragOffset v % align ≠ 0) || decide (fragStride v % align ≠ 0)
  let beyond := rows.any (fun r => decide (4096 * s.tcount g < r.1 + r.2))
  { Uses.of ((.s o.a.toNat) :: groupRegs o.g 4) with
    chip := chipRanges s g rows
    atOnce := some (fragLoad transposed o s g i)
    illegalState := g.b.live || decide (bits v 23 20 ≠ 0) || decide (bits v 63 43 ≠ 0) ||
      (if transposed then decide (3 < bits v 42 40) else decide (bits v 42 40 ≠ 0))
    misaligned := mis
    perm := beyond
    owned := rows.any (fun r => (tilesSpanned r.1 r.2).any (fun t => tileOwned s g (.scratch, t)))
    site := if mis || beyond then (.scratch, fragOffset v) else (.none, 0) }

/-- The word of register `r` in lane `l` of a fragment load (R205). -/
def fragWord (s : State) (g : Gang) (transposed : Bool) (v : W64) (r l : Nat) : W32 :=
  if transposed then
    let w := fragWidth v
    let e := 32 / w
    w32 (packElems w 32 (fun q =>
      let k := l / 16 * (4 * e) + r * e + q
      let bitPos := (l % 16) * w
      let row := fragOffset v + k * fragStride v
      ofBytes ((List.range (max 1 (w / 8))).map (fun j => crewByte s g (row + bitPos / 8 + j))) / 2 ^ (bitPos % 8)))
  else
    let a := fragOffset v + l % 16 * fragStride v + 16 * (l / 16) + 4 * r
    w32 (ofBytes ((List.range 4).map (fun j => crewByte s g (a + j))))

/-- The four registers that a fragment load writes, all 32 lanes whatever the mask (R184, R205). -/
def fragWrites (transposed : Bool) (o : OpCGA) (s : State) (g : Gang) (i : Issue) : List RegWrite :=
  let v := g.readS i.slotB o.a.toNat
  (List.range 4).map (fun r => .vector (4 * o.g.toNat + r) 0xFFFFFFFF ((List.range 32).map (fun l => fragWord s g transposed v r l)))

/-- A fragment load, an access of the scratchpad that the gang's fences order (R169, R205). -/
def fragmentLoad (transposed : Bool) (g : Grp) (o : OpCGA) (s : State) : Outcome :=
  issue g (mldUses transposed o)
    (fun s x i => retire s i ((x.passLoads (fragLoad transposed o s x i)).landAll i.slotB (fragWrites transposed o s x i))) s

/-- `mld` (R205). -/
def execMld (g : Grp) (o : OpCGA) (s : State) : Outcome := fragmentLoad false g o s
/-- `mldt` (R205). -/
def execMldt (g : Grp) (o : OpCGA) (s : State) : Outcome := fragmentLoad true g o s

/-- What an accumulator transfer names and needs (R204). -/
def accUses (regs : List Reg) (k : BitVec 6) (s : State) (g : Gang) (_ : Issue) : Uses :=
  { Uses.of regs with
    illegalState := g.b.live
    perm := decide (s.ccount g ≤ k.toNat)
    owned := tileOwned s g (.acc, k.toNat) }

/-- The element of an accumulator tile that register `r` holds in lane `l` (R206). -/
def accElem (tile r l : Nat) : Nat := accKey tile (l % 16) (8 * (l / 16) + r)

/-- `mrd`: waits for the crew's operations on the tile, then reads it (R206). -/
def execMrd (g : Grp) (o : OpCVK) (s : State) : Outcome :=
  issue g (accUses (vtRegs o.n.toNat) o.k)
    (fun s x i =>
      if tileBusy s x (.acc, o.k.toNat) then stall s i x
      else
        let m := (s.core x.core).acc
        let tile := s.physAcc x o.k.toNat
        retire s i (x.landAll i.slotB ((List.range 8).map (fun r =>
          .vector (8 * o.n.toNat + r) 0xFFFFFFFF ((List.range 32).map (fun l => w32 (mreadNat m (accElem tile r l) 4))))))) s

/-- `mwr`: waits for the crew's operations on the tile, then writes it (R206). -/
def execMwr (g : Grp) (o : OpCVK) (s : State) : Outcome :=
  issue g (accUses (vtRegs o.n.toNat) o.k)
    (fun s x i =>
      if tileBusy s x (.acc, o.k.toNat) then stall s i x
      else
        let c := s.core x.core
        let tile := s.physAcc x o.k.toNat
        let m := (List.range 8).foldl (fun m r => (List.range 32).foldl (fun m l =>
          mwriteNat m (accElem tile r l) 4 (x.lane? (8 * o.n.toNat + r) l).toNat) m) c.acc
        retire (s.setCore x.core { c with acc := m }) i x) s

/-- `mzero` enters the array as an operation (R207). -/
def execMzero (g : Grp) (o : OpCK) (s : State) : Outcome :=
  matrixIssue .zero (accUses [] o.k) g
    { na := false, nb := false, zc := true, c := o.k, va := 0, vb := 0, ext := false } s

/-! The array's steps (R198 to R203). -/

/-- A core with one of its operations replaced or removed. -/
def setOp (s : State) (core index : Nat) (o : Option MatOp) : State :=
  let c := s.core core
  s.setCore core { c with ops := match o with
    | some x => c.ops.set index x
    | none => c.ops.eraseIdx index }

/-- The index of the first operation that has not started (R198). -/
def firstUnstarted (ops : List MatOp) : Option (Nat × MatOp) := (ops.zipIdx.find? (fun (o, _) => !o.started)).map (fun (o, i) => (i, o))

/-- The partition of a core; die 0's while no layout is in force. -/
def corePart (s : State) (core : Nat) : Nat := (stackPart s (2 * (core / 40))).1

/-- The array of a core stands still: its partition's squall line is asserted (R355). -/
def arrayStops (s : State) (core : Nat) : Bool := (s.part (corePart s core)).asserted

/-- An operation that completes as it starts: it has no element, and no becalmed mode gives it the time of one (R407). -/
def emptyOp (o : MatOp) : Bool := !o.becalm && (decide (o.em = 0) || decide (o.en = 0)) && (match o.word with | .zero => false | _ => true)

/-- The array starts its next operation, whose TOTAL is set (R198, R202, R407). -/
def execMatrixOperationStart (core : Nat) (s : State) : Outcome :=
  if arrayStops s core then .next s
  else match firstUnstarted (s.core core).ops with
  | some (i, o) => .next (setOp s core i (if emptyOp o then none
      else some { o with started := true, total := match o.word with | .sparse _ => opPairs o | _ => 0 }))
  | none => .next s

/-- The next pre-emption point of an operation (R202). -/
def nextPoint (o : MatOp) : Option Nat := let p := (o.issued / 64 + 1) * 64; if p < o.total then some p else none

/-- The operation must stop at its next pre-emption point: a pre-emption removes its crew, and 256 pairs or more are left there
(R202). -/
def mustStop (o : MatOp) : Bool := o.stopping && (match nextPoint o with | some p => decide (256 ≤ o.total - p) | none => false)

/-- The operation may complete now (R199, R202): started, after the earlier operations on its tile, and not bound to stop. -/
def mayComplete (ops : List MatOp) (index : Nat) (o : MatOp) : Bool :=
  o.started && (ops.take index).all (fun p => decide (p.c ≠ o.c)) && !mustStop o

/-- An operation completes: its D writes are done (R201). -/
def execMatrixOperationCompletion (core op : Nat) (s : State) : Outcome :=
  let c := s.core core
  match c.ops[op]? with
  | some o =>
    if mayComplete c.ops op o && !arrayStops s core then
      .next (setOp (s.setCore core { c with acc := opWrites o (mread c.scratch) c.acc }) core op none)
    else .next s
  | none => .next s

/-- A pre-emption point is reached: ISSUED stands at the next multiple of 64, and an operation that a pre-emption stops
goes (R202). One that may pass the point does so by `arrayIssues`. -/
def execPreemptionPoint (core op : Nat) (s : State) : Outcome :=
  match (s.core core).ops[op]? with
  | some o =>
    (match nextPoint o with
     | some p =>
       if o.started && !arrayStops s core then .next (setOp s core op (if o.stopping then none else some { o with issued := p }))
       else .next s
     | none => .next s)
  | none => .next s

/-- A started sparse operation issues `n` pairs more, as far as it may go on (R202; notes/assumptions/28.md). -/
def arrayIssues (s : State) (core op n : Nat) : State :=
  match (s.core core).ops[op]? with
  | some o =>
    if o.started && !arrayStops s core then
      let last := match nextPoint o with | some p => if mustStop o then p - 1 else o.total | none => o.total
      setOp s core op (some { o with issued := max o.issued (min (o.issued + n) last) })
    else s
  | none => s

/-- The EM by EN corner of an operation's tile with no known value: free values. -/
def opLoses (tick : Nat) (o : MatOp) (acc : Memory) : Memory :=
  (List.range o.em).foldl (fun m i =>
    (List.range o.en).foldl (fun m j =>
      mwriteBytes m (accKey o.c i j) ((List.range 4).map (fun k => Config.freeByte tick (4 * (16 * i + j) + k)))) m) acc

/-- The record of an operation's error, d0 to d6 (R346), with a free value for the physical address that on-chip memory does
not have. -/
def arrayRecord (s : State) (core : Nat) (o : MatOp) (aspace : Nat) (offset : Option Nat) : List W64 :=
  let kind : AccessKind := match offset with | some _ => .scratch | none => .none
  let detail := ofBytes ((List.range 8).map (Config.freeByte (s.tick + 1)))
  match o.gang.bind (aget s.gangs) with
  | some g => gangRecord s g false o.pc .eccUncorr { FaultInfo.plain with kind := kind, va := offset.getD 0, detail := detail }
  | none =>
    [ w64 (FaultClass.eccUncorr.code + kind.code * 2 ^ 8 + aspace * 2 ^ 16 + core / 40 * 2 ^ 24 + core % 40 * 2 ^ 26 + o.slotNo * 2 ^ 32),
      o.pc, w64 (offset.getD 0), 0, 0, 0, w64 detail ]

/-- An uncorrectable error in the scratchpad or the accumulator file, met by a started operation: the operation ends, its D
has no known value, and the error is reported in its context (chapter 7, Faults; R345, R346; notes/assumptions/30.md). -/
def arrayError (s : State) (core op : Nat) (offset : Option Nat) : State :=
  let c := s.core core
  match c.ops[op]? with
  | none => s
  | some o =>
    match o.started, s.launch? (o.crewKey / 2 ^ 32) with
    | true, some l =>
      let words := arrayRecord s core o l.aspace offset
      let s1 := setOp (s.setCore core { c with acc := opLoses s.tick o c.acc }) core op none
      let s2 := postRecord s1 l.part (core / 40) { owner := .none, aspace := l.aspace, cls := .eccUncorr, words := words, task := o.gang }
      queueCause s2 l.part { cls := .eccUncorr, aspace := l.aspace, words := words, gang := o.gang }
    | _, _ => s

/-- A copy that has a follow-on operation still to issue (R221). -/
def Command.follows (c : Command) : Bool :=
  (match c.kind with | .cpy => true | .cpyg => true | _ => false) && bit (tget 0 c.words 5) 23 && !c.landed

/-- The batch count that has completed (R208): the batches before the oldest that holds an unfinished operation, or a copy, sent,
held for the commit or left in it, with a follow-on operation. -/
def batchesDone (s : State) (id : Nat) (g : Gang) : W32 :=
  let ops := ((s.core g.core).ops.filter (fun o => o.gang == some id)).map (·.batch)
  let sent := (s.cmds.filter (fun c => c.2.gang == some id && c.2.follows)).map (·.2.batch)
  let left := (s.acks.flatMap (·.pending)).filterMap (fun x => if x.1 = id then some x.2 else none)
  let held := (g.entries ++ left).filterMap (fun e => match e.kind with | .command _ c => if c.follows then some c.batch else none | _ => none)
  (ops ++ sent ++ held).foldl (fun done b => if (g.batch - b).toNat < 2 ^ 31 ∧ (done - b).toNat < 2 ^ 31 then b - 1 else done) g.batch

end Sys2Proof.Machine
end

