-- ==== Sys2Proof/Machine/Watch.lean ====
section
/-! DEFINITION. What a waiting step and a launch wait for: dependence descriptors, START, and their tests, made after every write at a
home (R181 to R183, R256, R257, R262). -/

namespace Sys2Proof.Machine

/-! Dependence descriptors (R181). -/

/-- A descriptor. -/
inductive Dep where
  | always
  | tile (t : TileKind × Nat) (test : Nat)
  | cbuf (k : Nat) (free : Bool) (n : Nat)
  | batch (n : W32)
  | barrier (k : Nat) (gen : W32)
  /-- Test: 0 not equal, 1 equal, 2 at least. -/
  | watch (test va size : Nat) (v : W64)
  | join (va : Nat)

/-- The one-word descriptors of a word (R181). -/
def depOne (w : W64) : Option Dep :=
  match bits w 63 60 with
  | 0 => if bits w 59 0 = 0 then some .always else none
  | 1 =>
    if bits w 59 14 = 0 ∧ bits w 13 12 < 3 then
      match tileCode (w.setWidth 12) with
      | some (.scratch, n) => some (.tile (.scratch, n) (bits w 13 12))
      | some (.acc, n) => if bits w 13 12 = 2 then some (.tile (.acc, n) 2) else none
      | some (.reg, n) => if bits w 13 12 = 2 then some (.tile (.reg, n) 2) else none
      | _ => none
    else none
  | 2 => if bits w 7 5 = 0 ∧ bits w 59 15 = 0 ∧ bits w 14 8 ≠ 0 then some (.cbuf (bits w 3 0) (bit w 4) (bits w 14 8)) else none
  | 3 => if bits w 59 32 = 0 then some (.batch (w.setWidth 32)) else none
  | 4 => if bits w 15 4 = 0 ∧ bits w 59 48 = 0 then some (.barrier (bits w 3 0) (w32 (bits w 47 16))) else none
  | 8 => if bits w 59 57 = 0 then some (.join (bits w 56 0)) else none
  | _ => none

/-- The watch of two words (R181). -/
def depTwo (w v : W64) : Option Dep :=
  let k := bits w 63 60
  if 5 ≤ k ∧ k ≤ 7 ∧ bits w 59 59 = 0 ∧ bits w 58 57 < 2 ∧ (bits w 58 57 = 1 ∨ bits v 63 32 = 0) then
    some (.watch (k - 5) (bits w 56 0) (if bits w 58 57 = 0 then 4 else 8) v)
  else none

/-- The descriptors of words in order; none if one is malformed (R183). -/
def parseDeps : List W64 → Option (List Dep)
  | [] => some []
  | [w] => (depOne w).map (fun d => [d])
  | w :: v :: rest =>
    if 5 ≤ bits w 63 60 ∧ bits w 63 60 ≤ 7 then
      match depTwo w v, parseDeps rest with | some d, some ds => some (d :: ds) | _, _ => none
    else match depOne w, parseDeps (v :: rest) with | some d, some ds => some (d :: ds) | _, _ => none

/-- The word a descriptor watches: its address and size. -/
def Dep.site : Dep → Option (Nat × Nat)
  | .watch _ va size _ => some (va, size)
  | .join va => some (va, 8)
  | _ => none

/-- A descriptor is `DEP_INVALID` for this gang (R183). -/
def Dep.invalid (s : State) (g : Gang) : Dep → Bool
  | .tile (.reg, n) _ => decide (g.vcount ≤ 8 * n + 7)
  | .cbuf k _ n => match s.crewOf g with | some c => !(c.buf k).defined || decide ((c.buf k).slots < n) | none => false
  | .batch n => decide (2 ^ 31 ≤ (g.batch - n).toNat)
  | _ => false

/-- A descriptor names something beyond the crew's allocation (R183). -/
def Dep.beyond (s : State) (g : Gang) : Dep → Bool
  | .tile (.reg, _) _ => false
  | .tile t _ => tileBeyond s g t
  | .cbuf _ _ _ => (s.crewOf g).isNone
  | .barrier _ _ => (s.crewOf g).isNone
  | _ => false

/-- The physical address of a watched word, if its page is resident and readable now (R182). -/
def watchAddress (s : State) (g : Gang) (va : Nat) : Option Nat :=
  match (s.gangXlate g va .read).2 with | .ok pa _ => some pa | _ => none

/-- The value of a watched word: committed, at its home; a host word as last read (R182). -/
def watchWord (s : State) (g : Gang) (host : List (Nat × W64)) (va size : Nat) : Option Nat :=
  match watchAddress s g va with
  | none => none
  | some pa =>
    if aperture pa = 2 then (aget host va).map (·.toNat)
    else if s.unreachable pa || s.refuses pa || s.trains pa || s.bad (memKey g.part pa) then none
    else some (mreadNat s.mem (memKey g.part pa) size)

/-- A descriptor holds (R181). -/
def Dep.holds (s : State) (id : Nat) (g : Gang) (host : List (Nat × W64)) : Dep → Bool
  | .always => true
  | .tile (.scratch, n) 0 => bit (s.core g.core).scratchFull (s.physTile g n)
  | .tile (.scratch, n) 1 => !bit (s.core g.core).scratchFull (s.physTile g n)
  | .tile t _ => !tileOwned s g t
  | .cbuf k free n => match s.crewOf g with
    | some c => let b := c.buf k; b.defined && decide (n ≤ (if free then b.free else b.filled))
    | none => false
  | .batch n => decide ((batchesDone s id g - n).toNat < 2 ^ 31)
  | .barrier k gen =>
    let d := ((s.barrier (barrierKey s g k)).gen - gen).toNat
    decide (1 ≤ d) && decide (d ≤ 2 ^ 31)
  | .watch test va size v => match watchWord s g host va size with
    | some w => (match test with | 0 => decide (w ≠ v.toNat) | 1 => decide (w = v.toNat) | _ => decide (v.toNat ≤ w))
    | none => false
  | .join va => watchWord s g host va 8 == some 0

/-- Every descriptor of a waiting step holds (R182). -/
def allHold (s : State) (id : Nat) (g : Gang) (w : Waiting) : Bool :=
  (match parseDeps w.descriptors with | some ds => ds.all (Dep.holds s id g w.host) | none => false) &&
    (match w.barrier with
     | some (key, gen) => let d := ((s.barrier key).gen - gen).toNat; decide (1 ≤ d) && decide (d ≤ 2 ^ 31)
     | none => true)

/-- The host words that descriptors watch, read now (R182). -/
def hostWords (s : State) (g : Gang) (ds : List Dep) : List (Nat × W64) :=
  ds.filterMap (fun d => match d.site with
    | some (va, size) => (match watchAddress s g va with
      | some pa => if aperture pa = 2 then some (va, w64 (mreadNat s.mem pa size)) else none
      | none => none)
    | none => none)

/-- Tests a waiting step; a test that finds every descriptor holding stands (R182). -/
def testGang (s : State) (id : Nat) (g : Gang) : Gang :=
  match g.phase with
  | .waiting w => if !w.held && !(s.part g.part).asserted && allHold s id g w then { g with phase := .waiting { w with held := true } } else g
  | _ => g

/-- Tests every waiting step, as states change (R182). -/
def retest (s : State) : State :=
  { s with gangs := s.gangs.map (fun (id, g) => (id, match g.phase with | .waiting _ => testGang s id g | _ => g)) }

/-! START (R181, R182, R256, R262). -/

/-- START as a descriptor; none if it is malformed (R257, reason 5). -/
def Launch.start (l : Launch) : Option Dep :=
  match bits (l.word 12) 63 60 with
  | 0 => if l.word 12 = 0 ∧ l.word 13 = 0 then some .always else none
  | 8 => if l.word 13 = 0 then depOne (l.word 12) else none
  | _ => depTwo (l.word 12) (l.word 13)

/-- START is misaligned (R257). -/
def Dep.misaligned (d : Dep) : Bool := match d.site with | some (va, size) => decide (va % size ≠ 0) | none => false

/-- A word satisfies a watch or join (R181). -/
def Dep.admits : Dep → Nat → Bool
  | .watch 0 _ _ v, w => decide (w ≠ v.toNat)
  | .watch 1 _ _ v, w => decide (w = v.toNat)
  | .watch _ _ _ v, w => decide (v.toNat ≤ w)
  | .join _, w => decide (w = 0)
  | .always, _ => true
  | _, _ => false

/-- A front end meets an error as it makes an access for a context: a fatal fault of that context (R345, R346; notes/assumptions/91.md). -/
def unitError (s : State) (part aspace die : Nat) (cls : FaultClass) (kind : AccessKind) (va detail : Nat) : State :=
  let words := [ w64 (cls.code + kind.code * 2 ^ 8 + aspace * 2 ^ 16 + die * 2 ^ 24), 0, w64 va, 0, 0, 0, w64 detail ]
  queueCause (postRecord s part die { owner := .none, aspace := aspace, cls := cls, words := words }) part
    { cls := cls, aspace := aspace, words := words, gang := none }

/-- START meets an error as it is read: a fault of kind watch or walk (R182, R341, R375, R378; notes/assumptions/91.md). -/
def startError (s : State) (l : Launch) (cls : FaultClass) (kind : AccessKind) (va detail : Nat) : State :=
  unitError s l.part l.aspace l.die cls kind va detail

/-- START is tested (R262): its word is read at its home; a host word at `periodic` tests only, when a translation that it waits for
is asked for (R182, R328, R344). -/
def startTest (s : State) (l : Launch) (periodic : Bool) : State × Bool :=
  match l.start with
  | none => (s, false)
  | some d => match d.site with
    | none => (s, true)
    | some (va, size) =>
      match s.xlate l.part l.aspace l.die va .read with
      | (s1, .ok pa _) =>
        let key := memKey l.part pa
        if aperture pa = 2 then (s1, periodic && d.admits (mreadNat s1.mem pa size))
        else if s1.unreachable pa then (startError s1 l .eccUncorr .watch va pa, false)
        else if s1.refuses pa then (startError s1 l .xlatPerm .watch va 0, false)
        else if s1.trains pa then (s1, false)
        else (match (if aperture pa = 0 then s1.badUnit key size else none) with
          | some u => (startError (logUnit s1 l.part u) l .eccUncorr .watch va (homePA l.part (32 * u)), false)
          | none => let s2 := correctUnits s1 l.part key size; (s2, d.admits (mreadNat s2.mem key size)))
      | (s1, .ecc key) => (startError (logUncorr s1 l.part (homePA l.part key)) l .eccUncorr .walk va (homePA l.part key / 32 * 32), false)
      | (s1, .hostWait page write pri) => (if periodic then hostAsk s1 l.part l.aspace page write pri none else s1, false)
      | (s1, _) => (s1, false)

/-- START is still to be tested: its partition runs, and its context has no fatal fault (R262, R355). -/
def Launch.tests (s : State) (l : Launch) : Bool :=
  !l.started && !(s.part l.part).asserted && !(s.part l.part).heldFaults.any (fun c => decide (c.aspace = l.aspace))

/-- STARTs of launches are tested; a test in which one holds stands (R182, R262). -/
def testStarts (s : State) (periodic : Launch → Bool) : State :=
  s.launches.foldl (fun s (n, l) =>
    if l.tests s then
      match startTest s l (periodic l) with
      | (s1, true) => s1.modLaunch n (fun l => { l with started := true })
      | (s1, false) => s1
    else s) s

/-! When tests are made (R182). -/

/-- The word of a launch's START is read at its home by its front end: what that may not find undone comes first (R303, R314). -/
def observeStart (s : State) (l : Launch) : State :=
  match l.start.bind Dep.site with
  | some (va, size) => (match (s.xlate l.part l.aspace l.die va .read).2 with
    | .ok pa _ => observe s (.unit l.die none) none (memKey l.part pa) size false
    | _ => s)
  | none => s

/-- Watched words are read at their homes: what a scheduler may not find undone comes first (R303, R314). -/
def observeWatches (s : State) : State :=
  if s.calm then s
  else
    let s1 := s.gangs.foldl (fun s (_, g) => match g.phase with
      | .waiting w => (((parseDeps w.descriptors).getD []).filterMap Dep.site).foldl (fun s x => match watchAddress s g x.1 with
        | some pa => observe s (s.partyOf g) none (memKey g.part pa) x.2 false
        | none => s) s
      | _ => s) s
    s1.launches.foldl (fun s (_, l) => if l.started then s else observeStart s l) s1

/-- Tests every waiting step and every START against memory as it stood after an earlier write (R182): what holds there stands. -/
def testPast (periodic : Launch → Bool) (s : State) (m : Memory) : State :=
  let t := { s with mem := m }
  { s with
    gangs := (retest t).gangs
    launches := s.launches.map (fun ((n, l) : Nat × Launch) => (n, if l.tests s && (startTest t l (periodic l)).2 then { l with started := true } else l)) }

/-- Tests every waiting step and every START, against memory as it stood after each write since the last tests, and as it is (R182). -/
def testAll (s : State) (periodic : Launch → Bool) : State :=
  let s1 := observeWatches s
  let s2 := s1.past.foldl (testPast periodic) { s1 with past := [] }
  testStarts (retest s2) periodic

/-- The tests that follow a change of state, if any step or START waits. -/
def testSteps (s : State) : State := if s.waits then testAll s (fun _ => false) else s

end Sys2Proof.Machine
end

