-- ==== Sys2Proof/Machine/Commit.lean ====
section
/-! DEFINITION. Commits: domain instances, and the performing of the entries of their quanta, whole or piece by piece (R116, R171,
R298, R301 to R306, R312, R355, R360, R368, R389). -/

namespace Sys2Proof.Machine

/-- The crews of the instance of a crew: those of its round that share its unit (R301). -/
def Launch.instCrews (l : Launch) (nc c : Nat) : List Nat :=
  let n := l.k * nc
  ((List.range n).map (fun j => c / n * n + j)).filter (fun x => decide (x < l.crews) && decide (l.instOf nc x = l.instOf nc c))

/-- The index of the oldest uncommitted quantum of an instance (R302). -/
def Launch.quantum (l : Launch) (inst : Nat) : Nat := (aget l.quanta inst).getD 0

/-! Performing entries. -/

/-- Performs an entry of commit `k` that acts on no address: work is queued, a command is sent, and answers wait for the end of
the commit (R211, R241, R302). A fence has been recorded at the start of the commit (R174). -/
def performOther (s : State) (k id : Nat) (e : Entry) : State :=
  match aget s.gangs id with
  | none => s
  | some g =>
    let d := s.die g.die
    match e.kind with
    | .spawn item =>
      if 15 < item.generation then s.modAck k (fun a => { a with answers := a.answers ++ [(tget (0, 0) g.rays 0, 4, 0, 0)] })
      else
        sealTask ((markCreated (s.setDie g.die { d with spawns := d.spawns ++ [{ item with key := e.key ++ [g.spawned] }] }) g).modGang id
          (fun g => { g with spawned := g.spawned + 1 })) id
    | .launch words =>
      sealTask (s.setDie g.die { d with launches := d.launches ++ [{ part := g.part, aspace := g.aspace, words := words }] }) id
    | .command n c => { s with cmds := s.cmds ++ [(n, { c with sealed := g.sealed })] }
    | .answers list => s.modAck k (fun a => { a with answers := a.answers ++ list })
    | .items list => markCreated (s.setDie g.die { d with items := d.items ++ list }) g
    | _ => s

/-- The entry waits for a port that retrains (R381). -/
def Entry.awaitsPort (s : State) (e : Entry) : Bool := e.global && e.sites.any (fun z => s.trains z.2.1)

/-- Performs entry `x` of commit `k`, and whether it could be: at a home, after what its gang may not find undone there, and what waits is
tested (R182, R302, R303, R309). -/
def performEntry (s : State) (k : Nat) (x : Nat × Entry) : State × Bool :=
  if x.2.awaitsPort s then (s, false)
  else if x.2.global then
    let s1 := testSteps (takeEntry (fun s p key n => observe s p (some k) key n true) s k x)
    match performGlobal s1 x.1 x.2 with
    | (s2, true) => (testSteps (s2.modAck k (·.did x (peerWrites s1 x))), true)
    | (s2, false) => (s2.modAck k (·.putBack x), false)
  else (performOther (s.modAck k (·.take x)) k x.1 x.2, true)

/-- Entry `x` is among those left in commit `k`. -/
def State.leftIn (s : State) (k : Nat) (x : Nat × Entry) : Bool := match s.acks[k]? with | some a => a.pending.contains x | none => false

/-- Performs entries of commit `k` in order, those that are still left, to the first that could not be. -/
def performEntries (s : State) (k : Nat) : List (Nat × Entry) → State
  | [] => s
  | x :: rest =>
    if s.leftIn k x then
      match performEntry s k x with
      | (s1, true) => performEntries s1 k rest
      | (s1, false) => s1
    else performEntries s k rest

/-- The entries of a gang's quantum: all of them at the task's end, else those not held back (R116). -/
def Gang.quantum (g : Gang) : List Entry := if g.phase == .ended then g.entries else g.entries.filter (fun e => !e.heldBack)
/-- The entries that stay in the buffer. -/
def Gang.kept (g : Gang) : List Entry := if g.phase == .ended then [] else g.entries.filter Entry.heldBack

/-- Returning values land and the pending bits clear (R22, R171); one for s62 sets the mask of slot A (notes/assumptions/97.md). -/
def Gang.landReturns (g : Gang) : Gang :=
  { g.landAll false g.returns with returns := [], pendV := 0, pendS := 0 }

/-- Returning values of gangs land. -/
def landMembers (s : State) : List Nat → State
  | [] => s
  | id :: rest => landMembers (s.modGang id Gang.landReturns) rest

/-- The launched gangs of a crew, with their names. -/
def crewGangs (s : State) (launch c : Nat) : List (Nat × Gang) :=
  s.gangs.filter (fun x => x.2.crewKey == some (crewKeyOf launch c))

/-- A gang has ended its step of index `d` or its task at that index or below (R302). -/
def Gang.endedStep (g : Gang) (d : Nat) : Bool :=
  match g.phase with
  | .running => false
  | .waiting _ => decide (g.detstep.toNat = d + 1)
  | .ended => true

/-- The gang's entries belong to quantum `d`. -/
def Gang.inQuantum (g : Gang) (d : Nat) : Bool :=
  match g.phase with
  | .running => false
  | .waiting _ => decide (g.detstep.toNat = d + 1)
  | .ended => decide (g.detstep.toNat = d)

/-- Every launched gang of the crews has ended its step of index `d` or its task (R302). -/
def crewsEnded (s : State) (launch : Nat) (l : Launch) (d : Nat) (crews : List Nat) : Bool :=
  crews.all (fun c => !l.again.contains c &&
    (l.released.contains c || (l.placed.contains c && (crewGangs s launch c).all (fun x => x.2.endedStep d))))

/-! Invalidation of SCENE lines (R389). -/

/-- The other members of a partition's octet (R384). -/
def octetOthers (s : State) (part : Nat) : List Nat :=
  let c := (s.part part).octCfg
  if bit c 0 then (dedup ((List.range 8).map (fun k => bits c (21 + 6 * k) (16 + 6 * k)))).filter (fun m => decide (m ≠ s.pkg.number)) else []

/-- Lines not yet invalidated everywhere: invalidations are sent for them, and the writer waits. -/
def sceneReady (s : State) (lines : List Nat) : Bool :=
  lines.all (fun k => s.pkg.sceneWrites.any (fun w => decide (w.line = k) && w.members.isEmpty))
/-- Sends the invalidations of lines. -/
def sceneAsk (s : State) (part : Nat) (lines : List Nat) : State :=
  let new := (dedup lines).filter (fun k => !s.pkg.sceneWrites.any (fun w => decide (w.line = k)))
  let s1 := { s with pkg := { s.pkg with sceneWrites := s.pkg.sceneWrites ++ new.map (fun k => { line := k, members := octetOthers s part }) } }
  (new.flatMap (fun _ => octetOthers s part)).foldl (fun s m => s.linkSend m 0 0) s1
/-- The local SCENE lines that entries write, when other members may hold copies (R389). -/
def sceneLines (s : State) (part : Nat) (es : List Entry) : List Nat :=
  if (octetOthers s part).isEmpty then []
  else dedup ((es.filter (fun e => e.global && e.scene && decide (aperture e.pa = 0))).flatMap (fun e => e.sites.map (fun x => memKey part x.2.1 / 128)))

/-! Commits. -/

/-- The packages whose homes a commit writes, and whether it writes host memory (R312). -/
def commitTargets (es : List Entry) : List Nat × Bool :=
  (dedup (((es.filter Entry.global).flatMap Entry.sites).filterMap (fun x => if aperture x.2.1 = 1 then some (peerPkg x.2.1) else none)),
   es.any (fun e => e.global && decide (aperture e.pa = 2)))

/-- A commit is complete: returning values land, answers are on their way to their rays (R241, R368), and a domain instance goes on
to its next quantum (R302); a detached task that has ended frees its slot. -/
def finishCommit (s : State) (a : Ack) : State :=
  let s1 := landMembers { s with answers := s.answers ++ a.answers } a.members
  match a.gang with
  | some id => match aget s1.gangs id with
    | some g => if g.crewKey.isNone && g.phase == .ended then { s1 with gangs := adel s1.gangs id } else s1
    | none => s1
  | none => s1.modLaunch a.launch (fun l => { l with quanta := aput l.quanta a.inst (l.quantum a.inst + 1) })

/-- Nothing is left to perform or to acknowledge, and the commit does not pause (R302, R312, R355, R368). -/
def Ack.complete (s : State) (a : Ack) : Bool := a.pending.isEmpty && a.packages.isEmpty && !a.host && !commitHalts s a

/-- Commit `k` is over once every entry has been performed and nothing more must acknowledge it; once every entry has been, none is early,
and its SCENE lines may be read (R302, R303, R312, R389). -/
def closeCommit (s : State) (k : Nat) : State :=
  match s.acks[k]? with
  | some a =>
    if a.complete s then finishCommit (sceneDone { s with acks := s.acks.eraseIdx k } a.scene) a
    else if a.pending.isEmpty then sceneDone (s.setAck k { a with early := [], scene := [] }) a.scene else s
  | none => s

/-- Commit `k` performs all that is left of it. -/
def runCommit (s : State) (k : Nat) : State :=
  match s.acks[k]? with
  | none => s
  | some a => closeCommit (performEntries s k a.pending) k

/-- A piece of commit `k`: entry `j` of those left is performed, after those that must come before it (R303). -/
def performPiece (s : State) (k j : Nat) : State :=
  match s.acks[k]? with
  | none => s
  | some a =>
    if commitHalts s a then s
    else match a.pending[j]? with
      | none => closeCommit s k
      | some x => closeCommit (performEntries s k (a.pending.filter (fun y => (a.closure s a.pending.length [x]).contains y))) k

/-- A store left in commit `k` is performed in two parts, at an aligned 8-byte boundary of which the first ends after `n` bytes: nothing holds
the bytes of a wider store together, and those of each such doubleword are written as one (R303, R317, R341; notes/assumptions/98.md). -/
def splitPiece (s : State) (k j n : Nat) : State :=
  s.modAck k (fun a => match a.pending[j]? with
    | some (id, e) => (match e.kind with
      | .store data =>
        if 0 < n ∧ n < data.length ∧ (e.pa + n) % 8 = 0 then
          { a with pending := a.pending.take j ++ [(id, { e with kind := .store (data.take n) }),
              (id, { e with va := e.va + n, pa := e.pa + n, kind := .store (data.drop n) })] ++ a.pending.drop (j + 1) }
        else a
      | _ => a)
    | none => a)

/-- The entries of gangs in commit order (R303). -/
def commitList (gs : List (Nat × Gang)) : List (Nat × Entry) :=
  sortBy (fun (x y : Nat × Entry) => x.2.before y.2) (gs.flatMap (fun (id, g) => g.quantum.map (fun e => (id, e))))

/-- The fences in the quantum of gangs (R174). -/
def commitFences (gs : List (Nat × Gang)) : List (Nat × Pos × Nat × Nat) :=
  gs.flatMap (fun (id, g) => g.quantum.filterMap (fun e =>
    match e.kind with | .fence kind scope => some (id, e.pos, kind.toNat, scope.toNat) | _ => none))

/-- A commit before it begins: of an instance, or of one task. -/
def Ack.new (launch inst : Nat) (gang : Option Nat) : Ack :=
  { launch := launch, inst := inst, gang := gang, pending := [], fences := [], early := [], answers := [], packages := [], host := false,
    members := [], writes := [] }

/-- Begins the commit of the quantum of gangs, and performs it unless it pauses or the schedule performs it by pieces; it is
complete once other packages and the host have acknowledged its writes (R302, R312; notes/assumptions/17.md). -/
def commitGangs (s : State) (a : Ack) (gs : List (Nat × Gang)) : State :=
  let list := commitList gs
  let (packages, host) := commitTargets (list.map (·.2))
  let s1 := gs.foldl (fun s (id, g) => s.setGang id { g with entries := g.kept }) s
  let a := { a with
    pending := list.filter (fun x => match x.2.kind with | .fence _ _ => false | _ => true), fences := commitFences gs
    packages := packages.filter (fun p => (s.routePort p).isSome), host := host, members := gs.map (·.1) }
  let s2 := { s1 with acks := s1.acks ++ [a] }
  if s.loose || commitHalts s a then s2 else runCommit s2 s1.acks.length

/-- A commit of gangs, once the SCENE lines it writes are invalidated in the octet (R389). -/
def commitOrAsk (s : State) (part : Nat) (a : Ack) (gs : List (Nat × Gang)) : State :=
  let lines := sceneLines s part (gs.flatMap (fun x => x.2.quantum))
  if lines.isEmpty then commitGangs s a gs
  else if sceneReady s lines then commitGangs s { a with scene := lines } gs
  else sceneAsk s part lines

/-- A detached task, or a launched task run again below its instance's oldest uncommitted quantum, commits at its own step
end (R305, R306). -/
def commitsAlone (s : State) (g : Gang) : Bool :=
  g.crewKey.isNone || (g.rerun && (match s.launch? g.launch with
    | some l => decide ((match g.phase with | .ended => g.detstep.toNat | _ => g.detstep.toNat - 1) < l.quantum (gangInst s g))
    | none => false))

/-- A gang's commit is unfinished. -/
def State.acking (s : State) (id : Nat) : Bool := s.acks.any (fun a => a.gang == some id || a.members.contains id)

/-- The gang's own commit at its step end, where it commits alone. -/
def commitAlone (s : State) (id : Nat) : State :=
  match aget s.gangs id with
  | some g =>
    if commitsAlone s g && g.phase != .running then
      commitOrAsk s g.part (.new g.launch (gangInst s g) (some id)) [(id, g)]
    else s
  | none => s

/-- The instance of a crew may commit its oldest quantum (R302, R355, R360). -/
def mayCommit (s : State) (launch : Nat) (l : Launch) (crew : Nat) : Bool :=
  let nc := coresOf s l.part
  let inst := l.instOf nc crew
  let d := l.quantum inst
  let crews := l.instCrews nc crew
  crewsEnded s launch l d crews && !(s.part l.part).asserted && !(s.ctx (spaceKey l.part l.aspace)).torn &&
    !s.acks.any (fun a => decide (a.launch = launch) && decide (a.inst = inst) && a.gang.isNone) &&
    crews.any (fun c => (crewGangs s launch c).any (fun x => x.2.inQuantum d))

/-- The commit of an instance that has begun and can go on. -/
def unfinished (s : State) (launch inst : Nat) : Option Nat :=
  s.acks.findIdx? (fun a => decide (a.launch = launch) && decide (a.inst = inst) && a.gang.isNone && (!a.pending.isEmpty || a.complete s))

/-- `QUANTUM_COMMIT`: the oldest quantum of the instance of a crew is performed, or what is left of it (R302, R303). -/
def execQuantumCommit (launch crew : Nat) (s : State) : Outcome :=
  match s.launch? launch with
  | none => .next s
  | some l =>
    let nc := coresOf s l.part
    let inst := l.instOf nc crew
    if mayCommit s launch l crew then
      let gs := (l.instCrews nc crew).flatMap (fun c => (crewGangs s launch c).filter (fun x => x.2.inQuantum (l.quantum inst)))
      .next (commitOrAsk s l.part (.new launch inst none) gs)
    else match unfinished s launch inst with
      | some k => .next (if (s.acks[k]?).any (commitHalts s) then s else runCommit s k)
      | none => .next s

/-- The oldest commit that `p` selects is changed by `f`, and closed if that was the last it waited for. -/
def ackFirst (p : Ack → Bool) (f : Ack → Ack) (s : State) : State :=
  match s.acks.findIdx? p with
  | some k => closeCommit (s.modAck k f) k
  | none => s

/-- The waits of the instance of a crew. -/
def ackOf (s : State) (launch crew : Nat) (a : Ack) : Bool :=
  decide (a.launch = launch) && (match s.launch? launch with
    | some l => decide (a.inst = l.instOf (coresOf s l.part) crew) | none => false)

/-- A message of class 0 to a package waits at a port, or has not been acknowledged there (R381). -/
def unsent (s : State) (package : Nat) : Bool :=
  s.pkg.ports.any (fun x => (x.2.queue ++ x.2.buffer).any (fun f => decide (f.dest = package) && f.cls == 0))

/-- `PEER_ACKNOWLEDGEMENT`: a package, which has all that was sent to it, has acknowledged the oldest commit of the instance that waits for it (R302, R312). -/
def execPeerAcknowledgement (launch crew package : Nat) (s : State) : Outcome :=
  .next (if unsent s package then s
    else ackFirst (fun a => ackOf s launch crew a && a.pending.isEmpty && a.packages.contains package)
      (fun a => { a with packages := a.packages.filter (· ≠ package) }) s)

/-- `FLUSHING_READ_COMPLETION`: the writes of the oldest commit of the instance that waits for it have reached host memory
(R312). -/
def execFlushingReadCompletion (launch crew : Nat) (s : State) : Outcome :=
  .next (ackFirst (fun a => ackOf s launch crew a && a.pending.isEmpty && a.host) (fun a => { a with host := false }) s)

end Sys2Proof.Machine
end

