-- ==== Sys2Proof/Machine/Control.lean ====
section
/-! DEFINITION. Branches, calls, and structured divergence (majors `0x04`, `0x05`, `0x07`, and `ret`): R104 to R112. -/

namespace Sys2Proof.Machine

/-! Branches (R104, R105). -/

/-- A branch taken when `p` holds of A. -/
def branchIf (p : W64 → Bool) (g : Grp) (o : OpFBS) (s : State) : Outcome :=
  issue g (fun _ _ _ => Uses.of [.s o.a.toNat])
    (fun s x i => retireTo s i (if p (x.readS i.slotB o.a.toNat) then branchTarget g i o.off else i.next) x) s

/-- `br` (R104). -/
def execBr (g : Grp) (o : OpFB) (s : State) : Outcome :=
  issue g (fun _ _ _ => Uses.of []) (fun s x i => retireTo s i (branchTarget g i o.off) x) s

/-- `call`: `s61` receives the address of the `call` word plus 4 (R104). -/
def execCall (g : Grp) (o : OpFB) (s : State) : Outcome :=
  issue g (fun _ _ _ => Uses.of [.s 61])
    (fun s x i => retireTo s i (branchTarget g i o.off) (x.writeS i.slotB 61 (i.wordPc + 4))) s

/-- `brz`: taken when A is 0 (R104). -/
def execBrz (g : Grp) (o : OpFBS) (s : State) : Outcome := branchIf (fun a => a == 0) g o s
/-- `brnz`: taken when A is not 0 (R104). -/
def execBrnz (g : Grp) (o : OpFBS) (s : State) : Outcome := branchIf (fun a => a != 0) g o s
/-- `brn`: taken when A[63] is 1 (R104). -/
def execBrn (g : Grp) (o : OpFBS) (s : State) : Outcome := branchIf (fun a => bit a 63) g o s
/-- `brnn`: taken when A[63] is 0 (R104). -/
def execBrnn (g : Grp) (o : OpFBS) (s : State) : Outcome := branchIf (fun a => !bit a 63) g o s

/-- `ret`: the PC becomes A[56:2] * 4 (R105). -/
def execRet (g : Grp) (o : OpCA) (s : State) : Outcome :=
  issue g (fun _ _ _ => Uses.of [.s o.a.toNat])
    (fun s x i => retireTo s i (w64 (bits (x.readS i.slotB o.a.toNat) 56 2 * 4)) x) s

/-! Structured divergence (R107 to R112). -/

/-- The lanes `l` removed from an entry's masks (the Cut of R109). -/
def StackEntry.cut (l : W32) : StackEntry → StackEntry
  | .ifE sv el cur st => .ifE (sv &&& ~~~l) (el &&& ~~~l) (cur &&& ~~~l) st
  | .loopE sv cur ct => .loopE sv (cur &&& ~~~l) ct

/-- The stack holds a `LOOP` entry (R109). -/
def inLoop : List StackEntry → Bool
  | [] => false
  | .loopE _ _ _ :: _ => true
  | .ifE _ _ _ _ :: t => inLoop t

/-- Cuts lanes from the entries down to the innermost `LOOP`, or from the whole stack without one (R109). -/
def cutStack (l : W32) : List StackEntry → List StackEntry
  | [] => []
  | .loopE sv cur ct :: t => (StackEntry.loopE sv cur ct).cut l :: t
  | e :: t => e.cut l :: cutStack l t

/-- Adds lanes to the innermost `LOOP`'s waiting lanes (R109). -/
def addWaiting (l : W32) : List StackEntry → List StackEntry
  | [] => []
  | .loopE sv cur ct :: t => .loopE sv cur (ct ||| l) :: t
  | e :: t => e :: addWaiting l t

/-- The mask of the current side or iteration on top of a stack (R109). -/
def topCur (dflt : W32) : List StackEntry → W32
  | [] => dflt
  | .ifE _ _ cur _ :: _ => cur
  | .loopE _ cur _ :: _ => cur

/-- One more entry fits on the slot's mask stack: on chip, or in what the context has left of its private region (R26). -/
def stackFits (s : State) (g : Gang) (slotB : Bool) : Bool :=
  decide ((g.slot slotB).stack.length < 8) ||
    decide (regionUse s g.part g.aspace none + Config.stackEntry ≤ regionBytes (s.ctx (spaceKey g.part g.aspace)))

/-- A reconvergence point at a position: a fence of kind `ar` and scope `.core` for the gang's unbuffered accesses (R300). -/
def Gang.reconverge (g : Gang) (pos : Pos) : Gang := { g with order := g.order ++ [(pos, 0, 0)] }

/-- The gang with its slot's mask and stack replaced. -/
def Gang.setMask (g : Gang) (slotB : Bool) (mask : W32) (stack : List StackEntry) : Gang :=
  g.setSlot slotB { g.slot slotB with mask := mask, stack := stack }

/-- A fault found by a structured opcode: no effect (R106, R109). -/
def structFault (s : State) (i : Issue) (cls : FaultClass) : State :=
  raiseFault s i.id i.slotB i.pc cls FaultInfo.plain i.pos false

/-- Starts slot B at a label with the else-side lanes: its first unit comes after the `if` and its stall count (R27, R62, R108, R109). -/
def Gang.startB (g : Gang) (i : Issue) (label : W64) (mask : W32) : Gang :=
  { g with
    b := { Slot.idle with
      live := true, pc := label, mask := mask, path := i.pos ++ [1], icnt := g.a.icnt + 1, dist := i.nextDist, haz := g.a.haz
      since := i.cycle, ready := i.cycle + (i.nextDist - i.dist) }
    a := { g.a with path := i.pos ++ [0] }
    bStart := mask, bCount := g.a.icnt + 1, cb := 0, cn := 0
    flight := g.flight.map (fun f => { f with shared := true }) }

/-- `if mk, label` (R109). -/
def execOpIf (g : Grp) (o : OpFIf) (s : State) : Outcome :=
  issue g (fun _ _ _ => Uses.vec [.m o.m.toNat])
    (fun s x i =>
      if !stackFits s x i.slotB then structFault s i .stackOverflow
      else
        let sl := x.slot i.slotB
        let c := x.readM o.m.toNat
        let t := sl.mask &&& c
        let e := sl.mask &&& ~~~c
        let label := branchTarget g i o.off
        if !i.slotB && !x.b.live && t != 0 && e != 0 then
          retire s i ((x.startB i label e).setMask false t (.ifE sl.mask 0 t .split :: sl.stack))
        else
          retireTo s i (if t = 0 then label else i.next) (x.setMask i.slotB t (.ifE sl.mask e t .thenSide :: sl.stack))) s

/-- `else label` (R109). -/
def execOpElse (g : Grp) (o : OpFLab) (s : State) : Outcome :=
  issue g (fun _ _ _ => Uses.vec [])
    (fun s x i =>
      let label := branchTarget g i o.off
      match (x.slot i.slotB).stack with
      | [] => if i.slotB then retire s i x else structFault s i .illegalOp
      | .ifE sv el _ st :: t =>
        match st with
        | .elseSide => structFault s i .illegalOp
        | .split => retireTo s i label x
        | .thenSide => retireTo s i (if el = 0 then label else i.next) (x.setMask i.slotB el (.ifE sv el el .elseSide :: t))
      | .loopE _ _ _ :: _ => structFault s i .illegalOp) s

/-- Slot B retires at its closing `endif`: its results land, and its lanes wait for slot A (R109). -/
def Gang.retireB (g : Gang) : Gang :=
  let g1 := g.landIf (fun f => f.slotB)
  { g1 with b := Slot.idle, joining := (g1.cb, g1.cn, g1.b.icnt - g1.bCount) :: g1.joining, bStart := 0, bCount := 0,
            cb := 0, cn := 0 }

/-- `endif` (R109, R112, R300). The reconvergence point of a divergence stands after both its sides. -/
def execEndif (g : Grp) (s : State) : Outcome :=
  issue g (fun _ _ _ => Uses.vec [])
    (fun s x i =>
      match (x.slot i.slotB).stack with
      | [] => if i.slotB then (retire s i (x.reconverge i.pos)).modGang i.id Gang.retireB else structFault s i .illegalOp
      | .loopE _ _ _ :: _ => structFault s i .illegalOp
      | .ifE sv el cur st :: t =>
        if st = .split then
          if x.b.live then s.setGang i.id (x.setSlot i.slotB { x.slot i.slotB with waits := true })
          else
            let (cb, cn, count) := x.joining.headD (0, 0, 0)
            let stack := addWaiting cn (cutStack (cb ||| cn) (.ifE sv el cur st :: t))
            retire s i
              { x.reconverge (x.a.path.dropLast ++ [2]) with
                  a := { x.a with mask := sv &&& ~~~(cb ||| cn), stack := stack.tail, icnt := x.a.icnt + count,
                                  path := x.a.path.dropLast.dropLast },
                  joining := x.joining.tail }
        else retire s i ((x.reconverge i.pos).setMask i.slotB sv t)) s

/-- `loop label` (R109). -/
def execLoop (g : Grp) (o : OpFLab) (s : State) : Outcome :=
  issue g (fun _ _ _ => Uses.vec [])
    (fun s x i =>
      if !stackFits s x i.slotB then structFault s i .stackOverflow
      else
        let sl := x.slot i.slotB
        retireTo s i (if sl.mask = 0 then branchTarget g i o.off else i.next)
          (x.setMask i.slotB sl.mask (.loopE sl.mask sl.mask 0 :: sl.stack))) s

/-- The entries below the innermost SPLIT entry (R110). -/
def belowSplit : List StackEntry → List StackEntry
  | [] => []
  | .ifE _ _ _ .split :: t => t
  | _ :: t => belowSplit t

/-- A `brk` or `nxt` has a loop to act on: in its slot's stack, or for slot B in slot A's below its SPLIT entry (R110). -/
def hasLoop (g : Gang) (slotB : Bool) : Bool := inLoop (g.slot slotB).stack || (slotB && inLoop (belowSplit g.a.stack))

/-- `brk mk` (R109, R110). -/
def execBrk (g : Grp) (o : OpFM) (s : State) : Outcome :=
  issue g (fun _ x i => { Uses.vec [.m o.m.toNat] with illegalState := !hasLoop x i.slotB })
    (fun s x i =>
      let sl := x.slot i.slotB
      let l := sl.mask &&& x.readM o.m.toNat
      let y := x.setMask i.slotB (sl.mask &&& ~~~l) (cutStack l sl.stack)
      retire s i (if inLoop sl.stack then y else { y with cb := y.cb ||| l })) s

/-- `nxt mk` (R109, R110). -/
def execNxt (g : Grp) (o : OpFM) (s : State) : Outcome :=
  issue g (fun _ x i => { Uses.vec [.m o.m.toNat] with illegalState := !hasLoop x i.slotB })
    (fun s x i =>
      let sl := x.slot i.slotB
      let l := sl.mask &&& x.readM o.m.toNat
      let cut := cutStack l sl.stack
      if inLoop sl.stack then
        let stack := addWaiting l cut
        retire s i (x.setMask i.slotB (topCur 0 stack) stack)
      else
        let y := { x with cn := x.cn ||| l }
        retire s i (y.setMask i.slotB (topCur (y.bStart &&& ~~~y.cb &&& ~~~y.cn) cut) cut)) s

/-- `endl label` (R109, R300). -/
def execEndl (g : Grp) (o : OpFLab) (s : State) : Outcome :=
  issue g (fun _ _ _ => Uses.vec [])
    (fun s x i =>
      match (x.slot i.slotB).stack with
      | .loopE sv cur ct :: t =>
        let m := cur ||| ct
        if m != 0 then retireTo s i (branchTarget g i o.off) (x.setMask i.slotB m (.loopE sv m 0 :: t))
        else retire s i ((x.reconverge i.pos).setMask i.slotB sv t)
      | _ => structFault s i .illegalOp) s

end Sys2Proof.Machine
end

