-- ==== Sys2Proof/Machine/Tasks.lean ====
section
/-! DEFINITION. Steps, barriers, tasks, work creation and system registers (majors `0x06` and the step-ending forms of
`0x26`): R28 to R30, R113 to R121, R183, R235, R241 to R244, R265. -/

namespace Sys2Proof.Machine

/-! Step ends (R114 to R116). -/

/-- The results of the whole gang land, and its registers' hazards end (R65). -/
def Gang.landEverything (g : Gang) : Gang :=
  let g1 := g.landIf (fun _ => true)
  { g1 with a := { g1.a with haz := [] }, b := { g1.b with haz := [] } }

/-- The gang's step ends: loads are performed, results land, fences have had their effect, and `REPLAY` clears (R65, R114, R299). The
answer is none when a load's fault parks the slot, or when one waits for a port (R381). -/
def endStep (s : State) (i : Issue) (target : W64) : State × Option Gang :=
  let s1 := settleAll s i.id
  match aget s1.gangs i.id with
  | none => (s1, none)
  | some g =>
    if (g.slot i.slotB).parked.isSome then (s1, none)
    else if !g.loads.isEmpty then (stall s1 i g, none)
    else
      let s2 := retireTo s1 i target g
      (s2, (aget s2.gangs i.id).map (fun g => { g.landEverything with replay := 0, prefersB := none, order := [] }))

/-- The gang waits for its successor (R114). -/
def waitStep (s : State) (id : Nat) (g : Gang) (w : Waiting) : State :=
  commitAlone (s.setGang id { g with phase := .waiting w, detstep := g.detstep + 1 }) id

/-- The gang's task ends (R116). -/
def endTask (s : State) (id : Nat) (g : Gang) : State :=
  commitAlone (s.setGang id { g with phase := .ended, a := { g.a with live := false }, b := Slot.idle }) id

/-- `s`(a) to `s`(a+n) as registers. -/
def blockRegs (a n : Nat) : List Reg := (List.range n).map (fun j => .s (a + j))
/-- `s`(a) to `s`(a+n−1) as words. -/
def blockWords (g : Gang) (slotB : Bool) (a n : Nat) : List W64 := (List.range n).map (fun j => g.readS slotB (a + j))

/-- The descriptors of a `step`. -/
def stepDeps (g : Gang) (i : Issue) (o : OpCAN) : List W64 := blockWords g i.slotB (o.a.toNat + 1) o.n.toNat

/-- What a `step` names and needs (R113, R183). -/
def stepUses (o : OpCAN) (s : State) (g : Gang) (i : Issue) : Uses :=
  let far := decide (4 < o.n.toNat) || decide (61 < o.a.toNat + o.n.toNat)
  let ds := if far then some [] else parseDeps (stepDeps g i o)
  let sites := (ds.getD []).filterMap Dep.site
  { Uses.of (if far then [] else blockRegs o.a.toNat (o.n.toNat + 1)) with
    illegal := far
    illegalState := g.b.live
    misaligned := sites.any (fun x => x.1 % x.2 != 0)
    perm := (ds.getD []).any (Dep.beyond s g)
    depInvalid := (match ds with | some ds => ds.any (Dep.invalid s g) | none => true)
    site := match sites.find? (fun x => x.1 % x.2 != 0) with | some x => (.watch, x.1) | none => (.none, 0) }

/-- A watch fault of a `step` (R183, R346). -/
def watchFault (s : State) (i : Issue) (cls : FaultClass) (va detail : Nat) (host : Bool) : State :=
  raiseFault s i.id i.slotB i.pc cls { FaultInfo.plain with kind := .watch, va := va, detail := detail, host := host } i.pos false

/-- The watched words of a step translate, in order (R158, R183). -/
def xlateSites (g : Gang) : State → List (Nat × Nat) → State × List (Nat × Nat × Xlate)
  | s, [] => (s, [])
  | s, (va, n) :: rest =>
    let (s1, x) := s.gangXlate g va .read
    let (s2, xs) := xlateSites g s1 rest
    (s2, (va, n, x) :: xs)

/-- Watched words at their homes: the first that is unreachable, refused or uncorrectable is reported, and correctable ones are
corrected (R328, R329, R375, R378). -/
def readSites (s : State) (g : Gang) (fail : State → FaultClass → Nat → Nat → State) : List (Nat × Nat × Nat) → State × Bool
  | [] => (s, true)
  | (va, n, pa) :: rest =>
    let key := memKey g.part pa
    if s.unreachable pa then (fail s .eccUncorr va pa, false)
    else if s.refuses pa then (fail s .xlatPerm va 0, false)
    else if aperture pa = 0 ∧ s.bad key then (fail (logUncorr s g.part pa) .eccUncorr va (pa / 32 * 32), false)
    else readSites (if aperture pa = 0 then correctUnits s g.part key n else s) g fail rest

/-- The watched words of a `step` are checked as reads: the address checks of all come before any miss (R158, R183). -/
def checkSites (s : State) (g : Gang) (i : Issue) (sites : List (Nat × Nat)) : State × Bool :=
  let (s1, xs) := xlateSites g s sites
  if xs.any (fun x => x.2.2 == .torn) then (endTorn s1 i.id, false)
  else match xs.find? (fun x => x.2.2 == .perm) with
  | some (va, _) => (watchFault s1 i .xlatPerm va 0 false, false)
  | none =>
    match xs.findSome? (fun x => match x.2.2 with | .ecc key => some (x.1, key) | _ => none),
      xs.findSome? (fun x => match x.2.2 with | .hostWait page write pri => some (page, write, pri) | _ => none),
      xs.findSome? (fun x => match x.2.2 with | .miss failed => some (x.1, failed) | _ => none) with
    | some (va, key), _, _ =>
      (raiseFault (logUncorr s1 g.part (homePA g.part key)) i.id i.slotB i.pc .eccUncorr
        { FaultInfo.plain with kind := .walk, va := va, detail := homePA g.part key / 32 * 32 } i.pos false, false)
    | none, some (page, write, pri), _ =>
      (hostPark (s1.setGang i.id g) i.id i.slotB page write pri
        { record := none, released := false, faulted := 0, byLane := false, hostWait := true, pos := i.pos }, false)
    | none, none, some (va, failed) => (watchFault s1 i .xlatMiss va 0 failed.isSome, false)
    | none, none, none =>
      if xs.any (fun x => match x.2.2 with | .ok pa _ => s1.trains pa | _ => false) then (stall s1 i g, false)
      else readSites s1 g (fun s cls va detail => watchFault s i cls va detail false)
        (xs.filterMap (fun x => match x.2.2 with | .ok pa _ => some (x.1, x.2.1, pa) | _ => none))

/-- `step sa, n` (R114, R183). -/
def execStep (g : Grp) (o : OpCAN) (s : State) : Outcome :=
  issue g (stepUses o)
    (fun s x i =>
      let words := stepDeps x i o
      let ds := (parseDeps words).getD []
      match checkSites s x i (ds.filterMap Dep.site) with
      | (s1, false) => s1
      | (s1, true) =>
        let entry := x.readS i.slotB o.a.toNat
        match endStep s1 i entry with
        | (s2, none) => s2
        | (s2, some y) =>
          waitStep s2 i.id y { entry := entry, pc := i.pc, descriptors := words, barrier := none, host := hostWords s2 y ds, held := false }) s

/-- An arrival at a barrier (R35, R115). -/
def Barrier.arrive (b : Barrier) (count : Nat) : Barrier :=
  if b.arrived + 1 = count then { gen := b.gen + 1, latch := 0, arrived := 0 }
  else { b with latch := count, arrived := b.arrived + 1 }

/-- `bar bk, sa` (R115); a count of 0 is DEP_INVALID before BARRIER_MISMATCH is tested (notes/assumptions/83.md). -/
def execBar (g : Grp) (o : OpCAK) (s : State) : Outcome :=
  issue g
    (fun s x i => { Uses.of [.s o.a.toNat] with
      illegalState := x.b.live
      perm := (s.crewOf x).isNone
      depInvalid := decide (bits (x.readS i.slotB o.a.toNat) 15 0 = 0) })
    (fun s x i =>
      let count := bits (x.readS i.slotB o.a.toNat) 15 0
      let key := barrierKey s x o.k.toNat
      let b := s.barrier key
      if b.arrived ≠ 0 ∧ b.latch ≠ count then structFault s i .barrierMismatch
      else
        match endStep s i i.next with
        | (s1, none) => s1
        | (s1, some y) =>
          waitStep { s1 with barriers := aput s1.barriers key (b.arrive count) } i.id { y with unclean := true }
            { entry := i.next, pc := i.pc, descriptors := [], barrier := some (key, b.gen), host := [], held := false }) s

/-- The answers of an any-hit task: for each launched lane its ray, its answer and its two words (R241). -/
def answersOf (g : Gang) (answer : Nat → Nat) (w0 w1 : Nat → W32) : List ((Nat × Nat) × Nat × W32 × W32) :=
  (lanesOf g.lane).map (fun l => (tget (0, 0) g.rays l, answer l, w0 l, w1 l))

/-- An entry of the gang's own, attributed to its lowest launched lane. -/
def Gang.ownEntry (g : Gang) (i : Issue) (space : Nat) (kind : EntryKind) : Entry :=
  let (key, lane) := g.commitKey g.lowLane
  { pos := i.pos, lane := lane, key := key, va := 0, pa := 0, ms := false, scene := false, pc := i.pc, slotB := i.slotB,
    space := space, kind := kind }

/-- The gang with an entry of its own added. -/
def Gang.addEntry (g : Gang) (i : Issue) (kind : EntryKind) : Gang := { g with entries := g.entries ++ [g.ownEntry i 0 kind] }

/-- A step end at which the task ends, after a last entry (R116). -/
def finishTask (s : State) (i : Issue) (add : Gang → Gang) : State :=
  match endStep s i i.next with
  | (s1, none) => s1
  | (s1, some y) => endTask s1 i.id (add y)

/-- An any-hit task that ends without `hitret` answers ignore for all its lanes (R241). -/
def Gang.ignoreAll (g : Gang) (i : Issue) : Gang :=
  if g.kind == .anyHit then g.addEntry i (.answers (answersOf g (fun _ => 1) (fun _ => 0) (fun _ => 0))) else g

/-- `end` (R116); an any-hit task answers ignore for all its lanes (R241). -/
def execOpEnd (g : Grp) (s : State) : Outcome :=
  issue g (fun _ x _ => { Uses.of [] with illegalState := x.b.live })
    (fun s _ i => finishTask s i (fun y => y.ignoreAll i)) s

/-- `hitret va` (R241). -/
def execHitret (g : Grp) (o : OpCA) (s : State) : Outcome :=
  let r := 2 * o.a.toNat
  issue g
    (fun s x _ => { Uses.vec (regGroup r 3) with illegalState := x.b.live || x.kind != .anyHit, noUnit := s.pkg.mini })
    (fun s x i =>
      let p := (x.slot i.slotB).mask
      finishTask s i (fun y => y.addEntry i (.answers
        (answersOf y (fun l => if bit p l then bits (y.lane? r l) 1 0 else 1) (y.lane? (r + 1)) (y.lane? (r + 2)))))) s

/-- The identity a gang hands to work it creates (R267). -/
def Gang.ident (g : Gang) : Identity := { crew := g.crew, idCore := g.idCore, gangIndex := g.gangIndex, idSlot := g.idSlot }

/-- The origin of a lane (R244, R267). -/
def Gang.origin (g : Gang) (l : Nat) : Origin :=
  match g.origins[l]? with | some o => o | none => { key := g.key, lane := l, coherence := 0, chain := [] }

/-- A lane item of a gang's task. -/
def Gang.item (g : Gang) (kind : TaskKind) (entry : W64) (role : Nat) (origin : Origin) (regs : List W32) : Item :=
  { launch := g.launch, part := g.part, aspace := g.aspace, kind := kind, entry := entry, role := role, generation := g.generation,
    origin := origin, ident := g.ident, regs := regs, ray := none }

/-- The number of roles of the gang's launch (R256). -/
def State.roles (s : State) (g : Gang) : Nat := match s.launch? g.launch with | some l => bits (l.word 0) 9 8 + 1 | none => 1

/-- The item of a lane of a `callx` (R243). -/
def callItem (g : Gang) (p : W32) (high : W64) (next : W64) (r n l : Nat) : Item :=
  let regs := (List.range n).map (fun j => g.lane? (r + 2 + j) l)
  let key := bits (g.lane? (r + 1) l) 15 0
  let o := { g.origin l with coherence := key }
  let v := g.lane? r l
  if bit p l then
    g.item .callee (w64 (bits high 56 32 * 2 ^ 32 + v.toNat / 4 * 4)) (bits v 1 0)
      { o with chain := { entry := next, role := g.role } :: o.chain } regs
  else g.item .continuation next g.role o regs

/-- `callx va, sd, n` (R243). -/
def execCallx (g : Grp) (o : OpCDAN) (s : State) : Outcome :=
  let r := 2 * o.a.toNat
  let n := o.n.toNat
  issue g
    (fun s x i => { Uses.vec (.s o.d.toNat :: (if n ≤ 16 then regGroup r (n + 2) else [])) with
      illegal := decide (16 < n)
      illegalState := x.b.live || (lanesOf ((x.slot i.slotB).mask &&& x.lane)).any (fun l => decide (s.roles x ≤ bits (x.lane? r l) 1 0)) })
    (fun s x i =>
      let p := (x.slot i.slotB).mask
      if (lanesOf p).any (fun l => decide (8 ≤ (x.origin l).chain.length)) then structFault s i .stackOverflow
      else
        let high := x.readS i.slotB o.d.toNat
        finishTask s i (fun y => (y.ignoreAll i).addEntry i (.items ((lanesOf y.lane).map (callItem y p high i.next r n))))) s

/-- `retx va, n` (R244). -/
def execRetx (g : Grp) (o : OpCAN) (s : State) : Outcome :=
  let r := 2 * o.a.toNat
  let n := o.n.toNat
  issue g
    (fun _ x _ => { Uses.of (if n ≤ 16 then regGroup r n else []) with
      illegal := decide (16 < n)
      illegalState := x.b.live || (lanesOf x.lane).any (fun l => (x.origin l).chain.isEmpty) })
    (fun s _ i =>
      finishTask s i (fun y => (y.ignoreAll i).addEntry i (.items ((lanesOf y.lane).map (fun l =>
        let o := y.origin l
        let top := o.chain.headD { entry := 0, role := 0 }
        y.item .continuation top.entry top.role { o with chain := o.chain.tail } ((List.range n).map (fun j => y.lane? (r + j) l)))))) ) s

/-! Traps and work creation (R117 to R120). -/

/-- `trap sd, code`: to the trap entry, or to the squall line (R117, R355). -/
def execTrap (g : Grp) (o : OpCDN) (s : State) : Outcome :=
  issue g (fun _ _ _ => Uses.of [.s o.d.toNat])
    (fun s x i =>
      let entry := match s.launch? x.launch with | some l => bits (l.word 4) 56 0 | none => 0
      if entry = 0 then
        raiseFault s i.id i.slotB i.pc .trap { FaultInfo.plain with code := o.n.toNat } i.pos false
      else
        retireTo s i (w64 entry)
          (x.writeS i.slotB o.d.toNat (w64 (2 ^ 63 + o.n.toNat * 2 ^ 57 + i.pc.toNat % 2 ^ 57)))) s

/-- `spawn sa, n` (R118, R242). A role beyond the launch's is a register's value, whose place in R66 notes/assumptions/83.md names. -/
def execSpawn (g : Grp) (o : OpCAN) (s : State) : Outcome :=
  let a := o.a.toNat
  let n := o.n.toNat
  let far := decide (8 < n) || decide (61 < a + n)
  issue g
    (fun s x i => { Uses.of (if far then [] else blockRegs a (n + 1)) with
      illegal := far
      illegalState := decide (s.roles x ≤ bits (x.readS i.slotB a) 1 0) })
    (fun s x i =>
      let e := x.readS i.slotB a
      let item : SpawnItem :=
        { launch := x.launch, part := x.part, aspace := x.aspace, entry := w64 (e.toNat / 4 * 4), role := bits e 1 0,
          payload := blockWords x i.slotB (a + 1) n, key := [], generation := x.generation + (if x.kind == .anyHit then 1 else 0),
          ident := x.ident }
      match buffer s i x [x.ownEntry i 160 (.spawn item)] with
      | .ok y => retire s i y
      | .error (cls, detail) => raiseFault s i.id i.slotB i.pc cls { FaultInfo.plain with detail := detail } i.pos false) s

/-- `launch sa` (R113, R119). -/
def execLaunch (g : Grp) (o : OpCA) (s : State) : Outcome :=
  let a := o.a.toNat
  issue g
    (fun _ _ _ => { Uses.of (blockRegs a (min 16 (64 - a))) with illegal := decide (a = 48), misaligned := decide (a % 16 ≠ 0) })
    (fun s x i =>
      match buffer s i x [x.ownEntry i 160 (.launch (blockWords x i.slotB a 16))] with
      | .ok y => retire s i y
      | .error (cls, detail) => raiseFault s i.id i.slotB i.pc cls { FaultInfo.plain with detail := detail } i.pos false) s

/-! System registers (R28 to R30, R43, R44, R121). -/

/-- `MPROG`: the pairs issued by the crew's oldest unfinished sparse operation, and its TOTAL, which its start sets (R30, R202). -/
def mprog (s : State) (g : Gang) : W64 :=
  match (s.core g.core).ops.find? (fun o => decide (some o.crewKey = g.crewKey) && (match o.word with | .sparse _ => true | _ => false)) with
  | none => 0
  | some o => w64 (o.issued + o.total * 2 ^ 32)

/-- `CAP0` (R43). -/
def cap0 (s : State) (part : Nat) : W64 :=
  w64 ((if s.pkg.mini then 0 else 7) + 0x78 + (s.part part).dies * 2 ^ 16 + 40 * 2 ^ 20)
/-- `CAP1` (R44). -/
def cap1 : W64 := w64 (1 + 64 * 2 ^ 16 + 192 * 2 ^ 24 + 256 * 2 ^ 32 + 18 * 2 ^ 48)

/-- `CREWMAP` (R30, R267). -/
def crewMap (s : State) (g : Gang) : W64 :=
  match s.crewOf g with
  | some c => w64 (c.tfirst + c.tcount * 2 ^ 8 + c.cfirst * 2 ^ 16 + c.ccount * 2 ^ 24)
  | none => 0
/-- `GANG` (R30, R267). -/
def gangReg (g : Gang) : W64 := w64 (g.gangIndex + g.role * 2 ^ 8 + g.idSlot * 2 ^ 16 + g.idSlot % 4 * 2 ^ 24)
/-- `CTXMODE` (R30). -/
def ctxMode (s : State) (g : Gang) : W64 :=
  let c := s.ctx (spaceKey g.part g.aspace)
  let domain := match s.launch? g.launch with | some l => l.domain | none => 0
  w64 (c.becalm.toNat + c.scheck.toNat * 2 + domain * 4 + (s.nonidem g).toNat * 16 + g.aspace * 2 ^ 8)

/-- A system register as the issuing slot reads it (R28). -/
def sysReg (s : State) (g : Gang) (i : Issue) (n : Nat) : W64 :=
  match n with
  | 0 => g.lane.setWidth 64
  | 1 => gangReg g
  | 2 => w64 g.crew
  | 3 => w64 (g.idCore % 40)
  | 4 => w64 (g.idCore % 40 / 4)
  | 5 => w64 (g.idCore / 40)
  | 6 => w64 s.pkg.number
  | 7 => crewMap s g
  | 8 => mprog s g
  | 9 => cap0 s g.part
  | 10 => cap1
  | 11 => w64 i.cycle
  | 12 => g.replay.setWidth 64
  | 13 => g.detstep.setWidth 64
  | 14 => (g.slot i.slotB).icnt.setWidth 64
  | 15 => s.seedOf g
  | 16 => ctxMode s g
  | 17 => g.traparg
  | _ => 0

/-- `srd sd, NAME` (R28, R121). -/
def execSrd (g : Grp) (o : OpCDN) (s : State) : Outcome :=
  execInterlocked g (fun _ _ _ => { Uses.of [.s o.d.toNat] with illegal := decide (18 ≤ o.n.toNat) })
    (fun s x i => [.scalar o.d.toNat (sysReg s x i o.n.toNat)]) s

/-- `swr NAME, sa`: only `TRAPARG` is writable (R28, R121). -/
def execSwr (g : Grp) (o : OpCAN) (s : State) : Outcome :=
  issue g (fun _ _ _ => { Uses.of [.s o.a.toNat] with illegal := decide (18 ≤ o.n.toNat) })
    (fun s x i => retire s i (if o.n = 17 then { x with traparg := x.readS i.slotB o.a.toNat } else x)) s

/-! Dispatch (R114, R182, R265, R302). -/

/-- The gang's commit condition is met (R114, R302, R305, R306). -/
def commitDone (s : State) (id : Nat) (g : Gang) : Bool :=
  g.entries.all Entry.heldBack && !s.acking id &&
    (g.crewKey.isNone || (match s.launch? g.launch with
      | some l => decide (g.detstep.toNat ≤ l.quantum (gangInst s g)) | none => true))

/-- The step may be dispatched now. -/
def dispatchable (s : State) (id : Nat) (g : Gang) : Bool :=
  match g.phase with
  | .waiting w => w.held && commitDone s id g && !g.restarting && !(s.part g.part).asserted && !(s.ctx (spaceKey g.part g.aspace)).torn
  | _ => false

/-- The steps dispatched by a context, counted in DISP (R274): a task's first step too, when its gang is placed or restarts. -/
def countSteps (s : State) (part aspace n : Nat) : State :=
  let key := spaceKey part aspace
  let c := s.ctx key
  s.setCtx key { c with dispatched := c.dispatched + BitVec.ofNat 48 n }

/-- `STEP_DISPATCH`: the successor starts on slot A, and the context counts it (R114, R182, R274). -/
def execStepDispatch (gang : Nat) (s : State) : Outcome :=
  match aget s.gangs gang with
  | none => .next s
  | some g =>
    if dispatchable s gang g then
      .next (countSteps (s.setGang gang { g with phase := .running, a := { g.a.readyFrom (s.core g.core).cyc with since := (s.core g.core).cyc, aged := false } }) g.part g.aspace 1)
    else .next s

/-- A waiting step meets an error as it tests its watches (R182, R329, R341, R375, R378). -/
def watchError (s : State) (id : Nat) (g : Gang) (w : Waiting) (cls : FaultClass) (kind : AccessKind) (va detail : Nat) : State :=
  let words := gangRecord s g false w.pc cls { FaultInfo.plain with kind := kind, va := va, detail := detail }
  queueCause (postRecord s g.part g.die { owner := .none, aspace := g.aspace, cls := cls, words := words, task := some id }) g.part
    { cls := cls, aspace := g.aspace, words := words, gang := some id }

/-- A waiting step's watched words are read again: an uncorrectable or unreachable one, or an error of its walk, is a fault (R182,
R329, R341, R378). -/
def periodicGang (s : State) (id : Nat) (g : Gang) : State :=
  match g.phase with
  | .waiting w =>
    let ds := (parseDeps w.descriptors).getD []
    let (s0, xs) := xlateSites g s (ds.filterMap Dep.site)
    let s1 := xs.foldl (fun s x => match x.2.2 with | .hostWait page write pri => hostAsk s g.part g.aspace page write pri none | _ => s) s0
    (match xs.findSome? (fun x => match x.2.2 with | .ecc key => some (x.1, key) | _ => none) with
     | some (va, key) => watchError (logUncorr s1 g.part (homePA g.part key)) id g w .eccUncorr .walk va (homePA g.part key / 32 * 32)
     | none =>
       if xs.any (fun x => match x.2.2 with | .ok pa _ => s1.trains pa | _ => false) then s1
       else match readSites s1 g (fun s cls va detail => watchError s id g w cls .watch va detail)
           (xs.filterMap (fun x => match x.2.2 with | .ok pa _ => some (x.1, x.2.1, pa) | _ => none)) with
       | (s2, true) => s2.setGang id { g with phase := .waiting { w with host := hostWords s2 g ds } }
       | (s2, false) => s2)
  | _ => s

/-- Reads the watched words of gangs again. -/
def periodicAll (s : State) : List (Nat × Gang) → State
  | [] => s
  | (id, g) :: rest => periodicAll (periodicGang s id g) rest

end Sys2Proof.Machine
end

