-- ==== Sys2Proof/Machine/Engine.lean ====
section
/-! DEFINITION. What the engines share: command records, accesses to memory and to the on-chip windows, faults of commands,
and status records (R36 to R38, R210 to R215, R346). -/

namespace Sys2Proof.Machine

/-- A word of a command record (R210). -/
def Command.word (c : Command) (i : Nat) : W64 := tget 0 c.words i
/-- A record word's fields. -/
def Command.field (c : Command) (i hi lo : Nat) : Nat := bits (c.word i) hi lo
/-- The die of a command's core. -/
def Command.die (c : Command) : Nat := c.core / 40

/-- The faults an access of an engine can meet (R215). -/
inductive EngFault where
  /-- Not resident; of a host page whose request failed, that page (R344). -/
  | miss (failed : Option Nat)
  | perm
  | torn
  | ecc (key : Nat)
  /-- An error in a table (R341). -/
  | walk (key : Nat)
  | wait (page : Nat) (write pri : Bool)
  /-- A page in memory of an unreachable package (R378). -/
  | lost (pa : Nat)
  /-- A page that another package refuses (R375). -/
  | refused
  /-- A page in memory of another package, behind a port that retrains (R381). -/
  | training
  /-- A SCENE line that the octet must first invalidate (R389). -/
  | scene (part line : Nat)
  /-- A thread-owned tile (R38). -/
  | owned

/-- Where an engine's byte lies: at a home, or in a core's scratchpad, accumulator file or register file (R36, R37). -/
inductive Site where
  | home (part pa : Nat) (scene : Bool)
  | scratch (core offset : Nat)
  | acc (core offset : Nat)
  | reg (gang n lane byte : Nat)

/-- Whose access it is: partition, address space, die, whether it reaches the windows (R38), and the core whose engine makes it, if it
is a core's. -/
structure Access.Who where
  part : Nat
  aspace : Nat
  die : Nat
  windows : Bool
  core : Option Nat := none
  /-- Who waits where the host is asked for a translation (R344). -/
  asker : Waiter := .front

/-- A command is one of a core's copy engine. -/
def Command.copies (c : Command) : Bool := match c.kind with | .cpy => true | .cpyg => true | .cpyst => true | _ => false

/-- Whose accesses a command's are: those of copies alone are made by a core's engine, and reach the windows (R38). -/
def Command.who (c : Command) : Access.Who :=
  { part := c.part, aspace := c.aspace, die := c.die, windows := c.copies, core := if c.copies then some c.core else none
    asker := .command c.num }

/-! The windows (R36 to R38). -/

/-- An address is a window address (R36). -/
def isWindow (va : Nat) : Bool := decide (va / 2 ^ 48 = 0xFE00)
/-- The core of a window address within the package; for a CORE field of 40 or more, one that does not exist (R38). -/
def windowCore (va : Nat) : Nat := if va / 2 ^ 40 % 64 < 40 then va / 2 ^ 46 % 4 * 40 + va / 2 ^ 40 % 64 else 160
/-- The KIND of a window address: 0 registers, 1 scratchpad, 2 accumulators. -/
def windowKind (va : Nat) : Nat := va / 2 ^ 38 % 4
/-- The OFFSET of a window address. -/
def windowOffset (va : Nat) : Nat := va % 2 ^ 38
/-- Bytes of a kind on one core (R37). -/
def windowSize (kind : Nat) : Nat := match kind with | 0 => 2 ^ 20 | 1 => 192 * 4096 | 2 => 2 ^ 18 | _ => 0
/-- Bytes of a tile of a kind: register tile, scratchpad tile, accumulator tile. -/
def windowTile (kind : Nat) : Nat := match kind with | 1 => 4096 | _ => 1024

/-- The gang in a slot of a core that belongs to a crew of the context (R38). -/
def crewGangAt (s : State) (w : Access.Who) (core slot : Nat) : Option (Nat × Gang) :=
  s.gangs.find? (fun x => decide (x.2.core = core) && decide (x.2.slotNo = slot) && x.2.crewKey.isSome
    && decide (x.2.part = w.part) && decide (x.2.aspace = w.aspace))

/-- A physical tile of a core belongs to a crew of the context (R38). -/
def tileAllocated (s : State) (w : Access.Who) (core kind tile : Nat) : Bool :=
  s.crews.any (fun (_, c) => decide (c.core = core)
    && (match s.launch? c.launch with | some l => decide (l.part = w.part) && decide (l.aspace = w.aspace) | none => false)
    && (if kind = 1 then decide (c.tfirst ≤ tile) && decide (tile < c.tfirst + c.tcount)
        else decide (c.cfirst ≤ tile) && decide (tile < c.cfirst + c.ccount)))

/-- The site of a window byte (R37, R38). -/
def windowSite (s : State) (w : Access.Who) (va : Nat) : Option Site :=
  let core := windowCore va
  let o := windowOffset va
  if windowSize (windowKind va) ≤ o ∨ core / 40 < w.part ∨ w.part + (s.part w.part).dies ≤ core / 40 then none
  else match windowKind va with
    | 0 => match crewGangAt s w core (o / 2 ^ 14) with
      | some (id, g) => if o / 128 % 128 < g.vcount then some (.reg id (o / 128 % 128) (o / 4 % 32) (o % 4)) else none
      | none => none
    | 1 => if tileAllocated s w core 1 (o / 4096) then some (.scratch core o) else none
    | _ => if tileAllocated s w core 2 (o / 1024) then some (.acc core o) else none

/-- The owner bit of a window tile, by its core, kind and number (a register tile's number is slot × 16 + n); none for a tile
not allocated to the context (R38). -/
def windowOwner (s : State) (w : Access.Who) (core kind tile : Nat) : Option Bool :=
  match kind with
  | 0 => (match crewGangAt s w core (tile / 16) with
    | some (_, g) => if 8 * (tile % 16) < g.vcount then some (bit g.vtOwner (tile % 16)) else none
    | none => none)
  | 1 => if tileAllocated s w core 1 tile then some (bit (s.core core).scratchOwn tile) else none
  | 2 => if tileAllocated s w core 2 tile then some (bit (s.core core).accOwn tile) else none
  | _ => none

/-- The tile of a window offset: of registers, slot × 16 + n (R31, R37). -/
def windowTileOf (kind offset : Nat) : Nat := if kind = 0 then offset / 2 ^ 14 * 16 + offset / 1024 % 16 else offset / windowTile kind

/-! Accesses. -/

/-- The site of a virtual address for an engine (R38, R39, R212, R215, R375, R378), and whether an access to it is counted (R332). -/
def siteOf (s : State) (w : Access.Who) (va : Nat) (n : Need) : State × Except EngFault (Site × Bool) :=
  if isWindow va then
    (s, match (if w.windows then windowSite s w va else none) with | some x => .ok (x, false) | none => .error .perm)
  else match s.xlate w.part w.aspace w.die va n (s.hostFailed w.part (spaceKey w.part w.aspace) w.asker) with
    | (s1, .ok pa leaf) =>
      (s1, if s1.unreachable pa then .error (.lost pa) else if s1.refuses pa then .error .refused else if s1.trains pa then .error .training
        else .ok (.home w.part pa (leafScene leaf), leafCounted leaf))
    | (s1, .miss failed) => (s1, .error (.miss failed))
    | (s1, .perm) => (s1, .error .perm)
    | (s1, .torn) => (s1, .error .torn)
    | (s1, .ecc key) => (s1, .error (.walk key))
    | (s1, .hostWait page write pri) => (s1, .error (.wait page write pri))

/-- What an access of `size` bytes to a site leaves: at a home, what the engine may not find undone comes first (R303, R309), and one to an
MS or NC page is a request that its stack counts (R322, R332). -/
def reachSite (s : State) (w : Access.Who) (n : Need) (size : Nat) (x : Site) (counted : Bool) : State :=
  match x with
  | .home part pa _ =>
    let s1 := observe s (.unit w.die w.core) none (memKey part pa) size (n == .write)
    if counted then countAccess s1 part pa else s1
  | _ => s

/-- Locates an engine's access of `size` bytes. -/
def locate (s : State) (w : Access.Who) (va : Nat) (n : Need) (size : Nat) : State × Except EngFault Site :=
  match siteOf s w va n with
  | (s1, .ok (x, counted)) => (reachSite s1 w n size x counted, .ok x)
  | (s1, .error e) => (s1, .error e)

/-- Reads `n` bytes at a site (R212). -/
def readSite (s : State) (x : Site) (n : Nat) : Except EngFault (List Byte) :=
  match x with
  | .home part pa _ =>
    let key := memKey part pa
    (match (if aperture pa = 0 then s.badUnit key n else none) with
     | some u => .error (.ecc (32 * u))
     | none => .ok (mreadBytes s.mem key n))
  | .scratch core o => .ok (mreadBytes (s.core core).scratch o n)
  | .acc core o => .ok (mreadBytes (s.core core).acc o n)
  | .reg id r l b => .ok (match aget s.gangs id with
    | some g => ((List.range ((b + n + 3) / 4)).flatMap (fun j => toBytes 4 (g.lane? (r + (l + j) / 32) ((l + j) % 32)).toNat)).drop b |>.take n
    | none => [])

/-- A gang's vector registers with one byte replaced. -/
def Gang.setByte (g : Gang) (r l b : Nat) (v : Byte) : Gang :=
  let old := toBytes 4 (g.lane? r l).toNat
  g.writeV r (BitVec.twoPow 32 l) (tset 0 [] l (w32 (ofBytes (old.set b v))))

/-- Writes bytes at a site; a write at a home is followed by the tests of what waits (R182, R212). -/
def writeSite (s : State) (x : Site) (data : List Byte) : Except EngFault State :=
  match x with
  | .home part pa scene =>
    let line := memKey part pa / 128
    if scene && decide (aperture pa = 0) && !(octetOthers s part).isEmpty && !sceneReady s [line] then .error (.scene part line)
    else (match storeHome s part pa data with | .ok s1 => .ok (testSteps s1) | .error key => .error (.ecc key))
  | .scratch core o => let c := s.core core; .ok (s.setCore core { c with scratch := mwriteBytes c.scratch o data })
  | .acc core o => let c := s.core core; .ok (s.setCore core { c with acc := mwriteBytes c.acc o data })
  | .reg id r l b => .ok (s.modGang id (fun g => data.zipIdx.foldl (fun g (v, j) =>
      g.setByte (r + (4 * l + b + j) / 128) ((4 * l + b + j) % 128 / 4) ((b + j) % 4) v) g))

/-- Reads `n` bytes at a virtual address that one page holds. -/
def engRead (s : State) (w : Access.Who) (va n : Nat) : State × Except EngFault (List Byte) :=
  match locate s w va .read n with
  | (s1, .ok x) => ((match x with | .home part pa _ => (correctUnits s1 part (memKey part pa) n).linkFor pa | _ => s1), readSite s1 x n)
  | (s1, .error e) => (s1, .error e)

/-- Writes bytes at a virtual address that one page holds. -/
def engWrite (s : State) (w : Access.Who) (va : Nat) (data : List Byte) : State × Except EngFault Unit :=
  match locate s w va .write data.length with
  | (s1, .ok x) => (match writeSite s1 x data with | .ok s2 => (s2, .ok ()) | .error e => (s1, .error e))
  | (s1, .error e) => (s1, .error e)

/-- Reads bytes in pieces that one page holds each: `n` pieces of `size` bytes. -/
def engReadMany (s : State) (w : Access.Who) (va size : Nat) : (n : Nat) → State × Except (EngFault × Nat) (List Byte)
  | 0 => (s, .ok [])
  | n + 1 =>
    match engReadMany s w va size n with
    | (s1, .error e) => (s1, .error e)
    | (s1, .ok bs) => (match engRead s1 w (va + size * n) size with
      | (s2, .ok b) => (s2, .ok (bs ++ b))
      | (s2, .error e) => (s2, .error (e, va + size * n)))

/-! Faults and the ends of commands (R213 to R215, R345, R346). -/

/-- The unit of d5 of a command's fault record (R346). -/
def CmdKind.unit : CmdKind → Nat
  | .sort => 2 | .sortr => 2 | .coll => 3 | .trace => 4 | .rast => 4 | _ => 1

/-- The dwords d0 to d6 of a command's fault record (R346). -/
def commandRecord (s : State) (c : Command) (cls : FaultClass) (kind : AccessKind) (va detail : Nat) (host : Bool) : List W64 :=
  let clean := match c.gang.bind (aget s.gangs) with | some g => g.clean c.ni | none => false
  [ w64 (cls.code + kind.code * 2 ^ 8 + c.sealed.toNat * 2 ^ 13 + c.ni.toNat * 2 ^ 14 + clean.toNat * 2 ^ 15 + c.aspace * 2 ^ 16
      + c.die * 2 ^ 24 + c.core % 40 * 2 ^ 26 + c.slotNo * 2 ^ 32 + 2 ^ 40 + host.toNat * 2 ^ 41),
    0, w64 va, 0, 0, w64 (c.field 7 15 0 + c.kind.unit * 2 ^ 16 + c.progress % 2 ^ 32 * 2 ^ 32), w64 detail ]

/-- A command replaced, or removed. -/
def State.setCmd (s : State) (n : Nat) (c : Command) : State := { s with cmds := aput s.cmds n c }
/-- A command removed. -/
def State.dropCmd (s : State) (n : Nat) : State := { s with cmds := adel s.cmds n }

/-- What an engine's fault leaves besides its report: an error is logged (R329), the host is asked for a translation, and a failed
host page request is forgotten once it is reported (R344). -/
def noteFault (s : State) (part aspace : Nat) (w : Waiter) : EngFault → State
  | .miss _ => s.answered part w
  | .wait page write pri => hostAsk s part aspace page write pri (some w)
  | .ecc key => logUncorr s part (homePA part key)
  | .walk key => logUncorr s part (homePA part key)
  | _ => s

/-- A command meets a fault (R215): it parks with a record, waits for the host or for a port, or is fatal to its context; at a thread-owned tile it ends with
CODE 1 (R38). -/
def commandFault (s : State) (n : Nat) (c : Command) (kind : AccessKind) (va : Nat) (e : EngFault) : State :=
  let s0 := noteFault (s.setCmd n { c with parked := true }) c.part c.aspace (.command c.num) e
  let fatal (cls : FaultClass) (kind : AccessKind) (detail : Nat) : State :=
    let words := commandRecord s0 c cls kind va detail false
    queueCause (postRecord s0 c.part c.die { owner := .none, aspace := c.aspace, cls := cls, words := words, task := c.gang }) c.part
      { cls := cls, aspace := c.aspace, words := words, gang := none }
  match e with
  | .miss failed =>
    postRecord s0 c.part c.die
      { owner := .command n, aspace := c.aspace, cls := .xlatMiss, words := commandRecord s0 c .xlatMiss kind va 0 failed.isSome, task := c.gang }
  | .perm => fatal .xlatPerm kind 0
  | .refused => fatal .xlatPerm kind 0
  | .lost pa => fatal .eccUncorr kind pa
  | .ecc key => fatal .eccUncorr kind (homePA c.part key / 32 * 32)
  | .walk key => fatal .eccUncorr .walk (homePA c.part key / 32 * 32)
  | .wait _ _ _ => s0
  | .torn => s.dropCmd n
  | .scene part line => (sceneAsk s part [line]).setCmd n c
  | .training => s.setCmd n c
  | .owned => s.setCmd n { c with landed := true, code := 1 }

/-- The bytes of a status record (R214). -/
def statusBytes (tag code engine count : Nat) (aux : W64) : List Byte :=
  toBytes 2 tag ++ [byte code, byte engine] ++ toBytes 4 count ++ toBytes 8 aux.toNat

/-- Writes a command's status record, where it has one (R214, R215); the answer is false when the command parks. -/
def writeStatus (s : State) (n : Nat) (c : Command) (code count : Nat) (aux : W64) : State × Bool :=
  let a := c.field 7 63 16 * 16
  if a = 0 then (s, true)
  else match engWrite s c.who a (statusBytes (c.field 7 15 0) code c.kind.unit count aux) with
    | (s1, .ok ()) => (s1, true)
    | (s1, .error e) => (commandFault s1 n { c with landed := true, code := code } .engWrite a e, false)

/-! Issue (R210, R211). -/

/-- The record block of a command: `s`(a) to `s`(a+7). -/
def recordBlock (a : BitVec 6) (g : Gang) (i : Issue) : List W64 := blockWords g i.slotB a.toNat 8

/-- What a command's record block names (R210). -/
def blockUses (a : BitVec 6) : Uses :=
  { Uses.of (blockRegs a.toNat (min 8 (64 - a.toNat))) with illegal := decide (a = 56), misaligned := decide (a.toNat % 8 ≠ 0) }

/-- An earlier `rel` or `ar` fence of the step has buffered entries before it: commands are held (R211). -/
def heldByFence (g : Gang) (p : Pos) : Bool :=
  g.entries.any (fun f => (match f.kind with | .fence k _ => k == 0 || k == 2 | _ => false) && keyLt f.pos p &&
    g.entries.any (fun e => !e.heldBack && keyLt e.pos f.pos && (match e.kind with | .fence _ _ => false | _ => true)))

/-- A command as its instruction sends it. -/
def newCommand (s : State) (g : Gang) (i : Issue) (kind : CmdKind) (words : List W64) : Command :=
  { kind := kind, gang := some i.id, launch := g.launch, crewKey := g.crewKey, sealed := g.sealed, ni := s.nonidem g, part := g.part, aspace := g.aspace, core := g.core,
    num := s.serial, slotNo := g.slotNo, tfirst := s.physTile g 0, words := words, icnt := (g.slot i.slotB).icnt.setWidth 64, seed := s.seedOf g,
    batch := g.batch + 1, started := false, parked := false, discarded := false, landed := false, slot := none, rays := [], stash := .none,
    progress := 0, code := 0, data := [], entry := [], index := [], covered := [] }

/-- Sends a command to its engine, or holds it for the commit (R211, R212). -/
def sendCommand (s : State) (i : Issue) (g : Gang) (held : Bool) (c : Command) : State :=
  let n := s.serial
  let s1 := { s with serial := n + 1 }
  let g1 := match c.kind with
    | .cpy => { g with covered := g.covered ++ [n] }
    | .cpyg => { g with covered := g.covered ++ [n] }
    | .cpyst => { g with covered := [n] }
    | _ => g
  if held then
    match buffer s1 i g1 [g1.ownEntry i 160 (.command n c)] with
    | .ok y => retire s1 i y
    | .error (cls, detail) => raiseFault s i.id i.slotB i.pc cls { FaultInfo.plain with detail := detail } i.pos false
  else retire { s1 with cmds := s1.cmds ++ [(n, c)] } i g1

/-- A command's unit may act: it is not parked and its partition runs (R355). -/
def commandLive (s : State) (c : Command) : Bool := !c.parked && !(s.part c.part).asserted

/-- The command `n`, if it is of a kind and on a core. -/
def findCommand (s : State) (core n : Nat) (p : CmdKind → Bool) : Option Command :=
  match aget s.cmds n with
  | some c => if p c.kind && decide (c.core = core) && commandLive s c then some c else none
  | none => none

/-- Invalidations that are complete, and of which no write that has begun is still to be performed, are forgotten (R389). -/
def sceneClear (s : State) : State :=
  if s.pkg.sceneWrites.isEmpty then s else { s with pkg := { s.pkg with sceneWrites := s.pkg.sceneWrites.filter (fun w => !w.members.isEmpty || (sceneClaims s).contains w.line) } }

/-- A register write: the vt tile of a gang becomes thread-owned (R31). -/
def flipRegTile (s : State) (id tile : Nat) : State := s.modGang id (fun g => { g with vtOwner := setBitTo g.vtOwner tile false })

end Sys2Proof.Machine
end

