-- ==== Sys2Proof/Machine/Sync.lean ====
section
/-! DEFINITION. Fences, tiles, circular buffers and batches (major `0x1F`): R173 to R180, R208. -/

namespace Sys2Proof.Machine

/-- The gang has done what keeps it from being clean (R351). -/
def Gang.soil (g : Gang) : Gang := { g with unclean := true }

/-- `fence`: it takes its place in the gang's order of unbuffered accesses and among the buffered entries (R174). -/
def execFence (g : Grp) (o : OpCFence) (s : State) : Outcome :=
  issue g (fun _ _ _ => Uses.of [])
    (fun s x i =>
      let (key, lane) := x.commitKey x.lowLane
      retire s i { x with
        order := x.order ++ [(i.pos, o.kind.toNat, o.scope.toNat)]
        entries := x.entries ++
          [{ pos := i.pos, lane := lane, key := key, va := 0, pa := 0, ms := false, scene := false, pc := i.pc, slotB := i.slotB,
             space := 0, kind := .fence o.kind o.scope }] }) s

/-- `trel` (R175): every earlier access of the gang to the tile is performed first. -/
def execTrel (g : Grp) (o : OpCT) (s : State) : Outcome :=
  issue g (tileUses [.scratch, .acc, .reg] true o.t)
    (fun s x i =>
      match tileOf x i o.t with
      | none => s
      | some t =>
        if tileBusy s x t then stall s i x
        else
          let y := if t.1 == .reg then landTile x t.2 else x.soil
          releaseTile (retire s i y) i.id y t) s

/-- `tfe.set` and `tfe.clr`: the full bit of a scratchpad tile, after every scratchpad access of the gang (R176). -/
def tfe (v : Bool) (g : Grp) (o : OpCT) (s : State) : Outcome :=
  issue g (fun s x i => { tileUses [.scratch] true o.t s x i with chip := wholeScratch })
    (fun s x i =>
      match tileOf x i o.t with
      | none => s
      | some t =>
        if tileBusy s x t then stall s i x
        else setFull (retire s i x.soil) x.core (s.physTile x t.2) v) s

/-- `tfe.set` (R176). -/
def execTfeSet (g : Grp) (o : OpCT) (s : State) : Outcome := tfe true g o s
/-- `tfe.clr` (R176). -/
def execTfeClr (g : Grp) (o : OpCT) (s : State) : Outcome := tfe false g o s

/-- The state word of a tile, buffer or barrier (R177). -/
def tileState (s : State) (g : Gang) : TileKind × Nat → W64
  | (.scratch, n) =>
    let c := s.core g.core
    w64 ((bit c.scratchOwn (s.physTile g n)).toNat + 2 * (bit c.scratchFull (s.physTile g n)).toNat)
  | (.buffer, n) =>
    match s.crewOf g with
    | none => 0
    | some c =>
      let b := c.buf n
      if b.defined then
        w64 (b.free + b.filled * 2 ^ 8 + b.widx * 2 ^ 16 + b.ridx * 2 ^ 24 + 2 ^ 31 + b.first * 2 ^ 32 + b.slots * 2 ^ 40 + b.span * 2 ^ 48)
      else 0
  | (.barrier, n) =>
    let b := s.barrier (barrierKey s g n)
    w64 (b.gen.toNat + b.latch * 2 ^ 32 + b.arrived * 2 ^ 48)
  | x => w64 (tileOwned s g x).toNat

/-- `tstat` (R177). -/
def execTstat (g : Grp) (o : OpCDT) (s : State) : Outcome :=
  execInterlocked g
    (fun s x i =>
      let u := tileUses [.scratch, .acc, .reg, .buffer, .barrier] false o.t s x i
      { u with regs := .s o.d.toNat :: u.regs })
    (fun s x i => match tileOf x i o.t with | some t => [.scalar o.d.toNat (tileState s x t)] | none => []) s

/-- The grounds for `ILLEGAL_OP` of a `cbdef` descriptor (R178). -/
def cbdefIllegal (b : CBuf) (v : W64) : Bool :=
  decide (bits v 63 21 ≠ 0) || bit v 15 ||
    (decide (bits v 14 8 ≠ 0) && (b.defined || decide (64 < bits v 14 8) || decide (bits v 20 16 = 0) || decide (16 < bits v 20 16)))

/-- The bytes of the core's scratchpad of crew tiles. -/
def chipTiles (s : State) (g : Gang) (tiles : List Nat) : List (Nat × Nat) := tiles.map (fun t => (4096 * s.physTile g t, 4096))

/-- The buffer that a descriptor defines (R178). -/
def cbufOf (v : W64) : CBuf :=
  { defined := true, first := bits v 7 0, slots := bits v 14 8, span := bits v 20 16, free := bits v 14 8, filled := 0,
    widx := 0, ridx := 0, held := [] }

/-- A gang's buffer. -/
def State.bufOf (s : State) (g : Gang) (k : Nat) : CBuf := match s.crewOf g with | some c => c.buf k | none => CBuf.none

/-- `cbdef`: defines a buffer, or dissolves it when SLOTS is 0 (R178). -/
def execCbdef (g : Grp) (o : OpCDT) (s : State) : Outcome :=
  issue g
    (fun s x i =>
      let u := tileUses [.buffer] false o.t s x i
      let v := x.readS i.slotB o.d.toNat
      let u := { u with regs := .s o.d.toNat :: u.regs }
      match tileOf x i o.t with
      | none => u
      | some (_, k) =>
        let b := s.bufOf x k
        let n := cbufOf v
        if bits v 14 8 = 0 then
          { u with illegalState := u.illegalState || cbdefIllegal b v
                   owned := b.defined && (match x.crewKey with | some key => (crewCommands s key).any (fun c => c.advances k) | none => false) }
        else
          { u with illegalState := u.illegalState || cbdefIllegal b v
                   chip := chipTiles s x (n.tiles 0 n.slots)
                   perm := u.perm || decide (s.tcount x < n.first + n.slots * n.span)
                   owned := (n.tiles 0 n.slots).any (fun t => tileOwned s x (.scratch, t)) })
    (fun s x i =>
      let v := x.readS i.slotB o.d.toNat
      match tileOf x i o.t, x.crewKey with
      | some (_, k), some key =>
        let b := s.bufOf x k
        if bits v 14 8 = 0 then
          let s1 := retire s i x.soil
          if b.defined then
            (ownScratch s1 x.core false ((b.tiles b.widx b.free).map (s.physTile x))).modCrew key (fun c => c.setBuf k CBuf.none)
          else s1
        else
          let n := cbufOf v
          let tiles := n.tiles 0 n.slots
          if tiles.any (fun t => tileBusy s x (.scratch, t)) then stall s i x
          else (ownScratch (retire s i x.soil) x.core true (tiles.map (s.physTile x))).modCrew key (fun c => c.setBuf k n)
      | _, _ => s) s

/-- The slots that `cbrel` returns (R179). -/
def cbrelCount (v : W64) : Nat := bits v 6 0

/-- `cbrel`: returns filled slots to the engines (R179). -/
def execCbrel (g : Grp) (o : OpCDT) (s : State) : Outcome :=
  issue g
    (fun s x i =>
      let u := tileUses [.buffer] false o.t s x i
      let n := cbrelCount (x.readS i.slotB o.d.toNat)
      let u := { u with regs := .s o.d.toNat :: u.regs }
      match tileOf x i o.t with
      | none => u
      | some (_, k) =>
        let b := s.bufOf x k
        { u with illegalState := u.illegalState || ((s.crewOf x).isSome && (!b.defined || decide (n = 0) || decide (b.filled < n)))
                 chip := chipTiles s x (b.tiles b.ridx n)
                 owned := b.defined && (b.tiles b.ridx n).any (fun t => tileOwned s x (.scratch, t)) })
    (fun s x i =>
      let n := cbrelCount (x.readS i.slotB o.d.toNat)
      match tileOf x i o.t, x.crewKey with
      | some (_, k), some key =>
        let b := s.bufOf x k
        let tiles := b.tiles b.ridx n
        if tiles.any (fun t => tileBusy s x (.scratch, t)) then stall s i x
        else
          (ownScratch (retire s i x.soil) x.core true (tiles.map (s.physTile x))).modCrew key (fun c =>
            c.setBuf k { b with filled := b.filled - n, free := b.free + n, ridx := (b.ridx + n) % b.slots })
      | _, _ => s) s

/-- `mbat`: closes a batch and writes its number; `ILLEGAL_OP` while slot B is live (R184, R208). -/
def execMbat (g : Grp) (o : OpCD) (s : State) : Outcome :=
  issue g (fun _ x _ => { Uses.of [.s o.d.toNat] with illegalState := x.b.live })
    (fun s x i =>
      let n := x.batch + 1
      retire s i (({ x with batch := n }).writeS i.slotB o.d.toNat (n.setWidth 64))) s

end Sys2Proof.Machine
end

