-- ==== Sys2Proof/Machine/Copy.lean ====
section
/-! DEFINITION. The copy engine (major `0x24`): `cpy`, `cpyg` and `cpyst`, their start, movement and completion, and the
activation stash (R178, R179, R216 to R224, R401 to R403). -/

namespace Sys2Proof.Machine

/-! The record (R216). -/

/-- Bytes of an element side: 1 for e2m1, whose elements are half bytes (R217). -/
def elemBytes (ty : Nat) : Nat := max 1 (codeWidth ty / 8)
/-- Source rows. -/
def Command.rows (c : Command) : Nat := c.field 2 15 0
/-- Source columns. -/
def Command.cols (c : Command) : Nat := c.field 2 31 16
/-- Source type code. -/
def Command.sty (c : Command) : Nat := c.field 2 39 32
/-- Destination type code. -/
def Command.dty (c : Command) : Nat := c.field 2 47 40
/-- TRANS. -/
def Command.trans (c : Command) : Bool := bit (c.word 2) 48
/-- FULLPOL. -/
def Command.fullPol (c : Command) : Nat := c.field 2 54 53
/-- ADV. -/
def Command.adv (c : Command) : Bool := bit (c.word 5) 20
/-- FULLEN. -/
def Command.fullEn (c : Command) : Bool := bit (c.word 5) 21
/-- FLIPEN. -/
def Command.flipEn (c : Command) : Bool := bit (c.word 5) 22
/-- FOLLOW. -/
def Command.follow (c : Command) : Bool := bit (c.word 5) 23
/-- FLIPT. -/
def Command.flipT (c : Command) : Nat := c.field 5 7 0
/-- FULLT. -/
def Command.fullT (c : Command) : Nat := c.field 5 15 8
/-- BUF. -/
def Command.buf (c : Command) : Nat := c.field 5 19 16
/-- The SCALE bits. -/
def Command.scale (c : Command) : Nat := c.field 4 63 32

/-- The window operand W (R217). -/
def Command.window (c : Command) : Option Nat :=
  if isWindow (c.word 1).toNat then some (c.word 1).toNat else if isWindow (c.word 0).toNat then some (c.word 0).toNat else none
/-- The tile core (R217). -/
def Command.tileCore (c : Command) : Nat := match c.window with | some w => windowCore w | none => c.core

/-- Bytes of a source row and of a destination row, and the destination's rows. -/
def Command.srcRow (c : Command) : Nat := c.cols * codeWidth c.sty / 8
/-- Bytes of a destination row. -/
def Command.dstRow (c : Command) : Nat := (if c.trans then c.rows else c.cols) * codeWidth c.dty / 8
/-- Destination rows. -/
def Command.dstRows (c : Command) : Nat := if c.trans then c.cols else c.rows
/-- Bytes from the first to past the last of a grid of rows. -/
def gridSpan (rows stride row : Nat) : Nat := if rows = 0 ∨ row = 0 then 0 else (rows - 1) * stride + row
/-- Bytes that the destination grid spans. -/
def Command.dstSpan (c : Command) : Nat := gridSpan c.dstRows (c.field 3 63 32) c.dstRow

/-- An integer type code. -/
def isIntCode (t : Nat) : Bool := decide (1 ≤ t) && decide (t ≤ 8)
/-- One of the five float types of R217. -/
def isFloatCode (t : Nat) : Bool := [0x10, 0x11, 0x12, 0x14, 0x15].contains t
/-- The type pair is allowed (R217). -/
def typePair (st dt : Nat) : Bool :=
  if isIntCode st || isFloatCode st then isIntCode dt || isFloatCode dt
  else if st = 0x17 then [0x17, 0x10, 0x11, 0x12].contains dt
  else st = 0x16 && dt = 0x16

/-! The activation stash (R401, R402). -/

/-- The stash of a context: base, slot size as a power of two, slots. -/
def stashOf (x : Ctx) : Nat × Nat × Nat :=
  (bits x.stashBase 56 12 * 4096, max 12 (min 24 (bits x.stashCfg 4 0)), bits x.stashCfg 31 16)

/-- The slot that a destination starts in (R402). -/
def stashSlot (x : Ctx) (dst : Nat) : Option Nat :=
  let (base, log, n) := stashOf x
  if base ≤ dst ∧ dst < base + n * 2 ^ log then some ((dst - base) / 2 ^ log) else none

/-- The context of a command. -/
def State.ctxOf (s : State) (c : Command) : Ctx := s.ctx (spaceKey c.part c.aspace)

/-- The slot of a stash copy. -/
def Command.stashSlot (s : State) (c : Command) : Option Nat := Machine.stashSlot (s.ctxOf c) (c.word 1).toNat

/-- Grounds for `ILLEGAL_OP` of the stash rules (R402). -/
def stashIllegal (s : State) (c : Command) : Bool :=
  let (base, log, n) := stashOf (s.ctxOf c)
  let dst := (c.word 1).toNat
  let top := base + n * 2 ^ log
  match c.stashSlot s with
  | some k => decide (base + (k + 1) * 2 ^ log < dst + c.dstSpan) || c.adv
  | none => decide (c.fullPol = 1) || (decide (n ≠ 0) && decide (dst < base) && decide (base < dst + c.dstSpan) && decide (base < top))

/-! The follow-on word (R221). -/

/-- The operands of a word of the format X (R47). -/
def followOp (w : W32) : OpX :=
  { na := bit w 19, nb := bit w 18, zc := bit w 17, c := w.extractLsb' 11 6, va := w.extractLsb' 6 5, vb := w.extractLsb' 1 5, ext := bit w 0 }
/-- The func of a word of major `0x20` with stall 0; none for another word (R221). -/
def followFunc (w : W32) : Option Nat := if bits w 31 24 = 0x80 ∧ bits w 23 20 ≤ 6 then some (bits w 23 20) else none
/-- The follow-on word of a command. -/
def Command.mword (c : Command) : W32 := (c.word 6).setWidth 32
/-- The extents of a follow-on (R221). -/
def Command.extents (c : Command) (sh : Shape) (o : OpX) : Extents :=
  if o.ext then { em := c.field 6 39 32, en := c.field 6 47 40, ek := c.field 6 55 48, sat := false }
  else { em := 16, en := 16, ek := sh.k, sat := false }

/-- Grounds for `ILLEGAL_OP` of a follow-on (R221). -/
def followIllegal (g : Gang) (c : Command) : Bool :=
  match followFunc c.mword with
  | none => true
  | some f =>
    let o := followOp c.mword
    let sh := (MatForm.dense f).shape
    let dst := (c.word 1).toNat
    let inTile (v : BitVec 5) : Bool := decide (v.toNat / 2 = c.flipT) && (!sh.scaled || decide (v.toNat % 2 = 0))
    decide (c.field 6 63 56 ≠ 0)
      || !(isWindow dst && windowKind dst == 0 && decide (windowCore dst = g.core) && decide (windowOffset dst / 2 ^ 14 = g.slotNo))
      || g.crewKey.isNone || !c.flipEn || c.adv || !inTile o.va || !inTile o.vb
      || (if o.ext then decide (16 < c.field 6 39 32) || decide (16 < c.field 6 47 40) || decide (sh.k < c.field 6 55 48)
          else decide (c.field 6 55 32 ≠ 0))

/-! Checks at issue (R217, R222, R223). -/

/-- A FULLT or FLIPT on the issuing core lies outside the issuing crew's tiles (R217). -/
def tileOutside (s : State) (g : Gang) (kind tile : Nat) : Bool :=
  match s.crewOf g with
  | some c => if kind = 2 then decide (tile < c.cfirst) || decide (c.cfirst + c.ccount ≤ tile)
      else decide (tile < c.tfirst) || decide (c.tfirst + c.tcount ≤ tile)
  | none => true

/-- Grounds for `ILLEGAL_OP` of a copy record (R217, R222, R402). -/
def copyIllegal (s : State) (g : Gang) (c : Command) (gather : Bool) : Bool :=
  let buf := s.bufOf g c.buf
  decide (c.field 2 63 55 ≠ 0) || decide (c.field 5 63 24 ≠ 0) || decide (5 < c.field 2 52 50) || decide (c.fullPol = 3)
    || !typePair c.sty c.dty
    || (decide (c.sty = 0x16) && (c.trans || decide (c.cols % 2 = 1)))
    || (decide (c.scale ≠ 0) && (decide (c.sty = 0x16) || (isIntCode c.sty && isIntCode c.dty)))
    || (c.flipEn && (match c.window with | none => true | some w => windowKind w == 0 && decide (16 ≤ c.flipT)))
    || (c.fullEn && (match c.window with | none => false | some w => windowKind w != 1))
    || (c.adv && (c.flipEn || decide (c.fullPol = 1) || !buf.defined || decide (c.field 1 63 16 ≠ 0)
          || decide (4096 * buf.span < c.field 1 15 0 + c.dstSpan)))
    || (if gather then c.trans || c.follow || decide (c.field 6 63 57 ≠ 0) else if c.follow then followIllegal g c else decide (c.word 6 ≠ 0))
    || stashIllegal s c

/-- Grounds for `ALIGN` of a copy record (R217, R222). -/
def copyMisaligned (c : Command) (gather : Bool) : Bool :=
  decide ((c.word 0).toNat % elemBytes c.sty ≠ 0) || decide (c.field 3 31 0 % elemBytes c.sty ≠ 0)
    || decide ((c.word 1).toNat % elemBytes c.dty ≠ 0) || decide (c.field 3 63 32 % elemBytes c.dty ≠ 0)
    || (gather && decide ((c.word 6).toNat % 4 ≠ 0))

/-- Grounds for `XLAT_PERM` of a copy record at issue (R217, R221). -/
def copyPerm (s : State) (g : Gang) (c : Command) : Bool :=
  let here := decide (c.tileCore = g.core)
  (c.fullEn && here && tileOutside s g 1 c.fullT)
    || (c.flipEn && here && (match c.window with
        | some w => if windowKind w = 0 then false else tileOutside s g (windowKind w) c.flipT
        | none => false))
    || (c.follow && decide (s.ccount g ≤ (followOp c.mword).c.toNat))

/-- Copy commands at a core's engine (R224). -/
def copyCount (s : State) (core : Nat) : Nat :=
  (s.cmds.filter (fun c => decide (c.2.core = core) && (match c.2.kind with | .cpy => true | .cpyg => true | .cpyst => true | _ => false))).length

/-- A copy command's issue (R210, R211, R217, R224). -/
def copyIssue (kind : CmdKind) (g : Grp) (o : OpCA) (s : State) : Outcome :=
  issue g
    (fun s x i =>
      let c := newCommand s x i kind (recordBlock o.a x i)
      let u := blockUses o.a
      if u.illegal || u.misaligned then u
      else
        let gather := kind == .cpyg
        { u with
          illegalState := copyIllegal s x c gather
          misaligned := copyMisaligned c gather
          perm := copyPerm s x c })
    (fun s x i =>
      if 16 ≤ copyCount s x.core then stall s i x
      else sendCommand s i x (heldByFence x i.pos) (newCommand s x i kind (recordBlock o.a x i))) s

/-- `cpy` (R217, R218). -/
def execCpy (g : Grp) (o : OpCA) (s : State) : Outcome := copyIssue .cpy g o s
/-- `cpyg` (R222). -/
def execCpyg (g : Grp) (o : OpCA) (s : State) : Outcome := copyIssue .cpyg g o s

/-- The gang's commands that are still held for a commit (R211). -/
def heldCommands (g : Gang) : List Nat := g.entries.filterMap (fun e => match e.kind with | .command n _ => some n | _ => none)

/-- `cpyst` (R223). -/
def execCpyst (g : Grp) (o : OpCA) (s : State) : Outcome :=
  issue g
    (fun s x i =>
      let c := newCommand s x i .cpyst (recordBlock o.a x i)
      let u := blockUses o.a
      if u.illegal || u.misaligned then u
      else { u with
        illegalState := [0, 1, 2, 3, 4, 6].any (fun j => decide (c.word j ≠ 0)) || decide (c.field 5 7 0 ≠ 0) || decide (c.field 5 20 16 ≠ 0)
          || decide (c.field 5 63 22 ≠ 0)
        perm := c.fullEn && tileOutside s x 1 c.fullT })
    (fun s x i =>
      if 16 ≤ copyCount s x.core then stall s i x
      else
        let held := heldByFence x i.pos || x.covered.any (fun n => (heldCommands x).contains n)
        sendCommand s i x held { newCommand s x i .cpyst (recordBlock o.a x i) with covered := x.covered }) s

/-! The start (R179, R219, R220, R222, R402, R403). -/

/-- The index of a row of `cpyg`: none for a zero-filled row (R222). -/
def rowIndex (c : Command) (r : Nat) : Option Nat :=
  let x := (tget 0 c.index r).toNat
  if x = 0xFFFFFFFF ∨ c.field 4 15 0 ≤ r then none else some x

/-- The source address of a row that is read. -/
def rowSource (c : Command) (r : Nat) : Option Nat :=
  match c.kind with
  | .cpyg => (rowIndex c r).map (fun x => ((c.word 0).toNat + x * c.field 3 31 0) % 2 ^ 64)
  | _ => if r < c.field 4 15 0 then some (((c.word 0).toNat + r * c.field 3 31 0) % 2 ^ 64) else none

/-- Bytes of a row that are read: the valid columns. -/
def Command.validRow (c : Command) : Nat := (min c.cols (c.field 4 31 16) * codeWidth c.sty + 7) / 8

/-- The window tiles that a row of bytes touches: core, kind and tile. -/
def rowTiles (va n : Nat) : List (Nat × Nat × Nat) :=
  if n = 0 then []
  else
    let k := windowKind va
    let o := windowOffset va
    dedup ((List.range ((o + n - 1) / windowTile k - o / windowTile k + 1)).map (fun j =>
      (windowCore va, k, windowTileOf k ((o / windowTile k + j) * windowTile k))))

/-- A byte range leaves the kind and core it starts in (R219). -/
def leavesWindow (va n : Nat) : Bool := decide (n ≠ 0) && decide (va / 2 ^ 38 ≠ (va + n - 1) / 2 ^ 38 ∨ windowSize (windowKind va) < windowOffset va + n)

/-- The tiles of a copy's window sides, source rows that are read and destination rows (R219). -/
def touchedTiles (c : Command) : List (Nat × Nat × Nat) :=
  let src := if isWindow (c.word 0).toNat then
      (List.range c.rows).flatMap (fun r => match rowSource c r with | some a => rowTiles a c.validRow | none => [])
    else []
  let dst := if !c.adv && isWindow (c.word 1).toNat then
      (List.range c.dstRows).flatMap (fun i => rowTiles ((c.word 1).toNat + i * c.field 3 63 32) c.dstRow)
    else []
  dedup (src ++ dst)

/-- A side's range leaves its window, or the rows of a gather lie in different ones (R219). -/
def rangesLeave (c : Command) : Bool :=
  (isWindow (c.word 0).toNat && (match c.kind with
    | .cpyg =>
      let rows := (List.range c.rows).filterMap (rowSource c)
      decide (c.srcRow ≠ 0) && rows.any (fun a => !isWindow a || leavesWindow a c.srcRow || rows.any (fun b => decide (a / 2 ^ 38 ≠ b / 2 ^ 38)))
    | _ => leavesWindow (c.word 0).toNat (gridSpan c.rows (c.field 3 31 0) c.srcRow)))
  || (!c.adv && isWindow (c.word 1).toNat && leavesWindow (c.word 1).toNat c.dstSpan)

/-- The tiles that FLIPT and FULLT name, as core, kind and number (R220). -/
def namedTiles (c : Command) : List (Nat × Nat × Nat) :=
  (if c.fullEn then [(c.tileCore, 1, c.fullT)] else []) ++
  (if c.flipEn then (match c.window with
    | some w => [(c.tileCore, windowKind w, if windowKind w = 0 then windowOffset w / 2 ^ 14 * 16 + c.flipT else c.flipT)]
    | none => []) else [])

/-- What the tile checks of a start find: not allocated, thread-owned, or neither (R219). -/
def startCheck (s : State) (c : Command) : Option Nat :=
  let own (t : Nat × Nat × Nat) := windowOwner s c.who t.1 t.2.1 t.2.2
  if rangesLeave c || (touchedTiles c ++ namedTiles c).any (fun t => (own t).isNone) then none
  else some (if (touchedTiles c).any (fun t => own t == some false) then 1 else 0)

/-- The buffer that a command advances. -/
def advBuf (s : State) (c : Command) : Option (Crew × CBuf) :=
  match c.crewKey.bind (aget s.crews) with | some x => some (x, x.buf c.buf) | none => none

/-- The command takes the slot at WIDX (R179). -/
def takeSlot (s : State) (c : Command) : State × Command :=
  match c.crewKey, advBuf s c with
  | some key, some (_, b) =>
    (s.modCrew key (fun x => x.setBuf c.buf { b with free := b.free - 1, widx := (b.widx + 1) % b.slots }), { c with slot := some b.widx })
  | _, _ => (s, c)

/-- The address of the occupancy word of a stash slot (R401, R403). -/
def occupancyAddress (s : State) (c : Command) (k : Nat) : Nat := bits (s.ctxOf c).stashOcc 56 2 * 4 + 4 * k

/-- Reads the index list of a `cpyg` (R222); a fault parks the command in its start, which it then takes up again. -/
def readIndex (s : State) (n : Nat) (c : Command) : State × Option Command :=
  match engReadMany s c.who (c.field 6 56 0) 4 c.rows with
  | (s1, .ok bs) => (s1, some { c with index := (List.range c.rows).map (fun r => w32 (ofBytes ((bs.drop (4 * r)).take 4))) })
  | (s1, .error (.ecc key, _)) => ((logUncorr s1 c.part (homePA c.part key)).setCmd n { c with started := true, landed := true, code := 3 }, none)
  | (s1, .error (e, va)) => (commandFault s1 n { c with started := false } .engRead va e, none)

/-- The end of a start, once the command has its slot or its place in the stash: the index list of a gather from a window is read, and
the tiles are checked (R219, R222). -/
def checkStart (s : State) (n : Nat) (c : Command) : State :=
  match (if c.kind == .cpyg && isWindow (c.word 0).toNat then readIndex s n c else (s, some c)) with
  | (s1, none) => s1
  | (s1, some c1) =>
    match startCheck s1 c1 with
    | none => commandFault s1 n { c1 with started := true } .engWrite ((c1.window.getD (c1.word 1).toNat)) .perm
    | some 1 => s1.setCmd n { c1 with started := true, landed := true, code := 1 }
    | some _ => s1.setCmd n { c1 with started := true }

/-- The read-and-update of an occupancy word (R403); it comes before the checks of the start, so that a command that ends with CODE 1
or 3 leaves its bit set (notes/assumptions/90.md). Where the word is uncorrectable, the command ends with CODE 3 (R215, R345). A waiting command whose group has been discarded ends with CODE 2. -/
def stashTry (s : State) (n : Nat) (c : Command) (k : Nat) : State :=
  let a := occupancyAddress s c k
  let full (s : State) : State := s.setCmd n { c with started := true, landed := true, code := 2, stash := .none }
  if c.stash == .waiting && c.discarded then full s
  else match locate s c.who a .write 4 with
  | (s1, .error e) => commandFault s1 n c .engWrite a e
  | (s1, .ok x) =>
    match readSite s1 x 4 with
    | .error (.ecc key) =>
      (logUncorr s1 c.part (homePA c.part key)).setCmd n { c with started := true, landed := true, code := 3, stash := .none }
    | .error e => commandFault s1 n c .engRead a e
    | .ok bs =>
      let w := ofBytes bs
      let sen := bit (s1.ctxOf c).stashSpill 0
      let put (v : Nat) (st : StashState) : State :=
        match writeSite s1 x (toBytes 4 v) with
        | .ok s2 => checkStart s2 n { c with stash := st }
        | .error e => commandFault s1 n c .engWrite a e
      if w % 2 = 0 then put (w + 1) .primary
      else if c.fullPol = 2 then full s1
      else if c.fullPol = 1 ∧ sen ∧ w / 2 % 2 = 0 then put (w + 2) .second
      else if c.discarded then full s1
      else s1.setCmd n { c with started := true, stash := .waiting }

/-- Starts a copy, or resumes a start that parked: it takes its slot, or its place in the stash, first (R219, R220, R403). -/
def startCopy (s : State) (n : Nat) (c : Command) : State :=
  let full := c.adv && c.slot.isNone && (match advBuf s c with | some (_, b) => decide (b.free = 0) | none => true)
  if full && (decide (c.fullPol = 2) || c.discarded) then s.setCmd n { c with started := true, landed := true, code := 2 }
  else if full then s
  else
    let (s1, c1) := if c.adv && c.slot.isNone then takeSlot s c else (s, c)
    match c1.stash, c1.stashSlot s1 with
    | .none, some k => stashTry s1 n c1 k
    | _, _ => checkStart s1 n c1

/-- An earlier copy command of the core's engine has not begun to start; one that parked in its start holds no other up (R215, R224). -/
def earlierUnstarted (s : State) (core n : Nat) : Bool :=
  (s.cmds.takeWhile (fun c => decide (c.1 ≠ n))).any (fun c => decide (c.2.core = core) && !c.2.started && !c.2.parked &&
    (match c.2.kind with | .cpy => true | .cpyg => true | _ => false))

/-- `COPY_COMMAND_START` (R219). -/
def execCopyCommandStart (core command : Nat) (s : State) : Outcome :=
  match findCommand s core command (fun k => k == .cpy || k == .cpyg) with
  | none => .next s
  | some c =>
    if c.started || earlierUnstarted s core command then .next s else .next (startCopy s command c)

/-- `STASH_OCCUPANCY_RETRY` (R403). -/
def execStashOccupancyRetry (core command : Nat) (s : State) : Outcome :=
  match findCommand s core command (fun k => k == .cpy || k == .cpyg) with
  | none => .next s
  | some c =>
    match c.stash, c.stashSlot s with
    | .waiting, some k => .next (stashTry s command c k)
    | _, _ => .next s

/-! Movement (R218, R222). -/

/-- One element converted (R218); an exact product with the scale is narrower than no format. -/
def convElem (c : Command) (draw b : Nat) : Nat :=
  let st := c.sty
  let dt := c.dty
  if st = dt ∧ c.scale = 0 then b % 2 ^ codeWidth dt
  else
    let rm := Rnd.of (c.field 2 52 50)
    let sat := bit (c.word 2) 49
    let x := codeVal st b
    let x := if c.scale = 0 then x else .float 64 ((match x with | .int n => FVal.ofInt n | .float _ v => v).mul (fF32.val c.scale))
    let w := codeWidth dt
    if isIntCode dt then x.toInt rm sat draw w (dt % 2 = 1)
    else match dt with
      | 0x17 => roundE8M0 (match x with | .int n => FVal.ofInt n | .float _ v => v) rm sat draw
      | 0x10 => x.toFloat fF16 rm sat draw
      | 0x11 => x.toFloat fBF16 rm sat draw
      | 0x14 => x.toFloat fE4M3 rm sat draw
      | 0x15 => x.toFloat fE5M2 rm sat draw
      | _ => x.toFloat fF32 rm sat draw

/-- The draw of an element under `rsr` (R87). -/
def copyDraw (c : Command) (r col : Nat) : Nat :=
  if c.field 2 52 50 = 5 then rsrBits c.seed (w64 (r * 2 ^ 16 + col)) c.icnt 0x80 else 0

/-- Where the destination of a copy begins: a slot of a buffer, the stash's second level, or DST (R220, R403). -/
def copyDest (s : State) (c : Command) : Nat ⊕ (Nat × Nat) :=
  match c.slot, advBuf s c with
  | some slot, some (x, b) => .inr (c.core, 4096 * (x.tfirst + b.first + slot * b.span) + c.field 1 15 0)
  | _, _ =>
    match c.stash, c.stashSlot s with
    | .second, some k =>
      let (base, log, _) := stashOf (s.ctxOf c)
      .inl (bits (s.ctxOf c).stashSpill 56 12 * 4096 + k * 2 ^ log + ((c.word 1).toNat - (base + k * 2 ^ log)))
    | _, _ => .inl (c.word 1).toNat

/-- Locates destination bytes. -/
def locateDest (s : State) (c : Command) (offset size : Nat) : State × Except EngFault Site × Nat :=
  match copyDest s c with
  | .inr (core, o) => (s, .ok (.scratch core (o + offset)), 0)
  | .inl va => let a := (va + offset) % 2 ^ 64; let (s1, x) := locate s c.who a .write size; (s1, x, a)

/-- The faults of moving one element, with the access kind and address. -/
abbrev Moved := Except (EngFault × AccessKind × Nat) Unit

/-- Bytes at a window address lie in a thread-owned tile (R38). -/
def threadOwned (s : State) (c : Command) (va n : Nat) : Bool :=
  isWindow va && (rowTiles va n).any (fun t => windowOwner s c.who t.1 t.2.1 t.2.2 == some false)

/-- The source bits of an element, when it is read (R218, R222). A row that the index list places in a window, where SRC is none, has its
tiles' owner bits checked as it is read (R38). -/
def readElem (s : State) (c : Command) (r col : Nat) : State × Except (EngFault × AccessKind × Nat) (Option Nat) :=
  let get (s : State) (base : Option Nat) : State × Except (EngFault × AccessKind × Nat) (Option Nat) :=
    match base with
    | none => (s, .ok none)
    | some a =>
      if c.field 4 31 16 ≤ col then (s, .ok none)
      else
        let w := codeWidth c.sty
        let va := (a + col * w / 8) % 2 ^ 64
        match engRead s c.who va (elemBytes c.sty) with
        | (s1, .ok bs) => (s1, .ok (some (if w = 4 then ofBytes bs / 2 ^ (4 * (col % 2)) % 16 else ofBytes bs)))
        | (s1, .error e) => (s1, .error (e, .engRead, va))
  if c.kind == .cpyg && !isWindow (c.word 0).toNat then
    if c.field 4 15 0 ≤ r then (s, .ok none)
    else
      let va := c.field 6 56 0 + 4 * r
      match engRead s c.who va 4 with
      | (s1, .ok bs) =>
        let x := ofBytes bs
        let base := ((c.word 0).toNat + x * c.field 3 31 0) % 2 ^ 64
        if x = 0xFFFFFFFF then get s1 none
        else if col < c.field 4 31 16 ∧ threadOwned s1 c ((base + col * codeWidth c.sty / 8) % 2 ^ 64) (elemBytes c.sty) then (s1, .error (.owned, .engRead, base))
        else get s1 (some base)
      | (s1, .error e) => (s1, .error (e, .engRead, va))
  else get s (rowSource c r)

/-- The address of a source element, if it is read (R218, R222). -/
def elemSource (s : State) (c : Command) (r col : Nat) : Option Nat :=
  if c.field 4 31 16 ≤ col then none
  else
    let base := if c.kind == .cpyg && !isWindow (c.word 0).toNat then
        if c.field 4 15 0 ≤ r then none
        else match (engRead s c.who (c.field 6 56 0 + 4 * r) 4).2 with
          | .ok bs => let x := ofBytes bs; if x = 0xFFFFFFFF then none else some (((c.word 0).toNat + x * c.field 3 31 0) % 2 ^ 64)
          | .error _ => none
      else rowSource c r
    base.map (fun a => (a + col * codeWidth c.sty / 8) % 2 ^ 64)

/-- The address of a destination element, where it is none of the crew's tiles (R218, R220). -/
def elemDest (s : State) (c : Command) (r col : Nat) : Option Nat :=
  let (i, j) := if c.trans then (col, r) else (r, col)
  match copyDest s c with
  | .inl va => some ((va + (i * c.field 3 63 32 + j * codeWidth c.dty / 8)) % 2 ^ 64)
  | .inr _ => none

/-- An access that a copy has still to make: of an element left to it, numbered from the next, the read for an even `index` and the write for an odd
one; once the elements have landed, the status record (R212, R214, R218). -/
def copyAccess (s : State) (c : Command) (index : Nat) : Option (AccessKind × Nat) :=
  let k := c.progress + index / 2
  if c.landed then (if c.field 7 63 16 = 0 then none else some (.engWrite, c.field 7 63 16 * 16))
  else if !c.started || c.stash == .waiting || decide (c.rows * c.cols ≤ k) then none
  else if index % 2 = 0 then (elemSource s c (k / c.cols) (k % c.cols)).map (fun va => (.engRead, va))
  else (elemDest s c (k / c.cols) (k % c.cols)).map (fun va => (.engWrite, va))

/-- Moves element `k` of the element order (R218). -/
def moveElem (s : State) (c : Command) (k : Nat) : State × Moved :=
  let r := k / c.cols
  let col := k % c.cols
  match readElem s c r col with
  | (s1, .error e) => (s1, .error e)
  | (s1, .ok b) =>
    let y := match b with | none => 0 | some b => convElem c (copyDraw c r col) b
    let (i, j) := if c.trans then (col, r) else (r, col)
    let w := codeWidth c.dty
    match locateDest s1 c (i * c.field 3 63 32 + j * w / 8) (elemBytes c.dty) with
    | (s2, .error e, va) => (s2, .error (e, .engWrite, va))
    | (s2, .ok x, va) =>
      let data : Except EngFault (List Byte) :=
        if w = 4 then (match readSite s2 x 1 with
          | .ok old =>
            let o := ofBytes old
            .ok (toBytes 1 (if j % 2 = 0 then o / 16 * 16 + y else o % 16 + y * 16))
          | .error e => .error e)
        else .ok (toBytes (w / 8) y)
      match data with
      | .error e => (s2, .error (e, .engWrite, va))
      | .ok bs => (match writeSite s2 x bs with | .ok s3 => (s3, .ok ()) | .error e => (s2, .error (e, .engWrite, va)))

/-- Moves up to `fuel` elements from element `k`: the state, the elements finished, and the fault that stopped it (R215). -/
def moveFrom (c : Command) : (fuel : Nat) → State → (k : Nat) → State × Nat × Option (EngFault × AccessKind × Nat)
  | 0, s, k => (s, k, none)
  | fuel + 1, s, k =>
    match moveElem s c k with
    | (s1, .ok ()) => moveFrom c fuel s1 (k + 1)
    | (s1, .error e) => (s1, k, some e)

/-! Completion (R179, R214, R215, R220, R221). -/

/-- Completed slots become filled in order (R179). -/
def fillSlots : (fuel : Nat) → CBuf → List Nat → CBuf × List Nat
  | 0, b, tiles => (b, tiles)
  | fuel + 1, b, tiles =>
    let next := (b.ridx + b.filled) % b.slots
    if b.held.contains next then
      fillSlots fuel { b with filled := b.filled + 1, held := b.held.filter (· ≠ next) } (tiles ++ b.tiles next 1)
    else (b, tiles)

/-- The command's slot completes, once the slots before it have (R179). -/
def completeSlot (s : State) (c : Command) : State :=
  match c.slot, c.crewKey, advBuf s c with
  | some slot, some key, some (x, b) =>
    let (b1, tiles) := fillSlots b.slots { b with held := slot :: b.held } []
    (ownScratch s x.core false (tiles.map (fun t => x.tfirst + t))).modCrew key (fun x => x.setBuf c.buf b1)
  | _, _, _ => s

/-- FLIPT becomes thread-owned (R220). -/
def flipTile (s : State) (c : Command) : State :=
  match c.window with
  | none => s
  | some w =>
    match windowKind w with
    | 0 => (match crewGangAt s c.who c.tileCore (windowOffset w / 2 ^ 14) with | some (id, _) => flipRegTile s id c.flipT | none => s)
    | 1 => ownScratch s c.tileCore false [c.flipT]
    | _ => ownAcc s c.tileCore c.flipT false

/-- The completion actions after the status record, and the command's end (R212, R215, R220). -/
def copyActions (s : State) (n : Nat) (c : Command) : State :=
  let s := if c.code = 0 then s else { s with failed := s.failed ++ [n] }
  if c.code = 2 then s.dropCmd n
  else
    let s1 := if c.fullEn && decide (c.code = 0) then setFull s c.tileCore c.fullT true else s
    let s2 := if c.adv then completeSlot s1 c else s1
    let s3 := if c.flipEn then flipTile s2 c else s2
    (sceneClear s3).dropCmd n

/-- DONE of a copy: elements written, or rows finished (R218, R222). -/
def copyDone (c : Command) : Nat :=
  match c.kind with
  | .cpyg => if c.cols = 0 then (if c.code = 0 then c.rows else 0) else c.progress / c.cols
  | _ => c.progress

/-- AUX of a copy (R403). -/
def copyAux (c : Command) : W64 := if c.stash == .second then 1 else 0

/-- Writes the status record and performs the completion actions (R220). -/
def finishCopy (s : State) (n : Nat) (c : Command) : State :=
  match writeStatus s n c c.code (copyDone c) (copyAux c) with
  | (s1, true) => copyActions s1 n c
  | (s1, false) => s1

/-- The issuing gang, when its task may still issue a follow-on (R213). -/
def followGang (s : State) (c : Command) : Option (Nat × Gang) :=
  if c.discarded then none else match c.gang with | some id => (aget s.gangs id).map (fun g => (id, g)) | none => none

/-- The follow-on operation issues (R221); none while the array is full. -/
def issueFollow (s : State) (c : Command) : Option (State × Nat) :=
  match followGang s c, followFunc c.mword with
  | some (id, g), some f =>
    let o := followOp c.mword
    let form := MatForm.dense f
    if tileOwned s g (.acc, o.c.toNat) then some (s, 1)
    else if arrayFull s g.core then none
    else some (enterArray s g.core { newOp s g 0 form o (c.extents form.shape o) with gang := some id, batch := c.batch }, 0)
  | _, _ => some (s, 0)

/-- A started copy moves `n` elements more, as far as no fault stops it (R212, R218). -/
def copyMoves (s : State) (core command n : Nat) : State :=
  match findCommand s core command (fun k => k == .cpy || k == .cpyg) with
  | none => s
  | some c =>
    if !c.started || c.stash == .waiting || c.landed then s
    else
      match moveFrom c (min n (c.rows * c.cols - c.progress)) s c.progress with
      | (s1, k, some (.ecc key, .engRead, _)) =>
        (logUncorr s1 c.part (homePA c.part key)).setCmd command { c with progress := k, landed := true, code := 3 }
      | (s1, k, some (e, kind, va)) => commandFault s1 command { c with progress := k } kind va e
      | (s1, k, none) => s1.setCmd command { c with progress := k }

/-- `COPY_COMPLETION`: the elements land, a follow-on issues, and the completion actions follow (R218 to R221). -/
def execCopyCompletion (core command : Nat) (s : State) : Outcome :=
  match findCommand s core command (fun k => k == .cpy || k == .cpyg) with
  | none => .next s
  | some c =>
    if !c.started || c.stash == .waiting then .next s
    else if c.landed then .next (finishCopy s command c)
    else
      match moveFrom c (c.rows * c.cols - c.progress) s c.progress with
      | (s1, k, some (.ecc key, .engRead, _)) =>
        .next (finishCopy (logUncorr s1 c.part (homePA c.part key)) command { c with progress := k, landed := true, code := 3 })
      | (s1, k, some (e, kind, va)) => .next (commandFault s1 command { c with progress := k } kind va e)
      | (s1, k, none) =>
        let c1 := { c with progress := k }
        if c.follow then
          match issueFollow s1 c1 with
          | some (s2, code) => .next (finishCopy s2 command { c1 with landed := true, code := code })
          | none => .next (s1.setCmd command c1)
        else .next (finishCopy s1 command { c1 with landed := true })

/-- A command of a marker's cover is unfinished: at its engine or held for a commit (R223). -/
def stillThere (s : State) (n : Nat) : Bool :=
  (aget s.cmds n).isSome || s.gangs.any (fun x => (heldCommands x.2).contains n)

/-- `CPYST_COMPLETION` (R223). -/
def execCpystCompletion (core command : Nat) (s : State) : Outcome :=
  match findCommand s core command (fun k => k == .cpyst) with
  | none => .next s
  | some c =>
    if c.covered.any (stillThere s) then .next s
    else
      let copies := c.covered.filter (fun n => !s.markers.contains n)
      match writeStatus s command c 0 copies.length (w64 (copies.filter (fun n => s.failed.contains n)).length) with
      | (s1, true) =>
        let s2 := if c.fullEn then setFull s1 c.core c.fullT true else s1
        .next ({ s2 with markers := s2.markers ++ [command] }.dropCmd command)
      | (s1, false) => .next s1

end Sys2Proof.Machine
end

