-- ==== Sys2Proof/Machine/Sort.lean ====
section
/-! DEFINITION. The sort engine (major `0x25`): `sort` and `sortr` (R225 to R227). -/

namespace Sys2Proof.Machine

/-- Address words whose bits [63:57] are not 0. -/
def highBits (c : Command) (js : List Nat) : Bool := js.any (fun j => decide (c.field j 63 57 ≠ 0))

/-- Grounds for `ILLEGAL_OP` of a `sort` record (R225). -/
def sortIllegal (c : Command) : Bool :=
  let b := c.field 4 46 40
  let lo := c.field 4 37 32
  highBits c [0, 1, 2, 3, 5] || decide (c.field 4 39 38 ≠ 0) || bit (c.word 4) 47 || bit (c.word 4) 49 || decide (c.field 4 63 51 ≠ 0)
    || decide (c.field 6 7 0 ≠ 0) || decide (c.field 6 20 16 ≠ 0) || decide (c.field 6 63 22 ≠ 0)
    || decide (b = 0) || decide (64 < lo + b) || (bit (c.word 4) 48 && (decide (lo ≠ 0) || decide (b < 32)))

/-- Grounds for `ALIGN` of a `sort` record (R225). -/
def sortMisaligned (c : Command) : Bool :=
  [0, 2, 5].any (fun j => decide ((c.word j).toNat % 8 ≠ 0)) || (bit (c.word 4) 50 && [1, 3].any (fun j => decide ((c.word j).toNat % 4 ≠ 0)))

/-- Grounds for `ILLEGAL_OP` of a `sortr` record (R225). -/
def sortrIllegal (c : Command) : Bool :=
  let b := c.field 3 44 40
  highBits c [0, 1] || decide (c.field 2 63 32 ≠ 0) || decide (c.field 3 39 38 ≠ 0) || decide (c.field 3 63 45 ≠ 0)
    || decide (c.word 4 ≠ 0) || decide (c.word 5 ≠ 0)
    || decide (c.field 6 7 0 ≠ 0) || decide (c.field 6 20 16 ≠ 0) || decide (c.field 6 63 22 ≠ 0)
    || decide (b = 0) || decide (64 < c.field 3 37 32 + b)

/-- FULLEN and FULLT of a sort record. -/
def sortFull (c : Command) : Option Nat := if bit (c.word 6) 21 then some (c.field 6 15 8) else none

/-- Commands at a die's sort engine (R225). -/
def sortCommands (s : State) (die : Nat) : List (Nat × Command) :=
  s.cmds.filter (fun c => decide (c.2.die = die) && (c.2.kind == .sort || c.2.kind == .sortr))

/-- A sort command's issue (R210, R225). -/
def sortIssue (kind : CmdKind) (illegal misaligned : Command → Bool) (g : Grp) (o : OpCA) (s : State) : Outcome :=
  issue g
    (fun s x i =>
      let c := newCommand s x i kind (recordBlock o.a x i)
      let u := blockUses o.a
      if u.illegal || u.misaligned then u
      else { u with
        illegalState := illegal c
        misaligned := misaligned c
        perm := match sortFull c with | some t => tileOutside s x 1 t | none => false })
    (fun s x i =>
      if 32 ≤ (sortCommands s x.die).length then stall s i x
      else sendCommand s i x (heldByFence x i.pos) (newCommand s x i kind (recordBlock o.a x i))) s

/-- `sort` (R225, R226). -/
def execSort (g : Grp) (o : OpCA) (s : State) : Outcome := sortIssue .sort sortIllegal sortMisaligned g o s
/-- `sortr` (R225, R227). -/
def execSortr (g : Grp) (o : OpCA) (s : State) : Outcome :=
  sortIssue .sortr sortrIllegal (fun c => [0, 1].any (fun j => decide ((c.word j).toNat % 8 ≠ 0))) g o s

/-- `SORT_COMMAND_START`: the first queued command starts when none is running (R225). -/
def execSortCommandStart (die : Nat) (s : State) : Outcome :=
  match sortCommands s die with
  | (n, c) :: _ => .next (if c.started || !commandLive s c then s else s.setCmd n { c with started := true })
  | [] => .next s

/-- Only local HBM is in the reach of the sort and link engines: a page of peer memory, reachable or not, and a page of host memory,
translated or not, is `XLAT_PERM` (R225, R246). -/
def localOnly (s : State) (w : Access.Who) (va : Nat) (n : Need) (size : Nat) : State × Except EngFault Site :=
  match locate s w va n size with
  | (s1, .ok (.home part pa scene)) => (s1, if aperture pa = 0 then .ok (.home part pa scene) else .error .perm)
  | (s1, .ok _) => (s1, .error .perm)
  | (s1, .error (.lost _)) => (s1, .error .perm)
  | (s1, .error .refused) => (s1, .error .perm)
  | (s1, .error .training) => (s1, .error .perm)
  | (s1, .error (.wait _ _ _)) => (s1, .error .perm)
  | (s1, .error (.miss (some _))) => (s1, .error .perm)
  | x => x

/-- Reads `n` words of `size` bytes from local HBM. -/
def readLocal (s : State) (w : Access.Who) (va size : Nat) : (n : Nat) → State × Except (EngFault × Nat) (List Nat)
  | 0 => (s, .ok [])
  | n + 1 =>
    match readLocal s w va size n with
    | (s1, .error e) => (s1, .error e)
    | (s1, .ok xs) =>
      let a := va + size * n
      match localOnly s1 w a .read size with
      | (s2, .ok x) =>
        let s3 := match x with | .home part pa _ => correctUnits s2 part (memKey part pa) size | _ => s2
        (match readSite s3 x size with | .ok bs => (s3, .ok (xs ++ [ofBytes bs])) | .error e => (s3, .error (e, a)))
      | (s2, .error e) => (s2, .error (e, a))

/-- Writes bytes to local HBM. -/
def writeLocal (s : State) (w : Access.Who) (va : Nat) (data : List Byte) : State × Except EngFault Unit :=
  match localOnly s w va .write data.length with
  | (s1, .ok x) => (match writeSite s1 x data with | .ok s2 => (s2, .ok ()) | .error e => (s1, .error e))
  | (s1, .error e) => (s1, .error e)

/-- The order of a key (R226). -/
def sortOrd (c : Command) (k : Nat) : Nat :=
  if bit (c.word 4) 48 then
    let lo := k % 2 ^ 32
    k / 2 ^ 32 * 2 ^ 32 + (if lo / 2 ^ 31 = 1 then 2 ^ 32 - 1 - lo else lo + 2 ^ 31)
  else k

/-- The digits of a key that are sorted by (R226). -/
def sortField (c : Command) (k : Nat) : Nat := sortOrd c k / 2 ^ c.field 4 37 32 % 2 ^ c.field 4 46 40

/-- A fault of a read: an uncorrectable unit ends the command with CODE 3 (R215). -/
def engineReadFault (s : State) (n : Nat) (c : Command) (e : EngFault) (va : Nat) (finish : State → Command → State) : State :=
  match e with
  | .ecc key => finish (logUncorr s c.part (homePA c.part key)) { c with landed := true, code := 3 }
  | e => commandFault s n c .engRead va e

/-- The end of a sort command: status record, then full bit (R214, R225). -/
def finishSort (s : State) (n count : Nat) (aux : W64) (c : Command) : State :=
  match writeStatus s n c c.code count aux with
  | (s1, true) =>
    let s2 := match sortFull c with | some t => if c.code = 0 then setFull s1 c.core t true else s1 | none => s1
    (sceneClear s2).dropCmd n
  | (s1, false) => s1

/-- COUNT of a `sort`. -/
def Command.sortCount (c : Command) : Nat := c.field 4 31 0

/-- The free bytes left in TEMP (R226). -/
def tempBytes (s : State) (k : Nat) : List Byte := (List.range 12).map (fun j => Config.freeByte s.tick (12 * k + j))

/-- Writes element `k` of a sort's output, and the free bytes of TEMP beside it. -/
def writeSorted (s : State) (c : Command) (k : Nat) : State × Except (EngFault × Nat) Unit :=
  let pay := bit (c.word 4) 50
  let kd := (c.word 2).toNat + 8 * k
  let pd := (c.word 3).toNat + 4 * k
  let td := (c.word 5).toNat + 12 * k
  let put (s : State) (va : Nat) (data : List Byte) : State × Except (EngFault × Nat) Unit :=
    match writeLocal s c.who va data with | (s1, .ok ()) => (s1, .ok ()) | (s1, .error e) => (s1, .error (e, va))
  let temp (s : State) (j : Nat) := put s (td + 4 * j) ((tempBytes s k).drop (4 * j) |>.take 4)
  match temp s 0 with
  | (s1, .error e) => (s1, .error e)
  | (s1, .ok ()) => match temp s1 1 with
    | (s2, .error e) => (s2, .error e)
    | (s2, .ok ()) => match temp s2 2 with
      | (s3, .error e) => (s3, .error e)
      | (s3, .ok ()) =>
        match put s3 kd (toBytes 4 (tget 0 c.index (3 * k)).toNat ++ toBytes 4 (tget 0 c.index (3 * k + 1)).toNat) with
        | (s4, .error e) => (s4, .error e)
        | (s4, .ok ()) => if pay then put s4 pd (toBytes 4 (tget 0 c.index (3 * k + 2)).toNat) else (s4, .ok ())

/-- Writes the sorted elements from element `k` on (R215). -/
def writeSortedFrom (c : Command) : (fuel : Nat) → State → (k : Nat) → State × Nat × Option (EngFault × Nat)
  | 0, s, k => (s, k, none)
  | fuel + 1, s, k =>
    match writeSorted s c k with
    | (s1, .ok ()) => writeSortedFrom c fuel s1 (k + 1)
    | (s1, .error e) => (s1, k, some e)

/-- The sorted pairs as words: key low, key high, payload. -/
def sortedWords (c : Command) (keys pays : List Nat) : List W32 :=
  (sortBy (fun (a b : Nat × Nat) => decide (sortField c a.1 < sortField c b.1)) (keys.zipIdx.map (fun (k, j) => (k, tget 0 pays j)))).flatMap
    (fun (k, p) => [w32 k, w32 (k / 2 ^ 32), w32 p])

/-- A `sort` runs: it reads its keys and payloads, then writes them in order (R215, R226). -/
def runSort (s : State) (n : Nat) (c : Command) : State :=
  let count := c.sortCount
  let fin (s : State) (c : Command) : State := finishSort s n (if c.code = 0 then count else c.progress) 0 c
  let write (s : State) (c : Command) : State :=
    match writeSortedFrom c (count - c.progress) s c.progress with
    | (s1, k, none) => fin s1 { c with progress := k, landed := true }
    | (s1, k, some (e, va)) => commandFault s1 n { c with progress := k } .engWrite va e
  if c.landed then fin s c
  else if !c.index.isEmpty || count = 0 then write s c
  else
    match readLocal s c.who (c.word 0).toNat 8 count with
    | (s1, .error (e, va)) => engineReadFault s1 n c e va fin
    | (s1, .ok keys) =>
      match readLocal s1 c.who (c.word 1).toNat 4 (if bit (c.word 4) 50 then count else 0) with
      | (s2, .error (e, va)) => engineReadFault s2 n c e va fin
      | (s2, .ok pays) => write s2 { c with index := sortedWords c keys pays }

/-- TILES of a `sortr`. -/
def Command.sortTiles (c : Command) : Nat := c.field 3 31 0

/-- The table of `sortr` after the keys: FIRST and LAST1 of each tile, and the keys beyond it (R227). -/
def rangeTable (c : Command) (keys : List Nat) : List (Nat × Nat) × Nat :=
  let tiles := c.sortTiles
  let tileNo (k : Nat) := k / 2 ^ c.field 3 37 32 % 2 ^ c.field 3 44 40
  let ks := keys.zipIdx.map (fun (k, i) => (tileNo k, i))
  ((List.range tiles).map (fun t =>
      let mine := ks.filter (fun x => decide (x.1 = t))
      match mine.head?, mine.getLast? with | some a, some b => (a.2, b.2 + 1) | _, _ => (0, 0)),
    (ks.filter (fun x => decide (tiles ≤ x.1))).length)

/-- A range table as words, FIRST then LAST1 of each tile. -/
def tableWords (table : List (Nat × Nat)) : List W32 := table.flatMap (fun e => [w32 e.1, w32 e.2])

/-- Writes the range table, held in the command's words, from entry `k` on. -/
def writeTable (c : Command) : (fuel : Nat) → State → (k : Nat) → State × Nat × Option (EngFault × Nat)
  | 0, s, k => (s, k, none)
  | fuel + 1, s, k =>
    let va := (c.word 1).toNat + 8 * k
    match writeLocal s c.who va (toBytes 4 (tget 0 c.index (2 * k)).toNat ++ toBytes 4 (tget 0 c.index (2 * k + 1)).toNat) with
    | (s1, .ok ()) => writeTable c fuel s1 (k + 1)
    | (s1, .error f) => (s1, k, some (f, va))

/-- A `sortr` runs: it reads its keys once, keeps the table (its words) and the number of keys beyond it (its data), and writes the
table; it resumes at the first entry not written, or at its status record (R215, R227). -/
def runSortr (s : State) (n : Nat) (c : Command) : State :=
  let fin (s : State) (c : Command) : State := finishSort s n (if c.code = 0 then c.sortTiles else c.progress) (w64 (ofBytes c.data)) c
  let write (s : State) (c : Command) : State :=
    match writeTable c (c.sortTiles - c.progress) s c.progress with
    | (s1, k, none) => fin s1 { c with progress := k, landed := true }
    | (s1, k, some (e, va)) => commandFault s1 n { c with progress := k } .engWrite va e
  if c.landed then fin s c
  else if !c.data.isEmpty then write s c
  else
    match readLocal s c.who (c.word 0).toNat 8 (c.field 2 31 0) with
    | (s1, .error (e, va)) => engineReadFault s1 n c e va fin
    | (s1, .ok keys) =>
      write s1 { c with index := tableWords (rangeTable c keys).1, data := toBytes 8 (rangeTable c keys).2 }

/-- `SORT_COMMAND_COMPLETION` (R226, R227). -/
def execSortCommandCompletion (die : Nat) (s : State) : Outcome :=
  match sortCommands s die with
  | (n, c) :: _ =>
    .next (if !c.started || !commandLive s c then s else if c.kind == .sort then runSort s n c else runSortr s n c)
  | [] => .next s

end Sys2Proof.Machine
end

