-- ==== Sys2Proof/Machine/Launch.lean ====
section
/-! DEFINITION. Launch queues and records, the placement and release of crews, spawned and regrouped tasks, and the
completion of launches (R21, R23, R118, R119, R161, R182, R254 to R269, R280, R290, R395). -/

namespace Sys2Proof.Machine

/-! Records (R256, R257, R260). -/

/-- The highest role of a launch: NROLE. -/
def Launch.nrole (l : Launch) : Nat := bits (l.word 0) 9 8
/-- GANGS of a role. -/
def Launch.gangsOf (l : Launch) (k : Nat) : Nat := bits (l.word 6) (16 * k + 5) (16 * k)
/-- REGS of a role, in eighths. -/
def Launch.regsOf (l : Launch) (k : Nat) : Nat := bits (l.word 6) (16 * k + 12) (16 * k + 8)
/-- ENTRY of a role. -/
def Launch.entryOf (l : Launch) (k : Nat) : W64 := w64 (bits (l.word (8 + k)) 56 2 * 4)
/-- The role of each gang of a crew by its index (R260). -/
def Launch.roleList (l : Launch) : List Nat := (List.range (l.nrole + 1)).flatMap (fun k => List.replicate (l.gangsOf k) k)
/-- SCRATCH and ACC. -/
def Launch.scratch (l : Launch) : Nat := bits (l.word 0) 23 16
/-- ACC. -/
def Launch.acc (l : Launch) : Nat := bits (l.word 0) 30 24
/-- SLOT0. -/
def Launch.slot0 (l : Launch) : Nat := bits (l.word 5) 21 16
/-- TILE0. -/
def Launch.tile0 (l : Launch) : Nat := bits (l.word 5) 29 22
/-- ACC0. -/
def Launch.acc0 (l : Launch) : Nat := bits (l.word 5) 37 30
/-- The gang slot of gang `i` of position `j` (R260). -/
def Launch.slotOf (l : Launch) (j i : Nat) : Nat := l.slot0 + j * l.roleList.length + i
/-- Bytes of registers of a bench that `k` positions need (R260). -/
def Launch.need (l : Launch) (b k : Nat) : Nat :=
  ((List.range k).map (fun j => ((l.roleList.zipIdx.filter (fun (_, i) => decide (l.slotOf j i % 4 = b))).map
    (fun (r, _) => 1024 * l.regsOf r)).sum)).sum
/-- The layout of `k` crews per core fits (R260); ACC beyond 64 does not (R256; notes/assumptions/42.md). -/
def Launch.fits (l : Launch) (k : Nat) : Bool :=
  decide (k ≤ 16) && decide (l.acc ≤ 64) && decide (l.slot0 + k * l.roleList.length ≤ 60) && decide (l.tile0 + k * l.scratch ≤ 192) &&
    decide (l.acc0 + k * l.acc ≤ 256) && (List.range 4).all (fun b => decide (l.need b k ≤ 114688))
/-- K of R260, or none when the layout does not fit. -/
def Launch.layout (l : Launch) : Option Nat :=
  let kpc := bits (l.word 5) 7 0
  if kpc ≠ 0 then (if l.fits kpc then some kpc else none)
  else ((List.range 16).map (fun j => 16 - j)).find? l.fits

/-- A reserved bit of a record is set, or FMT is not 1 (R257, reason 1). -/
def Launch.reserved (l : Launch) : Bool :=
  let z (i hi lo : Nat) : Bool := decide (bits (l.word i) hi lo ≠ 0)
  decide (bits (l.word 0) 7 0 ≠ 1) || z 0 15 14 || z 0 31 31 || z 1 39 37 || z 1 63 56 || z 3 63 57 || z 4 63 57 || z 5 63 38 ||
    (List.range 4).any (fun k => z 6 (16 * k + 7) (16 * k + 6) || z 6 (16 * k + 15) (16 * k + 13) || z (8 + k) 1 1 || z (8 + k) 63 57) ||
    z 14 63 0 || z 15 63 0

/-- The roles of a record are malformed (R257, reason 2). -/
def Launch.rolesBad (l : Launch) : Bool :=
  (List.range 4).any (fun k =>
    if k ≤ l.nrole then l.gangsOf k == 0 || l.regsOf k == 0 || decide (16 < l.regsOf k) || l.entryOf k == 0
    else l.gangsOf k != 0 || l.regsOf k != 0 || l.word (8 + k) != 0) || decide (32 < l.roleList.length)

/-! What the periodic tests and the device's own host writes add (R182, R262). -/

/-- The device has written a host line that a virtual address of a context names (R182). -/
def touchedAt (s : State) (part aspace die va : Nat) : Bool :=
  match (s.xlate part aspace die va .read).2 with
  | .ok pa _ => s.pkg.touched.any (fun x => meets (pa / 128 * 128) 128 x.1 x.2)
  | _ => false

/-- The device has written a host line that a waiting step watches. -/
def Gang.touched (s : State) (g : Gang) : Bool :=
  match g.phase with
  | .waiting w => (((parseDeps w.descriptors).getD []).filterMap Dep.site).any (fun x => touchedAt s g.part g.aspace g.die x.1)
  | _ => false

/-- The device has written a host line that a START watches. -/
def Launch.touched (s : State) (l : Launch) : Bool :=
  match l.start.bind Dep.site with | some (va, _) => touchedAt s l.part l.aspace l.die va | none => false

/-- Tests every waiting step and every START, as states change, with the host words that the device itself has written (R182,
R262). -/
def retestAll (s : State) : State :=
  if s.pkg.touched.isEmpty then testSteps s
  else
    let s1 := periodicAll { s with pkg := { s.pkg with touched := [] } } (s.gangs.filter (fun x => x.2.touched s))
    testAll s1 (fun l => l.touched s)

/-- `WATCH_PERIODIC_TEST`: the die reads its waiting steps' watch and join words, and the START words of its partition's
launches, at their homes, unless their partition's squall line is asserted (R182, R262, R355). -/
def execWatchPeriodicTest (die : Nat) (s : State) : Outcome :=
  let s1 := periodicAll s (s.gangs.filter (fun x => decide (x.2.die = die) && !(s.part x.2.part).asserted))
  .next (testAll s1 (fun l => decide (l.part ≤ die) && decide (die < l.part + (s.part l.part).dies)))

/-! Which contexts run (R395). -/

/-- A context is running: it has a crew, task, engine command or matrix operation (R395). -/
def running (s : State) (key : Nat) : Bool :=
  s.gangs.any (fun x => decide (spaceKey x.2.part x.2.aspace = key)) ||
  s.cmds.any (fun x => decide (spaceKey x.2.part x.2.aspace = key)) ||
  s.crews.any (fun x => match s.launch? x.2.launch with | some l => decide (spaceKey l.part l.aspace = key) | none => false)

/-- The running contexts of a partition. -/
def runningCount (s : State) (part : Nat) : Nat := ((List.range 256).filter (fun a => running s (spaceKey part a))).length

/-- A function holds the partition; with none, it runs nothing (R415). -/
def assigned (s : State) (part : Nat) : Bool := (partitions s).any (fun x => decide (x.1 = part) && x.2.2.isSome)

/-- The front end may take records of a context (R255, R282, R284, R355, R360, R418). -/
def mayTake (s : State) (part aspace : Nat) : Bool :=
  let c := s.ctx (spaceKey part aspace)
  c.en && decide (c.root ≠ 0) && !c.preBusy && !c.preOff && !c.torn && !(s.part part).asserted && assigned s part

/-- A queue of a context. -/
def Ctx.queue (c : Ctx) (cls : Nat) : LaunchQueue := tget LaunchQueue.empty c.queues cls
/-- A context with a queue replaced. -/
def Ctx.setQueue (c : Ctx) (cls : Nat) (q : LaunchQueue) : Ctx := { c with queues := tset LaunchQueue.empty c.queues cls q }
/-- A queue has a record that may be taken, or its consumer index is still to be written (R254, R395). -/
def LaunchQueue.waits (q : LaunchQueue) : Bool := !q.stopped && (q.owed || q.prod != q.cons)
/-- log2 of the records of a ring (R254, R418). -/
def LaunchQueue.logSize (q : LaunchQueue) : Nat := min 16 (max 4 q.q)

/-- The class of a device record. -/
def DeviceLaunch.cls (d : DeviceLaunch) : Nat := bits (tget 0 d.words 0) 13 12
/-- The contexts of a partition that have a host record waiting in a class. -/
def hostWaiting (s : State) (part cls : Nat) : List Nat :=
  (List.range 256).filter (fun a => mayTake s part a && ((s.ctx (spaceKey part a)).queue cls).waits)

/-- The bound of 16 running contexts admits a record of a context; others that wait go first in ascending ASPACE (R395). -/
def admitted (s : State) (part aspace cls : Nat) : Bool :=
  running s (spaceKey part aspace) ||
    (decide (runningCount s part < 16) && (hostWaiting s part cls).all (fun a => decide (aspace ≤ a) || running s (spaceKey part a)))

/-- The first device record of a die that may be taken, of a class (R255, R395). -/
def deviceHead (s : State) (die cls : Nat) : Option (Nat × DeviceLaunch) :=
  ((s.die die).launches.zipIdx.find? (fun (d, _) =>
    decide (d.cls = cls) && mayTake s d.part d.aspace && admitted s d.part d.aspace cls)).map (fun (d, i) => (i, d))

/-- The context whose turn it is in a class: of those with a record that may be taken, the first beyond the one taken last, in the
order of ASPACE and round again (R255). -/
def nextTurn (s : State) (part cls : Nat) : Option Nat :=
  let l := (hostWaiting s part cls).filter (fun a => admitted s part a cls)
  match aget (s.part part).turns cls with
  | some a => (match l.find? (fun x => decide (a < x)) with | some x => some x | none => l.head?)
  | none => l.head?

/-- A class of a front end has a record that may be taken. -/
def classWaits (s : State) (part die cls : Nat) : Bool := (deviceHead s die cls).isSome || (decide (die = part) && (nextTurn s part cls).isSome)

/-- A doorbell takes effect after the host's earlier writes to the partition: the producer index is set, and a stopped queue resumes
(R254, R395, R396). -/
def ringDoorbell (s : State) (part aspace cls : Nat) (prod : W32) : State :=
  let key := spaceKey part aspace
  let c := s.ctx key
  if hostHeld s part then s.hold (.bell part aspace cls prod)
  else s.setCtx key (c.setQueue (cls % 4) { c.queue (cls % 4) with prod := prod, stopped := false })

/-- `LAUNCH_DOORBELL` (R254). -/
def execLaunchDoorbell (part aspace cls : Nat) (prod : W32) (s : State) : Outcome := .next (s.ifReady (ringDoorbell s part aspace cls prod))

/-! Acceptance (R255, R257 to R259). -/

/-- What checking a record gives: its reason (0 for an accepted record), its constants, and whether a front-end read missed, which stops a
host record's queue; or what the front end met at the constant block: a host translation to wait for, or an error of its own. -/
inductive Checked where
  | done (reason : Nat) (consts : List W64) (missed : Bool)
  | held (e : EngFault) (va : Nat)

/-- The constant block, read once (R257, R259): none if it is not aligned and readable, a fault where it waits, is not resident, or lies in
memory of a package that cannot be reached or refuses (R375, R378). -/
def readConsts (s : State) (l : Launch) : State × Except (Option (EngFault × Nat)) (List W64) :=
  let a := bits (l.word 3) 56 0
  if a = 0 then (s, .ok [])
  else if a % 8 ≠ 0 then (s, .error none)
  else match engReadMany s { part := l.part, aspace := l.aspace, die := l.die, windows := false } a 8 16 with
    | (s1, .ok bs) => (s1, .ok ((List.range 16).map (fun j => w64 (ofBytes ((bs.drop (8 * j)).take 8)))))
    | (s1, .error (.wait page write pri, va)) => (s1, .error (some (.wait page write pri, va)))
    | (s1, .error (.miss failed, va)) => (s1, .error (some (.miss failed, va)))
    | (s1, .error (.lost pa, va)) => (s1, .error (some (.lost pa, va)))
    | (s1, .error (.refused, va)) => (s1, .error (some (.refused, va)))
    | (s1, .error (.training, va)) => (s1, .error (some (.training, va)))
    | (s1, .error (e, _)) => (noteFault s1 l.part l.aspace .front e, .error none)

/-- START's address fails a check of R158 for a read (R257, reason 5). -/
def startPerm (s : State) (l : Launch) (d : Dep) : Bool :=
  match d.site with
  | some (va, _) => (match (s.xlate l.part l.aspace l.die va .read).2 with | .perm => true | _ => false)
  | none => false

/-- The first of reasons 1 to 7 that rejects a record (R257); `cls` is a host record's queue class. A miss at the constant block rejects the
record, and is a front-end read that missed (R395; notes/assumptions/91.md). -/
def checkRecord (s : State) (l : Launch) (cls : Option Nat) : State × Checked :=
  if l.reserved then (s, .done 1 [] false)
  else if l.rolesBad then (s, .done 2 [] false)
  else if l.crews = 0 then (s, .done 3 [] false)
  else if l.layout.isNone || decide (coresOf s l.part ≤ bits (l.word 5) 15 8) then (s, .done 4 [] false)
  else match l.start with
    | none => (s, .done 5 [] false)
    | some d =>
      if d.misaligned || startPerm s l d then (s, .done 5 [] false)
      else match readConsts s l with
        | (s1, .error (some (.miss failed, _))) => (noteFault s1 l.part l.aspace .front (.miss failed), .done 6 [] true)
        | (s1, .error (some (e, va))) => (s1, .held e va)
        | (s1, .error none) => (s1, .done 6 [] false)
        | (s1, .ok consts) =>
          if (match cls with | some k => decide (bits (l.word 0) 13 12 ≠ k) | none => false) then (s1, .done 7 [] false)
          else (s1, .done 0 consts false)

/-- An error of a front-end access to the memory of a context, at an address, which is a fault of that context (R329, R341, R375, R378;
notes/assumptions/91.md). -/
def frontError (s : State) (part aspace die : Nat) (kind : AccessKind) (va : Nat) : EngFault → Option State
  | .lost pa => some (unitError s part aspace die .eccUncorr kind va pa)
  | .refused => some (unitError s part aspace die .xlatPerm kind va 0)
  | .ecc key => some (unitError (logUncorr s part (homePA part key)) part aspace die .eccUncorr kind va (homePA part key / 32 * 32))
  | .walk key => some (unitError (logUncorr s part (homePA part key)) part aspace die .eccUncorr .walk va (homePA part key / 32 * 32))
  | _ => none

/-- The address of a launch's status record; 0 for none. -/
def Launch.status (l : Launch) : Nat := bits (l.word 7) 63 16 * 16
/-- Whose accesses a launch's are. -/
def Launch.who (l : Launch) : Access.Who := { part := l.part, aspace := l.aspace, die := l.die, windows := false }

/-- Writes a launch's status record (R258): written or not wanted, not possible, or to be tried again; an error of the write is a fault of the
context (R375, R378). -/
def launchStatus (s : State) (l : Launch) (result count : Nat) : State × Option Bool :=
  if l.status = 0 then (s, some true)
  else match engWrite s l.who l.status (statusBytes (bits (l.word 7) 15 0) result 4 count 0) with
    | (s1, .ok ()) => (s1, some true)
    | (s1, .error (.wait page write pri)) => (hostAsk s1 l.part l.aspace page write pri (some .front), none)
    | (s1, .error (.scene part line)) => (sceneAsk s1 part [line], none)
    | (s1, .error .training) => (s1, none)
    | (s1, .error e) =>
      ((frontError s1 l.part l.aspace l.die .engWrite l.status e).getD (noteFault s1 l.part l.aspace .front e), some false)

/-- The status record lies in a resident page with W (R257, reason 8): none while a host translation is awaited. No access is made, so none can
be refused or lost (R375, R378). -/
def statusWritable (s : State) (l : Launch) : State × Option Bool :=
  if l.status = 0 then (s, some true)
  else match siteOf s l.who l.status .write with
    | (s1, .ok _) => (s1, some true)
    | (s1, .error (.lost _)) => (s1, some true)
    | (s1, .error .refused) => (s1, some true)
    | (s1, .error .training) => (s1, some true)
    | (s1, .error (.wait page write pri)) => (hostAsk s1 l.part l.aspace page write pri (some .front), none)
    | (s1, .error e) => (noteFault s1 l.part l.aspace .front e, some false)

/-- An event in Unfort's log. -/
def State.logEvent (s : State) (e : LogEntry) : State := { s with pkg := { s.pkg with log := s.pkg.log ++ [e] } }

/-- A queue stops on a front-end access that cannot be made (R395). -/
def stopQueue (s : State) (part aspace cls : Nat) : State :=
  let key := spaceKey part aspace
  let c := s.ctx key
  (s.setCtx key (c.setQueue cls { c.queue cls with stopped := true })).logEvent (.queueStopped part aspace cls)

/-- A front-end access failed: it waits for the host or for invalidations, or its queue stops, after the fault that an error of the access is
(R344, R375, R378, R389, R395). -/
def queueFault (s : State) (part aspace cls : Nat) (kind : AccessKind) (va : Nat) (e : EngFault) : State :=
  match e with
  | .wait page write pri => hostAsk s part aspace page write pri (some .front)
  | .scene p line => sceneAsk s p [line]
  | .training => s
  | e => stopQueue ((frontError s part aspace part kind va e).getD (noteFault s part aspace .front e)) part aspace cls

/-- A record's constant block waits for the host, or an error was met there: the record waits, and a host record's queue stops; a device record is
dropped with the fault (R344, R375, R378, R395; notes/assumptions/91.md). -/
def holdRecord (s : State) (l : Launch) (cls : Option Nat) (e : EngFault) (va : Nat) : State × Bool :=
  match cls, e with
  | _, .wait page write pri => (hostAsk s l.part l.aspace page write pri (some .front), false)
  | _, .training => (s, false)
  | some k, e => (queueFault s l.part l.aspace k .engRead va e, false)
  | none, e => ((frontError s l.part l.aspace l.die .engRead va e).getD s, true)

/-- A record is accepted or rejected (R257 to R259): the state, or none while the front end waits. After a front-end read that missed, a host
record's queue stops (R395). -/
def judgeRecord (s : State) (l : Launch) (cls : Option Nat) : State × Bool :=
  match checkRecord s l cls with
  | (s1, .held e va) => holdRecord s1 l cls e va
  | (s1, .done reason consts missed) =>
    let taken (t : State) : State × Bool := (match cls with | some k => if missed then stopQueue t l.part l.aspace k else t | none => t, true)
    match statusWritable s1 l with
    | (s2, none) => (s2, false)
    | (s2, some ok) =>
      let reason := if reason = 0 ∧ !ok then 8 else reason
      if reason = 0 then
        let l1 := { l with consts := consts, k := l.layout.getD 1 }
        let (s3, ok) := startTest (observeStart s2 l1) l1 true
        ({ s3 with launches := aput s3.launches s3.serial { l1 with started := ok }, serial := s3.serial + 1 }, true)
      else if ok && l.status ≠ 0 then
        (match launchStatus s2 l reason 0 with
         | (s3, none) => (s3, false)
         | (s3, some true) => taken s3
         | (s3, some false) => taken (s3.logEvent (.rejected l.part l.aspace reason)))
      else taken (s2.logEvent (.rejected l.part l.aspace reason))

/-- A record as a launch that nothing has accepted yet. -/
def newLaunch (part aspace die : Nat) (words : List W64) : Launch :=
  { part := part, aspace := aspace, die := die, words := words, consts := [], k := 1, placed := [], released := [], again := [],
    started := false, quanta := [], created := [] }

/-- The consumer index that a queue owes is written back (R254); a queue whose index waits takes no record. -/
def writeConsumer (s : State) (part aspace cls : Nat) : State :=
  let key := spaceKey part aspace
  let q := (s.ctx key).queue cls
  match engWrite s { part := part, aspace := aspace, die := part, windows := false } q.consAddr (toBytes 8 q.cons.toNat) with
  | (s1, .ok ()) => sceneClear (s1.setCtx key ((s1.ctx key).setQueue cls { (s1.ctx key).queue cls with owed := false }))
  | (s1, .error e) => queueFault s1 part aspace cls .engWrite q.consAddr e

/-- Takes the next record of a host queue, and the class passes to the next context (R254, R255, R257). -/
def takeHost (s : State) (part aspace cls : Nat) : State :=
  let key := spaceKey part aspace
  let q := (s.ctx key).queue cls
  if q.owed then writeConsumer s part aspace cls
  else
  let at_ := q.base + 128 * (q.cons.toNat % 2 ^ q.logSize)
  match engRead s { part := part, aspace := aspace, die := part, windows := false } at_ 128 with
  | (s1, .error e) => queueFault s1 part aspace cls .engRead at_ e
  | (s1, .ok bs) =>
    let words := (List.range 16).map (fun j => w64 (ofBytes ((bs.drop (8 * j)).take 8)))
    match judgeRecord s1 (newLaunch part aspace part words) (some cls) with
    | (s2, false) => s2
    | (s2, true) =>
      let s3 := s2.setPart part { s2.part part with turns := aput (s2.part part).turns cls aspace }
      let r := (s3.ctx key).queue cls
      writeConsumer (s3.setCtx key ((s3.ctx key).setQueue cls { r with cons := q.cons + 1, owed := true })) part aspace cls

/-- Takes the first device record of a class (R119, R255). -/
def takeDevice (s : State) (die : Nat) (x : Nat × DeviceLaunch) : State :=
  match judgeRecord s (newLaunch x.2.part x.2.aspace die x.2.words) none with
  | (s1, false) => s1
  | (s1, true) => let d := s1.die die; s1.setDie die { d with launches := d.launches.eraseIdx x.1 }

/-- `LAUNCH_RECORD_ACCEPTANCE`: a front end takes one record of its highest class with a record waiting (R255, R257). -/
def execLaunchRecordAcceptance (part : Nat) (source : LaunchSource) (s : State) : Outcome :=
  match source with
  | .host aspace cls =>
    if cls < 4 && nextTurn s part cls == some aspace &&
        (List.range 4).all (fun k => decide (k ≤ cls) || !classWaits s part part k) then .next (takeHost s part aspace cls)
    else .next s
  | .device die =>
    match ([3, 2, 1, 0].find? (classWaits s part die)).bind (deviceHead s die) with
    | some (i, d) =>
      if d.part = part then .next (takeDevice s die (i, d)) else .next s
    | none => .next s

/-! Cores: slots, benches and the becalmed rule (R260, R261, R290). -/

/-- A gang slot of a core is held (R262, R264). -/
def slotHeld (s : State) (core slot : Nat) : Bool := s.gangs.any (fun x => decide (x.2.core = core) && decide (x.2.slotNo = slot))

/-- Bytes of a bench's register slice that gangs in slots 0 to 59 hold (R260, R261). -/
def benchBytes (s : State) (core b : Nat) : Nat :=
  ((s.gangs.filter (fun x => decide (x.2.core = core) && decide (x.2.slotNo < 60) && decide (x.2.slotNo % 4 = b))).map
    (fun x => 128 * x.2.vcount)).sum

/-- Ranges of tiles meet. -/
def overlap (a n b m : Nat) : Bool := decide (0 < n) && decide (0 < m) && decide (a < b + m) && decide (b < a + n)

/-- The becalmed rule admits work of a context on a core (R290). -/
def becalmOk (s : State) (core key : Nat) : Bool :=
  (s.gangs.filter (fun x => decide (x.2.core = core))).all (fun x =>
    let k := spaceKey x.2.part x.2.aspace
    decide (k = key) || !((s.ctx k).becalm || (s.ctx key).becalm))

/-- The context may have work placed (R282, R284, R355, R360), being one of at most 16 that run (R395); `crew` for crews, which
a request in progress holds back. -/
def mayPlace (s : State) (part aspace : Nat) (crew : Bool) : Bool :=
  let c := s.ctx (spaceKey part aspace)
  !c.preOff && !(crew && c.preBusy) && !c.torn && !(s.part part).asserted &&
    (running s (spaceKey part aspace) || decide (runningCount s part < 16))

/-- Placement invalidates the core's L1 when no crew or task of the launch is on the core (R161). -/
def freshL1 (s : State) (launch core : Nat) : State :=
  if s.gangs.any (fun x => decide (x.2.core = core) && decide (x.2.launch = launch)) then s
  else let c := s.core core; s.setCore core { c with l1 := [] }

/-! Crews (R21, R23, R262, R264). -/

/-- The first core of a crew within the package (R260). -/
def Launch.coreFor (s : State) (l : Launch) (c : Nat) : Nat := 40 * l.part + l.coreOf (coresOf s l.part) c

/-- A crew's tiles and slots are free (R262, condition 3). -/
def crewFits (s : State) (l : Launch) (c : Nat) : Bool :=
  let core := Launch.coreFor s l c
  let j := c % l.k
  let n := l.roleList.length
  (List.range n).all (fun i => !slotHeld s core (l.slotOf j i)) &&
    s.crews.all (fun (_, x) => decide (x.core ≠ core) ||
      !(overlap x.tfirst x.tcount (l.tile0 + j * l.scratch) l.scratch || overlap x.cfirst x.ccount (l.acc0 + j * l.acc) l.acc)) &&
    (List.range 4).all (fun b => decide (benchBytes s core b +
      ((l.roleList.zipIdx.filter (fun (_, i) => decide (l.slotOf j i % 4 = b))).map (fun (r, _) => 1024 * l.regsOf r)).sum ≤ 114688))

/-- Every crew of the same core and position with a lower index has been released (R262, condition 2). -/
def earlierReleased (s : State) (l : Launch) (c : Nat) : Bool :=
  let n := l.k * coresOf s l.part
  (List.range (c / n)).all (fun r => l.released.contains (r * n + c % n))

/-- A crew may be placed now (R262, R282, R284, R285, R290). -/
def placeable (s : State) (l : Launch) (c : Nat) : Bool :=
  l.started && decide (c < l.crews) && !l.placed.contains c && !l.released.contains c && mayPlace s l.part l.aspace true &&
    earlierReleased s l c && crewFits s l c && becalmOk s (Launch.coreFor s l c) (spaceKey l.part l.aspace)

/-- A gang as its task's entry leaves it (R21), with registers to be filled. -/
def freshGang (l : Launch) (launch core slot role : Nat) (lane : W32) (kind : TaskKind) (entry : W64) (since : Nat) : Gang :=
  { core := core, slotNo := slot, part := l.part, aspace := l.aspace, launch := launch, crewKey := none, kind := kind,
    entry := entry, role := role, crew := 0, idCore := core, gangIndex := 0, idSlot := slot, lane := lane,
    entryS := [], entryV := [], vcount := 8 * l.regsOf role, generation := 0, key := [], origins := [], spawned := 0, v := [], s := [], m := [], pendV := 0,
    pendS := 0, vtOwner := 0,
    a := { Slot.idle with live := true, pc := entry, mask := lane, since := since, ready := since }, b := Slot.idle, bStart := 0, bCount := 0,
    cb := 0, cn := 0, joining := [], seq := 0, phase := .running, detstep := 0, replay := 0, traparg := 0, prefersB := none,
    sealed := false, unclean := false, rerun := false, restarting := false, flight := [], loads := [], order := [], entries := [],
    returns := [], rays := [], batch := 0, covered := [] }

/-- `LANE` of a launched gang (R259). -/
def Launch.laneMask (l : Launch) (c i : Nat) : W32 :=
  let last := bits (l.word 1) 36 32
  if c + 1 = l.crews ∧ i + 1 = l.roleList.length ∧ last ≠ 0 then w32 (2 ^ last - 1) else 0xFFFFFFFF

/-- A launched gang at its task's entry (R21, R262). -/
def launchedGang (s : State) (l : Launch) (launch c i role : Nat) : Gang :=
  let core := Launch.coreFor s l c
  { freshGang l launch core (l.slotOf (c % l.k) i) role (l.laneMask c i) .launched (l.entryOf role) (s.core core).cyc with
    crewKey := some (crewKeyOf launch c), crew := c, gangIndex := i, key := [c, i], s := l.consts, entryS := l.consts }

/-- A crew's own barriers are forgotten: they are at generation 0 with no arrivals (R23, R264). A barrier of a wider scope keeps its
state until its launch is dropped (notes/assumptions/88.md). -/
def dropBarriers (s : State) (launch c : Nat) : State :=
  { s with barriers := s.barriers.filter (fun b => !(b.1.take 3 == [launch, 0, c])) }

/-- The tiles of a crew read zero, thread-owned, with full bits clear (R23). -/
def clearTiles (s : State) (x : Crew) : State :=
  let c := s.core x.core
  let t := (List.range x.tcount).map (fun j => x.tfirst + j)
  s.setCore x.core { c with
    scratch := mclear c.scratch (4096 * x.tfirst) (4096 * x.tcount)
    scratchOwn := t.foldl (fun b n => setBitTo b n false) c.scratchOwn
    scratchFull := t.foldl (fun b n => setBitTo b n false) c.scratchFull
    acc := mclear c.acc (1024 * x.cfirst) (1024 * x.ccount)
    accOwn := ((List.range x.ccount).map (fun j => x.cfirst + j)).foldl (fun b n => setBitTo b n false) c.accOwn }

/-- Places a crew (R262): its tiles, barriers and gangs. -/
def placeCrew (s : State) (launch c : Nat) (l : Launch) : State :=
  let core := Launch.coreFor s l c
  let j := c % l.k
  let x : Crew := { launch := launch, index := c, core := core, position := j, tfirst := l.tile0 + j * l.scratch, tcount := l.scratch,
                    cfirst := l.acc0 + j * l.acc, ccount := l.acc, bufs := [] }
  let s1 := dropBarriers (clearTiles (freshL1 s launch core) x) launch c
  let gangs := l.roleList.zipIdx.map (fun (role, i) => (s1.serial + i, launchedGang s1 l launch c i role))
  let s2 := countSteps s1 l.part l.aspace gangs.length
  { s2 with
    crews := aput s1.crews (crewKeyOf launch c) x
    gangs := s1.gangs ++ gangs
    serial := s1.serial + l.roleList.length
    launches := aput s1.launches launch { l with placed := l.placed ++ [c], again := l.again.filter (· ≠ c) } }

/-- `CREW_PLACEMENT` (R262). -/
def execCrewPlacement (launch crew : Nat) (s : State) : Outcome :=
  match s.launch? launch with
  | some l => if placeable s l crew then .next (placeCrew s launch crew l) else .next s
  | none => .next s

/-- A tile of a core, of a kind and number as a window names it, is a crew's: a register tile is, when its gang is (R38, R264). -/
def crewTile (s : State) (key : Nat) (x : Crew) (t : Nat × Nat × Nat) : Bool :=
  decide (t.1 = x.core) && (match t.2.1 with
    | 0 => s.gangs.any (fun g => g.2.crewKey == some key && decide (g.2.core = x.core) && decide (g.2.slotNo = t.2.2 / 16))
    | 1 => decide (x.tfirst ≤ t.2.2) && decide (t.2.2 < x.tfirst + x.tcount)
    | _ => decide (x.cfirst ≤ t.2.2) && decide (t.2.2 < x.cfirst + x.ccount))

/-- A command names tiles of a crew (R213, R264): by a window, FLIPT or FULLT; its own crew's by a circular buffer, a follow-on
operation, or the register tile of `trace` and `rast`. -/
def namesCrew (s : State) (c : Command) (key : Nat) (x : Crew) : Bool :=
  let own := c.crewKey == some key
  match c.kind with
  | .cpy | .cpyg => (own && (c.adv || c.follow)) || (touchedTiles c ++ namedTiles c).any (crewTile s key x)
  | .cpyst => c.fullEn && crewTile s key x (c.core, 1, c.fullT)
  | .sort | .sortr => (sortFull c).any (fun t => crewTile s key x (c.core, 1, t))
  | .trace | .rast => own
  | .coll => false

/-- A gang of a crew has ended and its last quantum has committed (R264). -/
def gangOver (s : State) (l : Launch) (id : Nat) (g : Gang) : Bool :=
  g.phase == .ended && g.entries.isEmpty && !s.acking id && !g.restarting && decide (g.detstep.toNat < l.quantum (gangInst s g))

/-- A crew may be released (R264): after a discard, once its operations and commands are done (R283). -/
def releasable (s : State) (launch c : Nat) (l : Launch) (x : Crew) : Bool :=
  let key := crewKeyOf launch c
  (l.again.contains c || (crewGangs s launch c).all (fun (id, g) =>
      gangOver s l id g || ((s.ctx (spaceKey l.part l.aspace)).torn && g.phase == .ended))) &&
    !(s.core x.core).ops.any (fun o => decide (o.crewKey = key)) &&
    !s.cmds.any (fun y => namesCrew s y.2 key x) && !(s.part l.part).asserted

/-- Releases a crew: its slots, registers, tiles and barriers are free (R264). -/
def releaseCrew (s : State) (launch c : Nat) (l : Launch) : State :=
  let key := crewKeyOf launch c
  let s1 := dropBarriers s launch c
  { s1 with
    gangs := s1.gangs.filter (fun x => x.2.crewKey != some key)
    crews := adel s1.crews key
    launches := aput s1.launches launch
      { l with placed := l.placed.filter (· ≠ c), released := if l.again.contains c then l.released else l.released ++ [c] } }

/-- A launch is forgotten, with its barriers and the collectives kept for its re-sends (R247). -/
def dropLaunch (s : State) (launch : Nat) : State :=
  { s with
    parts := s.parts.map (fun (n, p) => (n, { p with colls := p.colls.filter (fun r => decide (r.launch ≠ launch)) }))
    launches := adel s.launches launch, barriers := s.barriers.filter (fun b => b.1.head? != some launch) }

/-- The last crew of a launch of a torn context takes the launch with it (R361). -/
def dropTorn (s : State) (launch : Nat) : State :=
  match s.launch? launch with
  | some l => if (s.ctx (spaceKey l.part l.aspace)).torn && l.placed.isEmpty then dropLaunch s launch else s
  | none => s

/-- `CREW_RELEASE` (R264, R361). -/
def execCrewRelease (launch crew : Nat) (s : State) : Outcome :=
  match s.launch? launch, aget s.crews (crewKeyOf launch crew) with
  | some l, some x => if releasable s launch crew l x then .next (dropTorn (releaseCrew s launch crew l) launch) else .next s
  | _, _ => .next s

/-! Spawned and regrouped tasks (R118, R240, R243, R244, R261, R268, R269). -/

/-- A detached task of a role may take a slot of a core (R261, R268, R290). -/
def slotFree (s : State) (l : Launch) (die core slot role : Nat) : Bool :=
  decide (core / 40 = die) && decide (slot < 64) && !slotHeld s core slot && mayPlace s l.part l.aspace false &&
    becalmOk s core (spaceKey l.part l.aspace) &&
    (decide (60 ≤ slot) || decide (benchBytes s core (slot % 4) + 1024 * l.regsOf role ≤ 114688))

/-- The scalar registers a detached task starts with: payload, zeros, and constants 8 to 15 (R118). -/
def detachedScalars (l : Launch) (payload : List W64) : List W64 :=
  (List.range 16).map (fun j => if j < 8 then tget 0 payload j else tget 0 l.consts j)

/-- A detached task is placed (R268, R269). -/
def placeDetached (s : State) (launch core : Nat) (g : Gang) : State :=
  let s1 := countSteps (freshL1 s launch core) g.part g.aspace 1
  { s1 with gangs := s1.gangs ++ [(s1.serial, g)], serial := s1.serial + 1 }

/-- The gang of a spawn item (R118, R267). -/
def spawnedGang (s : State) (l : Launch) (core slot : Nat) (it : SpawnItem) : Gang :=
  { freshGang l it.launch core slot it.role 0xFFFFFFFF .spawned it.entry (s.core core).cyc with
    crew := it.ident.crew, idCore := it.ident.idCore, gangIndex := it.ident.gangIndex, idSlot := it.ident.idSlot,
    generation := it.generation, key := it.key, s := detachedScalars l it.payload, entryS := detachedScalars l it.payload }

/-- `SPAWN_ITEM_PLACEMENT`: the die's first spawn item becomes a one-gang task (R268). -/
def execSpawnItemPlacement (die core slot : Nat) (s : State) : Outcome :=
  match (s.die die).spawns with
  | [] => .next s
  | it :: rest =>
    match s.launch? it.launch with
    | none => .next s
    | some l =>
      if slotFree s l die core slot it.role then
        let d := s.die die
        .next (placeDetached (s.setDie die { d with spawns := rest }) it.launch core (spawnedGang s l core slot it))
      else .next s

/-- The domain instance of an item's launched ancestor (R269, R301). -/
def itemInst (s : State) (it : Item) : Nat :=
  match s.launch? it.launch with | some l => l.instOf (coresOf s it.part) it.ident.crew | none => 0

/-- Items that may share a gang (R269). -/
def sameGang (s : State) (x y : Item) : Bool :=
  decide (x.launch = y.launch) && x.entry == y.entry && decide (x.role = y.role) && decide (itemInst s x = itemInst s y) &&
    decide (x.generation = y.generation) && ((x.kind == .anyHit) == (y.kind == .anyHit))

/-- The key of a lane item: its coherence key, then its origin's task key (R244, R269; notes/assumptions/48.md). -/
def Item.orderKey (x : Item) : List Nat := x.origin.coherence :: x.origin.key

/-- The order of lanes within a regrouped gang: by key, then by origin lane (R244, R269). -/
def itemBefore (x y : Item) : Bool :=
  keyLt x.orderKey y.orderKey || (x.orderKey == y.orderKey && decide (x.origin.lane < y.origin.lane))

/-- The gang that items form (R240, R243, R244, R269). -/
def regroupedGang (s : State) (l : Launch) (core slot : Nat) (it : Item) (items : List Item) : Gang :=
  let lane := w32 (2 ^ items.length - 1)
  let rows := (List.range (items.foldl (fun n x => max n x.regs.length) 0)).map (fun r => items.map (fun x => tget 0 x.regs r))
  { freshGang l it.launch core slot it.role lane it.kind it.entry (s.core core).cyc with
    crew := it.ident.crew, idCore := it.ident.idCore, gangIndex := it.ident.gangIndex, idSlot := it.ident.idSlot,
    generation := it.generation, key := it.origin.key, origins := items.map (·.origin)
    v := rows, entryV := rows, s := detachedScalars l [], entryS := detachedScalars l []
    rays := items.map (fun x => x.ray.getD (0, 0)) }

/-- Issues a gang of the items of a die that match one of them, if at least `least` have gathered (R269). -/
def issueItems (least die index core slot : Nat) (s : State) : State :=
  let d := s.die die
  match d.items[index]? with
  | none => s
  | some it =>
    let matching := d.items.zipIdx.filter (fun (x, _) => sameGang s it x)
    let take := matching.take 32
    match s.launch? it.launch with
    | none => s
    | some l =>
      if decide (least ≤ matching.length) && slotFree s l die core slot it.role then
        let rest := d.items.zipIdx.filter (fun (_, i) => !take.any (fun (_, j) => decide (i = j)))
        placeDetached (s.setDie die { d with items := rest.map (·.1) }) it.launch core
          (regroupedGang s l core slot it (sortBy itemBefore (take.map (·.1))))
      else s

/-- `REGROUPED_GANG_ISSUE`: a full gang of 32 lanes (R269). -/
def execRegroupedGangIssue (die index core slot : Nat) (s : State) : Outcome := .next (issueItems 32 die index core slot s)
/-- `REGROUP_TIMEOUT`: a partial gang, after 256 ACLK with no new item for its entry (R269). -/
def execRegroupTimeout (die index core slot : Nat) (s : State) : Outcome := .next (issueItems 1 die index core slot s)

/-! Completion (R258). -/

/-- Every task of the launch has ended and committed, and every command and operation is done (R258). -/
def launchOver (s : State) (launch : Nat) (l : Launch) : Bool :=
  (decide (l.released.length = l.crews)) && l.placed.isEmpty && l.again.isEmpty &&
    !s.gangs.any (fun x => decide (x.2.launch = launch)) && !s.cmds.any (fun x => decide (x.2.launch = launch)) &&
    !s.acks.any (fun a => decide (a.launch = launch)) &&
    s.dies.all (fun (_, d) => !d.spawns.any (fun x => decide (x.launch = launch)) && !d.items.any (fun x => decide (x.launch = launch))) &&
    !(s.part l.part).asserted && !(s.ctx (spaceKey l.part l.aspace)).torn

/-- `LAUNCH_COMPLETION`: the status record is written, where it can be (R257, R258). -/
def execLaunchCompletion (launch : Nat) (s : State) : Outcome :=
  match s.launch? launch with
  | none => .next s
  | some l =>
    if launchOver s launch l then
      match launchStatus s l 0 l.crews with
      | (s1, none) => .next s1
      | (s1, some true) => .next (dropLaunch s1 launch)
      | (s1, some false) => .next (dropLaunch (s1.logEvent (.statusLost l.part l.aspace (bits (l.word 7) 15 0))) launch)
    else .next s

end Sys2Proof.Machine
end

