-- ==== Sys2Proof/Machine/Preempt.lean ====
section
/-! DEFINITION. Pre-emption: the register's requests, discard groups and their judgement, discards and their ends
(R202, R213, R280 to R286). -/

namespace Sys2Proof.Machine

/-- `PREEMPTION_REQUEST`: REQ, ignored while BUSY or OFF is 1 (R281, R282). -/
def execPreemptionRequest (part aspace : Nat) (s : State) : Outcome :=
  let key := spaceKey part aspace
  let c := s.ctx key
  if c.preBusy || c.preOff || !s.ready? then .next s
  else .next (s.setCtx key { c with preBusy := true, preHeld := 0, preDisc := 0, heldGroups := [] })

/-- `PREEMPTION_RESUME`: RESUME, ignored unless OFF is 1 and BUSY is 0 (R281, R285). -/
def execPreemptionResume (part aspace : Nat) (s : State) : Outcome :=
  let key := spaceKey part aspace
  let c := s.ctx key
  if c.preOff && !c.preBusy && s.ready? then .next (s.setCtx key { c with preOff := false }) else .next s

/-- The widest scope of a launch's barriers (R256, R263). -/
def Launch.widest (l : Launch) : Nat := (List.range 16).foldl (fun m k => max m (l.barrierScope k)) 0

/-- The unit of a core at a scope: core, quad, die or package. -/
def unitOf (scope core : Nat) : Nat := match scope with | 0 => core | 1 => core / 4 | 2 => core / 40 | _ => 0

/-- Two crews of a launch belong to one discard group (R280): the same instance; or, with a barrier wider than a core, the
same unit at the wider of the two scopes. -/
def sameGroup (s : State) (l : Launch) (c d : Nat) : Bool :=
  let nc := coresOf s l.part
  if l.widest = 0 then l.instOf nc c == l.instOf nc d
  else
    let level := max l.widest l.domain
    unitOf level (Launch.coreFor s l c) == unitOf level (Launch.coreFor s l d)

/-- The placed crews of a crew's group. -/
def groupCrews (s : State) (l : Launch) (crew : Nat) : List Nat := l.placed.filter (sameGroup s l crew)

/-- The gangs of crews. -/
def gangsOfCrews (s : State) (launch : Nat) (crews : List Nat) : List (Nat × Gang) := crews.flatMap (crewGangs s launch)

/-- A detached task of a launch's group is running, queued or unplaced (R280). -/
def groupDetached (s : State) (launch : Nat) (l : Launch) (crew : Nat) : Bool :=
  s.gangs.any (fun x => decide (x.2.launch = launch) && x.2.crewKey.isNone && sameGroup s l crew x.2.crew) ||
  s.dies.any (fun (_, d) => d.spawns.any (fun x => decide (x.launch = launch) && sameGroup s l crew x.ident.crew) ||
    d.items.any (fun x => decide (x.launch = launch) && sameGroup s l crew x.ident.crew))

/-- A `trace` whose scene descriptor has a nonzero AHIT (R237, R280). -/
def traceAhit (s : State) (c : Command) : Bool :=
  c.kind == .trace && (c.rays.any (fun r => match r.scene with | some d => decide (d.ahit ≠ 0) | none => false) || match (engRead s c.who (bits (c.word 0) 56 0 + 48) 8).2 with
    | .ok bs => decide (ofBytes bs % 2 ^ 57 ≠ 0) | .error _ => false)

/-- A discard group may be discarded (R280). -/
def discardable (s : State) (launch : Nat) (l : Launch) (crew : Nat) : Bool :=
  let crews := groupCrews s l crew
  let nc := coresOf s l.part
  !l.released.any (sameGroup s l crew) && !groupDetached s launch l crew &&
    !crews.any (fun c => l.created.contains (l.instOf nc c)) &&
    (gangsOfCrews s launch crews).all (fun (_, g) => g.phase != .ended && !g.sealed && !s.nonidem g) &&
    !s.cmds.any (fun (_, c) => (match c.crewKey with | some k => crews.any (fun x => decide (k = crewKeyOf launch x)) | none => false)
      && traceAhit s c)

/-- A gang is discarded: it issues nothing more, and its park and its buffered entries are dropped (R283). -/
def Gang.discard (g : Gang) : Gang :=
  { g with phase := .ended, a := { g.a with live := false, parked := none }, b := Slot.idle, flight := [], loads := [], order := [], entries := [],
           returns := [], restarting := false }

/-- The matrix operations of crews after a discard (R202): those not started are dropped, a started `smma` is to stop. -/
def discardOps (keys : List Nat) (ops : List MatOp) : List MatOp :=
  (ops.filter (fun o => !keys.contains o.crewKey || o.started)).map (fun o =>
    if keys.contains o.crewKey then
      { o with gang := none, stopping := match o.word with | .sparse _ => true | _ => false }
    else o)

/-- A command of a discarded group runs to completion by itself (R213, R283). -/
def discardCommand (keys : List Nat) (c : Command) : Command :=
  match c.crewKey with
  | some k => if keys.contains k then { c with gang := none, discarded := true } else c
  | none => c

/-- Collectives that discarded gangs have sent are kept for their re-sends (R247). -/
def discardColls (s : State) (part : Nat) (ids : List Nat) : State :=
  let p := s.part part
  s.setPart part { p with colls := p.colls.map (fun r =>
    if (match r.gang with | some id => ids.contains id | none => false) then { r with discarded := true } else r) }

/-- Discards a group (R283). -/
def discardGroup (s : State) (launch : Nat) (l : Launch) (crew : Nat) : State :=
  let crews := groupCrews s l crew
  let keys := crews.map (crewKeyOf launch)
  let nc := coresOf s l.part
  let insts := crews.map (l.instOf nc)
  let level := max l.widest l.domain
  let home := unitOf level (Launch.coreFor s l crew)
  let first (scope unit : Nat) : Nat := match scope with | 1 => 4 * unit | 2 => 40 * unit | _ => 0
  let s := discardColls s l.part ((gangsOfCrews s launch crews).map (·.1))
  { s with
    gangs := s.gangs.map (fun (id, g) => (id, match g.crewKey with | some k => if keys.contains k then g.discard else g | none => g))
    cmds := s.cmds.map (fun (n, c) => (n, discardCommand keys c))
    cores := s.cores.map (fun (n, c) => (n, { c with ops := discardOps keys c.ops }))
    barriers := s.barriers.filter (fun b => match b.1 with
      | [n, scope, unit, _] => !(decide (n = launch) && decide (0 < scope) && decide (unitOf level (first scope unit) = home))
      | _ => true)
    launches := aput s.launches launch
      { l with again := l.again ++ crews, quanta := l.quanta.filter (fun q => !insts.contains q.1) } }

/-- A commit of the group is under way (R282). -/
def groupCommitting (s : State) (launch : Nat) (l : Launch) (crew : Nat) : Bool :=
  s.acks.any (fun a => decide (a.launch = launch) && (gangsOfCrews s launch (groupCrews s l crew)).any (fun x => a.members.contains x.1))

/-- `DISCARD_GROUP_JUDGEMENT`: the request reaches a group, which is discarded or held (R282). -/
def execDiscardGroupJudgement (launch crew : Nat) (s : State) : Outcome :=
  match s.launch? launch with
  | none => .next s
  | some l =>
    let key := spaceKey l.part l.aspace
    let c := s.ctx key
    let crews := groupCrews s l crew
    let judged := c.heldGroups.any (fun (n, d) => decide (n = launch) && sameGroup s l crew d) || crews.any l.again.contains
    if !c.preBusy || judged || (crews.isEmpty && !groupDetached s launch l crew) || groupCommitting s launch l crew ||
        (s.part l.part).asserted then .next s
    else if discardable s launch l crew then
      .next ((discardGroup s launch l crew).setCtx key { c with preDisc := min 0xFFFF (c.preDisc + 1) })
    else .next (s.setCtx key { c with preHeld := min 0xFFFF (c.preHeld + 1), heldGroups := c.heldGroups ++ [(launch, crew)] })

/-- A crew or task of a context is placed (R289, R401, R418). -/
def workPlaced (s : State) (key : Nat) : Bool :=
  s.gangs.any (fun x => decide (spaceKey x.2.part x.2.aspace = key)) ||
  s.crews.any (fun x => match s.launch? x.2.launch with | some l => decide (spaceKey l.part l.aspace = key) | none => false)

/-- Work of a context is placed or queued to be placed (R284). -/
def contextPlaced (s : State) (key : Nat) : Bool :=
  workPlaced s key ||
  s.dies.any (fun (_, d) => d.spawns.any (fun x => decide (spaceKey x.part x.aspace = key)) ||
    d.items.any (fun x => decide (spaceKey x.part x.aspace = key)))

/-- `PREEMPTION_COMPLETION`: every group held or discarded has been released (R284). -/
def execPreemptionCompletion (part aspace : Nat) (s : State) : Outcome :=
  let key := spaceKey part aspace
  let c := s.ctx key
  if c.preBusy && !contextPlaced s key then .next (s.setCtx key { c with preBusy := false, preOff := true, heldGroups := [] }) else .next s

end Sys2Proof.Machine
end

