-- ==== Sys2Proof/Machine/VectorFloat.lean ====
section
/-! DEFINITION. Vector floating-point instructions (majors `0x0C` to `0x0E`): R88, R89, R141 to R144. -/

namespace Sys2Proof.Machine

/-- An element of an operand after the prefix's absolute value and negation (R55). -/
def floatElem (f : Fmt) (abs neg : Bool) (x k : Nat) : Nat := preFloat f abs neg (elem f.width x k)

/-- A floating-point instruction on the bits of elements of one operand. The function gets the draw of the element. -/
def vfloat1 (f : Grp → Fmt → Nat → Nat → Nat) (grp : Grp) (o : OpV2) (s : State) : Outcome :=
  let t := fmtOf (typeOf grp 7)
  let p := grp.fields
  vecOp grp 5 o.d.toNat 1 [(o.a.toNat, 1)]
    (fun s g i l => outWords 1 (packElems t.width 32 (fun k =>
      f grp t (drawIf grp s g i l k) (floatElem t p.abs p.nega (g.operand o.a.toNat 1 l) k)))) s

/-- A floating-point instruction on the bits of elements of two operands. -/
def vfloat2 (f : Grp → Fmt → Nat → Nat → Nat → Nat) (grp : Grp) (o : OpV3) (s : State) : Outcome :=
  let t := fmtOf (typeOf grp 7)
  let p := grp.fields
  vecOp grp 5 o.d.toNat 1 [(o.a.toNat, 1), (o.b.toNat, 1)]
    (fun s g i l => outWords 1 (packElems t.width 32 (fun k =>
      f grp t (drawIf grp s g i l k) (floatElem t p.abs p.nega (g.operand o.a.toNat 1 l) k)
        (floatElem t p.abs p.negb (g.operand o.b.toNat 1 l) k)))) s

/-- A floating-point instruction on the bits of elements of three operands (R130). -/
def vfloat3 (f : Grp → Fmt → Nat → Nat → Nat → Nat → Nat) (grp : Grp) (o : OpV3) (s : State) : Outcome :=
  let t := fmtOf (typeOf grp 7)
  let p := grp.fields
  let c := thirdReg grp o.d.toNat
  vecOp grp 5 o.d.toNat 1 [(o.a.toNat, 1), (o.b.toNat, 1), (c, 1)]
    (fun s g i l => outWords 1 (packElems t.width 32 (fun k =>
      f grp t (drawIf grp s g i l k) (floatElem t p.abs p.nega (g.operand o.a.toNat 1 l) k)
        (floatElem t p.abs p.negb (g.operand o.b.toNat 1 l) k) (elem t.width (g.operand c 1 l) k)))) s

/-! Major `0x0C` (R141, R142). -/

/-- `vfadd` (R141). -/
def execVfadd (g : Grp) (o : OpV3) (s : State) : Outcome :=
  vfloat2 (fun grp t r a b => roundTo grp t r ((t.val a).add (rndOf grp) (t.val b))) g o s
/-- a - b, a NaN of b kept as it is (R88). -/
def fsub (rm : Rnd) (a b : FVal) : FVal := if b.isNan then a.add rm b else a.add rm b.neg
/-- `vfsub` (R141). -/
def execVfsub (g : Grp) (o : OpV3) (s : State) : Outcome :=
  vfloat2 (fun grp t r a b => roundTo grp t r (fsub (rndOf grp) (t.val a) (t.val b))) g o s
/-- `vfmul` (R141). -/
def execVfmul (g : Grp) (o : OpV3) (s : State) : Outcome :=
  vfloat2 (fun grp t r a b => roundTo grp t r ((t.val a).mul (t.val b))) g o s
/-- `vfma` (R141). -/
def execVfma (g : Grp) (o : OpV3) (s : State) : Outcome :=
  vfloat3 (fun grp t r a b c => roundTo grp t r (FVal.fma (rndOf grp) (t.val a) (t.val b) (t.val c))) g o s
/-- c - a * b, a NaN of a kept as it is (R88). -/
def fnma (rm : Rnd) (a b c : FVal) : FVal := if a.isNan then FVal.fma rm a b c else FVal.fma rm a.neg b c
/-- `vfnma` (R141). -/
def execVfnma (g : Grp) (o : OpV3) (s : State) : Outcome :=
  vfloat3 (fun grp t r a b c => roundTo grp t r (fnma (rndOf grp) (t.val a) (t.val b) (t.val c))) g o s

/-- The bits of a NaN of a format, quieted (R88). -/
def quiet (t : Fmt) (e : Nat) : Nat := match t.val e with | .nan s p => nanCode t s p | _ => e

/-- The lesser or the greater operand's bits; `nan` for the forms that return a NaN operand (R142). -/
def fminmax (greater nan : Bool) (t : Fmt) (a b : Nat) : Nat :=
  let x := t.val a
  let y := t.val b
  if x.isNan && (nan || y.isNan) then quiet t a
  else if y.isNan && nan then quiet t b
  else if x.isNan then b
  else if y.isNan then a
  else if greater then (if x.ltZ y then b else a)
  else (if y.ltZ x then b else a)

/-- `vfmin` (R142). -/
def execVfmin (g : Grp) (o : OpV3) (s : State) : Outcome := vfloat2 (fun _ t _ a b => fminmax false false t a b) g o s
/-- `vfmax` (R142). -/
def execVfmax (g : Grp) (o : OpV3) (s : State) : Outcome := vfloat2 (fun _ t _ a b => fminmax true false t a b) g o s
/-- `vfabs`: the sign bit cleared (R141). -/
def execVfabs (g : Grp) (o : OpV2) (s : State) : Outcome := vfloat1 (fun _ t _ a => a % t.signBit) g o s

/-! Major `0x0D` (R143). -/

/-- A floating-point comparison: all ones where it holds, else 0 (R143). -/
def vfcmp (rel : FVal → FVal → Bool) (grp : Grp) (o : OpV3) (s : State) : Outcome :=
  vfloat2 (fun _ t _ a b => if rel (t.val a) (t.val b) then 2 ^ t.width - 1 else 0) grp o s

/-- `vfcmp.eq` (R143). -/
def execVfcmpEq (g : Grp) (o : OpV3) (s : State) : Outcome := vfcmp FVal.eqV g o s
/-- `vfcmp.lt` (R143). -/
def execVfcmpLt (g : Grp) (o : OpV3) (s : State) : Outcome := vfcmp FVal.lt g o s
/-- `vfcmp.le` (R143). -/
def execVfcmpLe (g : Grp) (o : OpV3) (s : State) : Outcome := vfcmp (fun a b => a.lt b || a.eqV b) g o s
/-- `vfcmp.un` (R143). -/
def execVfcmpUn (g : Grp) (o : OpV3) (s : State) : Outcome := vfcmp (fun a b => a.isNan || b.isNan) g o s

/-- The class bits of an element (R143). -/
def classBits (t : Fmt) (e : Nat) : Nat :=
  let sub := decide (e / 2 ^ t.mbits % 2 ^ t.ebits = 0)
  match t.val e with
  | .nan _ p => if p < 0x400000 then 2 ^ 8 else 2 ^ 9
  | .inf neg => if neg then 1 else 2 ^ 7
  | .zero neg => if neg then 2 ^ 3 else 2 ^ 4
  | .fin neg _ _ => if neg then (if sub then 2 ^ 2 else 2) else (if sub then 2 ^ 5 else 2 ^ 6)

/-- `vfclass` (R143). -/
def execVfclass (g : Grp) (o : OpV2) (s : State) : Outcome := vfloat1 (fun _ t _ a => classBits t a) g o s

/-- An element rounded to an integral value of its own format (R143). -/
def roundIntegral (rm : Rnd) (draw : Nat) (t : Fmt) (e : Nat) : Nat :=
  match t.val e with
  | .nan s p => nanCode t s p
  | .fin neg m x =>
    let n := (roundInt rm draw neg m x).natAbs
    if n = 0 then (if neg then t.signBit else 0) else (FVal.fin neg n 0).round t .rtz false 0
  | _ => e

/-- `vfrnd` (R143). -/
def execVfrnd (g : Grp) (o : OpV2) (s : State) : Outcome := vfloat1 (fun grp t r a => roundIntegral (rndOf grp) r t a) g o s
/-- `vfneg`: the sign bit flipped (R143). -/
def execVfneg (g : Grp) (o : OpV2) (s : State) : Outcome := vfloat1 (fun _ t _ a => preFloat t false true a) g o s
/-- `vfcpsgn`: a's magnitude bits with b's sign bit (R143). -/
def execVfcpsgn (g : Grp) (o : OpV3) (s : State) : Outcome :=
  vfloat2 (fun _ t _ a b => a % t.signBit + b / t.signBit * t.signBit) g o s

/-! Major `0x0E` (R142, R144). -/

/-- `vfmin.nan` (R142). -/
def execVfminNan (g : Grp) (o : OpV3) (s : State) : Outcome := vfloat2 (fun _ t _ a b => fminmax false true t a b) g o s
/-- `vfmax.nan` (R142). -/
def execVfmaxNan (g : Grp) (o : OpV3) (s : State) : Outcome := vfloat2 (fun _ t _ a b => fminmax true true t a b) g o s

/-- An exact sum of three terms (R88, R89, R144): infinities of both signs are invalid; a sum of zeros alone keeps a sign
that all of them have; another zero sum is that of R89. -/
def sum3 (rm : Rnd) (a b c : FVal) : FVal :=
  let infs := [a, b, c].filter (fun x => match x with | .inf _ => true | _ => false)
  match infs with
  | [] =>
    if a.isZero && b.isZero && c.isZero then
      (if a.sign == b.sign && b.sign == c.sign then a else zeroSum rm)
    else (a.add rm b).add rm c
  | x :: rest => if rest.all (fun y => y.sign == x.sign) then x else .canonical

/-- `vfdot2`'s exact value from the elements of a and b, and c (R144). -/
def dot2 (rm : Rnd) (a0 b0 a1 b1 c : FVal) : FVal :=
  if [a0, b0, a1, b1, c].any FVal.isNan then nanPick [a0, b0, a1, b1, c]
  else
    let x := a0.mul b0
    let y := a1.mul b1
    if x.isNan || y.isNan then .canonical else zeroFrom rm [a0, b0, a1, b1, c] (sum3 rm c x y)

/-- `vfdot2`: two products and an f32 addend, rounded once (R144). -/
def execVfdot2 (g : Grp) (o : OpV3) (s : State) : Outcome :=
  let t := fmtOf (typeOf g 8)
  let p := g.fields
  let c := thirdReg g o.d.toNat
  vecOp g 5 o.d.toNat 1 [(o.a.toNat, 1), (o.b.toNat, 1), (c, 1)]
    (fun s x i l =>
      let a (k : Nat) := t.val (floatElem t p.abs p.nega (x.operand o.a.toNat 1 l) k)
      let b (k : Nat) := t.val (floatElem t p.abs p.negb (x.operand o.b.toNat 1 l) k)
      [w32 (roundTo g fF32 (drawIf g s x i l 0) (dot2 (rndOf g) (a 0) (b 0) (a 1) (b 1) (fF32.val (x.operand c 1 l))))]) s

/-- `vfscl`: a * 2^n, with n the element of b as an integer (R144). -/
def execVfscl (g : Grp) (o : OpV3) (s : State) : Outcome :=
  let t := fmtOf (typeOf g 7)
  let p := g.fields
  vecOp g 5 o.d.toNat 1 [(o.a.toNat, 1), (o.b.toNat, 1)]
    (fun s x i l => outWords 1 (packElems t.width 32 (fun k =>
      let n := max (-1024) (min 1024 (sext t.width (elem t.width (x.operand o.b.toNat 1 l) k)))
      roundTo g t (drawIf g s x i l k) ((t.val (floatElem t p.abs p.nega (x.operand o.a.toNat 1 l) k)).scale n)))) s

/-- The exponent floor(log2 |a|) of a nonzero finite value. -/
def floorExp (m : Nat) (e : Int) : Int := (Nat.log2 m : Int) + e

/-- `vfexp`: the exponent as an integer of the element's width (R144). -/
def execVfexp (g : Grp) (o : OpV2) (s : State) : Outcome :=
  vfloat1 (fun _ t _ a => match t.val a with
    | .fin _ m e => wrapTo t.width (floorExp m e)
    | .zero _ => 2 ^ (t.width - 1)
    | _ => 2 ^ (t.width - 1) - 1) g o s

/-- `vfmant`: the significand in [1, 2) with a's sign (R144). -/
def execVfmant (g : Grp) (o : OpV2) (s : State) : Outcome :=
  vfloat1 (fun _ t _ a => match t.val a with
    | .fin neg m e => (FVal.fin neg m (e - floorExp m e)).round t .rtz false 0
    | .nan n p => nanCode t n p
    | _ => a) g o s

/-- `vflerp`'s exact value a + c * (b - a) (R144). -/
def lerp (rm : Rnd) (a b c : FVal) : FVal :=
  if [a, b, c].any FVal.isNan then nanPick [a, b, c]
  else
    let d := b.add rm a.neg
    if d.isNan then .canonical
    else
      let m := c.mul d
      if m.isNan then .canonical else zeroFrom rm [a, b, c] (a.add rm m)

/-- `vflerp` (R144). -/
def execVflerp (g : Grp) (o : OpV3) (s : State) : Outcome :=
  let c := thirdReg g o.d.toNat
  vecOp g 5 o.d.toNat 1 [(o.a.toNat, 1), (o.b.toNat, 1), (c, 1)]
    (fun s x i l =>
      [w32 (roundTo g fF32 (drawIf g s x i l 0)
        (lerp (rndOf g) (fF32.val (x.operand o.a.toNat 1 l)) (fF32.val (x.operand o.b.toNat 1 l)) (fF32.val (x.operand c 1 l))))]) s

end Sys2Proof.Machine
end

