-- ==== Sys2Proof/Machine/Coll.lean ====
section
/-! DEFINITION. Collectives (R246, R247, R391 to R393). -/

namespace Sys2Proof.Machine

/-! Issue (R246). -/

/-- TYPE, OP, RED, COUNT and GROUP of a `coll`. -/
def Command.collType (c : Command) : Nat := c.field 2 39 32
/-- OP. -/
def Command.collOp (c : Command) : Nat := c.field 2 43 40
/-- RED. -/
def Command.collRed (c : Command) : Nat := c.field 2 47 44
/-- COUNT. -/
def Command.collCount (c : Command) : Nat := c.field 2 31 0
/-- GROUP. -/
def Command.collGroup (c : Command) : Nat := c.field 2 55 48
/-- SEQ. -/
def Command.collSeq (c : Command) : W32 := w32 (c.field 3 31 0)

/-- A code of R71 is assigned. -/
def typeCode (t : Nat) : Bool := (decide (1 ≤ t) && decide (t ≤ 8)) || [0x10, 0x11, 0x12, 0x14, 0x15, 0x16, 0x17].contains t

/-- An operation accepts a type (R246). -/
def collTypes (c : Command) : Bool :=
  let t := c.collType
  let red : Bool := match c.collRed with
    | 0 => [5, 6, 7, 8, 0x12, 0x11].contains t
    | 1 => (decide (1 ≤ t) && decide (t ≤ 8)) || decide (t = 0x12)
    | 2 => (decide (1 ≤ t) && decide (t ≤ 8)) || decide (t = 0x12)
    | _ => false
  match c.collOp with
  | 0 => red
  | 1 => red
  | 2 => typeCode t && !(decide (t = 0x16) && decide (c.collCount % 2 = 1))
  | 3 => decide (t = 0) && decide (c.collCount = 0)
  | 4 => decide (t = 0x12)
  | _ => false

/-- Grounds for `ILLEGAL_OP` of a `coll` (R246). -/
def collIllegal (c : Command) : Bool :=
  decide (2 < c.collRed) || !collTypes c || decide (c.field 2 63 56 ≠ 0) || decide (c.field 3 63 32 ≠ 0) ||
    [4, 5, 6].any (fun j => decide (c.word j ≠ 0))

/-- Bytes of an element, and for two elements of e2m1, of one access. -/
def collBytes (c : Command) : Nat := if c.collOp = 4 then 16 else max 1 (codeWidth c.collType / 8)

/-- A `coll` whose SRC or DST is misaligned (R246). -/
def collMisaligned (c : Command) : Bool :=
  decide ((c.word 0).toNat % collBytes c ≠ 0) || decide ((c.word 1).toNat % collBytes c ≠ 0)

/-- The instances that a partition's link engines run (R408). -/
def runningColls (s : State) (part : Nat) : List (Nat × W32) :=
  dedup ((s.cmds.filter (fun x => x.2.kind == .coll && decide (x.2.part = part))).map (fun x => (x.2.collGroup, x.2.collSeq)))

/-- `coll sa` (R246): a command for a further instance waits while 64 run (R408). -/
def execColl (g : Grp) (o : OpCA) (s : State) : Outcome :=
  issue g
    (fun s x i =>
      let c := newCommand s x i .coll (recordBlock o.a x i)
      let u := blockUses o.a
      if u.illegal || u.misaligned then u else { u with illegalState := collIllegal c, misaligned := collMisaligned c })
    (fun s x i =>
      let c := newCommand s x i .coll (recordBlock o.a x i)
      let running := runningColls s x.part
      if 64 ≤ running.length ∧ !running.contains (c.collGroup, c.collSeq) then stall s i x else sendCommand s i x (heldByFence x i.pos) c) s

/-! Groups (R391, R392). -/

/-- The members of a group entry by rank: package and partition; none for a malformed entry. -/
def groupMembers (bs : List Byte) : Option (List (Nat × Nat)) :=
  let b (k : Nat) : Nat := (tget (0 : Byte) bs k).toNat
  let p := b 0 % 128
  let ms := (List.range p).map (fun k => (b (64 + k) % 64, b (64 + k) / 64))
  if b 0 < 128 ∨ p = 0 ∨ 64 < p ∨ (List.range 63).any (fun k => b (k + 1) != 0) ∨ (List.range (64 - p)).any (fun k => b (64 + p + k) != 0)
      ∨ (dedup ms).length ≠ p then none else some ms

/-- The address of a command's group entry (R391). -/
def groupAddress (s : State) (c : Command) : Nat := bits (s.part c.part).collGt 56 15 * 2 ^ 15 + 128 * c.collGroup

/-- A command's group entry is read, once (R391). -/
def readGroup (s : State) (n : Nat) (c : Command) : State × Except EngFault Command :=
  if !c.entry.isEmpty then (s, .ok c)
  else match engRead s c.who (groupAddress s c) 128 with
    | (s1, .ok bs) => (s1.setCmd n { c with entry := bs }, .ok { c with entry := bs })
    | (s1, .error e) => (s1, .error e)

/-- The members by a command's group entry; none while it has not been read, or where it is malformed. -/
def Command.members (c : Command) : Option (List (Nat × Nat)) := groupMembers c.entry

/-! Reduction (R247). -/

/-- Two elements combined (R93, R142, R247). -/
def collCombine (c : Command) (a b : Nat) : Nat :=
  let t := c.collType
  let w := codeWidth t
  if c.collOp = 4 then
    let f (x k : Nat) : FVal := fF32.val (x / 2 ^ (32 * k) % 2 ^ 32)
    let r (x : FVal) : Nat := x.round fF32 .rne false 0
    let ch (k : Nat) : Nat := r ((f a 3).fma .rne (f b k) (f a k))
    ch 0 + ch 1 * 2 ^ 32 + ch 2 * 2 ^ 64 + r ((f a 3).mul (f b 3)) * 2 ^ 96
  else
    let signed := decide (t % 2 = 1)
    let less (x y : Nat) : Bool := if signed then decide (sext w x < sext w y) else decide (x < y)
    match c.collRed with
    | 0 => if t = 0x12 then (faddF32 (w32 a) (w32 b)).toNat else if t = 0x11 then faddBF16 a b else (a + b) % 2 ^ w
    | 1 => if t = 0x12 then fminmax false false fF32 a b else if less b a then b else a
    | _ => if t = 0x12 then fminmax true false fF32 a b else if less a b then b else a

/-- One level of the tree: neighbours combine, an odd one stays. -/
def pairLevel (f : Nat → Nat → Nat) : List Nat → List Nat
  | x :: y :: rest => f x y :: pairLevel f rest
  | l => l

/-- The root of the tree (R247). -/
def treeRoot (f : Nat → Nat → Nat) : (fuel : Nat) → List Nat → Nat
  | 0, l => l.headD 0
  | fuel + 1, l => if l.length ≤ 1 then l.headD 0 else treeRoot f fuel (pairLevel f l)

/-- Elements of bytes. -/
def elemsOf (size : Nat) (bs : List Byte) (n : Nat) : List Nat := (List.range n).map (fun j => ofBytes ((bs.drop (size * j)).take size))

/-- What a member of rank `r` writes to DST, from the SRC bytes of all ranks (R247). -/
def collResult (c : Command) (srcs : List (List Byte)) (r : Nat) : List Byte :=
  let size := collBytes c
  let n := c.collCount
  let p := srcs.length
  let cols := srcs.map (fun b => elemsOf size b n)
  let root (k : Nat) : Nat := treeRoot (collCombine c) 8 (cols.map (fun l => tget 0 l k))
  match c.collOp with
  | 2 => srcs.flatMap id
  | 3 => []
  | 1 => (List.range (n / p)).flatMap (fun j => toBytes size (root (r * (n / p) + j)))
  | _ => (List.range n).flatMap (fun k => toBytes size (root k))

/-- Bytes of SRC that a command reads. -/
def collSpan (c : Command) : Nat := if c.collOp = 3 then 0 else c.collCount * (if c.collOp = 4 then 128 else codeWidth c.collType) / 8

/-- A command's SRC bytes. -/
def readSrc (s : State) (c : Command) : State × Except (EngFault × Nat) (List Byte) :=
  let size := collBytes c
  match readLocal s c.who (c.word 0).toNat size (collSpan c / size) with
  | (s1, .ok xs) => (s1, .ok (xs.flatMap (toBytes size)))
  | (s1, .error e) => (s1, .error e)

/-! Instances (R247, R392). -/

/-- A command of a partition's instance that has not ended. -/
def inInstance (part group : Nat) (seq : W32) (c : Command) : Bool :=
  c.kind == .coll && decide (c.part = part) && decide (c.collGroup = group) && c.collSeq == seq && !c.landed

/-- The command that a re-send repeats is still under way (R247). -/
def resendOfRunning (s : State) (n : Nat) (c : Command) : Bool :=
  s.cmds.any (fun (m, d) => decide (m < n) && d.kind == .coll && d.discarded && decide (d.part = c.part) && decide (d.aspace = c.aspace)
    && d.words == c.words)

/-- The completed command that a re-send repeats (R247). -/
def resendOfDone (s : State) (c : Command) : Option CollRecord :=
  (s.part c.part).colls.find? (fun r => r.discarded && decide (r.aspace = c.aspace) && r.words == c.words)

/-- A command is a re-send (R247). -/
def isResend (s : State) (n : Nat) (c : Command) : Bool := resendOfRunning s n c || (resendOfDone s c).isSome

/-- A command ends with a code, with nothing more written to DST. -/
def endColl (s : State) (n : Nat) (c : Command) (code : Nat) : State :=
  s.setCmd n { c with started := true, parked := false, landed := true, code := code, data := c.data.take (collBytes c * c.progress) }

/-- Commands end with a code. -/
def endColls (s : State) (code : Nat) : List (Nat × Command) → State
  | [] => s
  | (n, c) :: rest => endColls (endColl s n c code) code rest

/-- A fault of a command that is starting (R215). -/
def collFault (s : State) (n : Nat) (c : Command) (va : Nat) (e : EngFault) : State :=
  match e with
  | .ecc key => endColl (logUncorr s c.part (homePA c.part key)) n c 3
  | e => commandFault s n c .engRead va e

/-- Another instance of the numbers has started at the partition and is not complete on every member (R392). -/
def openHere (s : State) (part group : Nat) (seq : W32) : Bool :=
  (s.part part).collOpen.any (fun x => decide (x.group = group) && x.seq == seq)

/-- The commands of an instance at a partition that have not ended, but for re-sends (R247). -/
def collsAt (s : State) (part group : Nat) (seq : W32) : List (Nat × Command) :=
  s.cmds.filter (fun x => inInstance part group seq x.2 && !isResend s x.1 x.2)

/-- The partition's member has sent a second command for the instance (R247, R392). -/
def secondSent (s : State) (part group : Nat) (seq : W32) : Bool :=
  decide (1 < (collsAt s part group seq).length) ||
    (openHere s part group seq && (collsAt s part group seq).any (fun x => !x.2.started))

/-- The commands of an instance at other partitions of this package that it concerns: their entry lists the member, or the
member's entry (`listed`) lists them (R392). Entries not yet read are read. -/
def collMates (s : State) (me : Nat × Nat) (listed : List (Nat × Nat)) (group : Nat) (seq : W32) : State × List (Nat × Command) :=
  ((List.range 4).filter (· ≠ me.2)).foldl (fun (s, l) p => (collsAt s p group seq).foldl (fun (s, l) (n, c) =>
    match readGroup s n c with
    | (s1, .ok d) => (s1, if d.members.any (·.contains me) || listed.contains (s1.pkg.number, p) then l ++ [(n, d)] else l)
    | (s1, .error _) => (s1, l)) (s, l)) (s, [])

/-- What the other members have sent agrees with the membership: each of another package is listed once, and each of this package
has one command here (R392). -/
def allSent (s : State) (members : List (Nat × Nat)) (mates : List (Nat × Command)) (peers : List CollPeer) : Bool :=
  members.all (fun m => if m.1 = s.pkg.number then (mates.filter (fun x => decide (x.2.part = m.2))).length == 1
    else (peers.filter (fun p => decide ((p.package, p.part) = m))).length == 1)
  && peers.all (fun p => members.contains (p.package, p.part))

/-- The SRC bytes of the members of this package; the first fault names its command. -/
def readSources (s : State) : List (Nat × Command) → State × Except (Nat × Command × EngFault × Nat) (List (Nat × List Byte))
  | [] => (s, .ok [])
  | (n, c) :: rest =>
    match readSrc s c with
    | (s1, .error (e, va)) => (s1, .error (n, c, e, va))
    | (s1, .ok bs) => (match readSources s1 rest with
      | (s2, .ok l) => (s2, .ok ((c.part, bs) :: l))
      | (s2, .error e) => (s2, .error e))

/-- An instance starts: every member of this package takes the values that its DST is to hold (R247), and the members of other
packages are sent theirs. -/
def startInstance (s : State) (members : List (Nat × Nat)) (mates : List (Nat × Command)) (peers : List CollPeer)
    (srcs : List (Nat × List Byte)) (group : Nat) (seq : W32) : State :=
  let all := members.map (fun m =>
    if m.1 = s.pkg.number then (aget srcs m.2).getD []
    else match peers.find? (fun p => decide ((p.package, p.part) = m)) with | some p => p.src | none => [])
  let s1 := mates.foldl (fun s (n, c) =>
    let p := s.part c.part
    (s.setCmd n { c with started := true, data := collResult c all (members.idxOf (s.pkg.number, c.part)) }).setPart c.part
      { p with collOpen := p.collOpen ++ [{ group := group, seq := seq, members := members }] }) s
  peers.foldl (fun s p => s.linkSend p.package p.part 2) s1

/-- Withdrawals are sent to the members of a command's group that can be reached (R392). -/
def withdraw (s : State) (n : Nat) (c : Command) : State :=
  match readGroup s n c with
  | (s1, .ok d) => (match d.members with
    | some ms =>
      let dests := ms.filter (fun m => decide (m ≠ (s.pkg.number, c.part)) && (decide (m.1 = s.pkg.number) || (s1.routePort m.1).isSome))
      let s2 := { s1 with pkg := { s1.pkg with collOut := s1.pkg.collOut ++ dests.map (fun m => (m.1, m.2, c.collGroup, c.collSeq)) } }
      dests.foldl (fun s m => if m.1 = s.pkg.number then s else s.linkSend m.1 m.2 2) s2
    | none => s1)
  | (s1, .error _) => s1

/-- A member can be reached no more. -/
def memberLost (s : State) (ms : List (Nat × Nat)) : Bool := ms.any (fun m => decide (m.1 ≠ s.pkg.number) && (s.routePort m.1).isNone)

/-- `COLL_INSTANCE_START`: the link engine reads the group entry, and the instance starts once every member has sent its
command (R391, R392); `peers` is what the members of other packages have sent (notes/assumptions/92.md). -/
def execCollInstanceStart (part group : Nat) (seq : W32) (peers : List CollPeer) (s : State) : Outcome :=
  let mine := collsAt s part group seq
  match mine.filter (fun x => !x.2.started && commandLive s x.2) with
  | [] => .next (if peers.any (·.second) then endColls s 5 (mine.filter (·.2.started)) else s)
  | (n, c) :: _ =>
    match readGroup s n c with
    | (s1, .error e) => .next (collFault s1 n c (groupAddress s c) e)
    | (s1, .ok d) =>
      let me := (s.pkg.number, part)
      let (s2, mates) := collMates s1 me (d.members.getD []) group seq
      match d.members with
      | none => .next (endColls s2 5 (mine ++ mates))
      | some members =>
        let here := collsAt s2 part group seq ++ mates
        if !members.contains me then .next (endColls s2 4 (mine.filter (fun x => !x.2.started)))
        else if (secondSent s2 part group seq || mates.any (fun x => members.contains (s.pkg.number, x.2.part) && secondSent s2 x.2.part group seq)
            || peers.any (·.second)) then .next (endColls s2 5 here)
        else if memberLost s2 members then .next (endColl (withdraw s2 n d) n d 6)
        else if !allSent s2 members here peers then .next s2
        else if peers.any (fun p => !p.digestOk || p.w2 != d.word 2) || here.any (fun x => x.2.entry != d.entry || x.2.word 2 != d.word 2)
            || (decide (d.collOp = 1) && decide (d.collCount % members.length ≠ 0)) then .next (endColls s2 5 here)
        else match readSources s2 here with
          | (s3, .error (m, x, e, va)) => .next (collFault s3 m x va e)
          | (s3, .ok srcs) => .next (startInstance s3 members here peers srcs group seq)

/-- Elements in one access: two of e2m1. -/
def perAccess (c : Command) : Nat := if c.collOp = 2 ∧ c.collType = 0x16 then 2 else 1

/-- Writes DST from the access of number `k` on: the accesses made, and the fault that stopped them. -/
def writeDst (c : Command) (data : List Byte) : (fuel : Nat) → State → (k : Nat) → State × Nat × Option (EngFault × Nat)
  | 0, s, k => (s, k, none)
  | fuel + 1, s, k =>
    let size := collBytes c
    let a := (c.word 1).toNat + size * k
    match writeLocal s c.who a ((data.drop (size * k)).take size) with
    | (s1, .ok ()) => writeDst c data fuel s1 (k + 1)
    | (s1, .error e) => (s1, k, some (e, a))

/-- A member has completed an instance: it is no longer waited for before its numbers start another (R392). -/
def memberDone (s : State) (member : Nat × Nat) (group : Nat) (seq : W32) : State :=
  { s with parts := s.parts.map (fun (n, p) => (n, { p with
    collOpen := (p.collOpen.map (fun x => if x.group = group ∧ x.seq = seq then { x with members := x.members.filter (· ≠ member) } else x)).filter
      (fun x => !x.members.isEmpty) })) }

/-- A member of another package has completed an instance (R392). -/
def collDone (s : State) (part group : Nat) (seq : W32) (package member : Nat) : State :=
  let p := s.part part
  if package = s.pkg.number then s
  else s.setPart part { p with
    collOpen := (p.collOpen.map (fun x => if x.group = group ∧ x.seq = seq then { x with members := x.members.filter (· ≠ (package, member)) } else x)).filter
      (fun x => !x.members.isEmpty) }

/-- The end of a collective: its status record, and what a re-send would repeat (R214, R247). -/
def finishColl (s : State) (n : Nat) (c : Command) : State :=
  let count := c.progress * perAccess c
  match writeStatus s n c c.code count 0 with
  | (s1, true) =>
    let p := s1.part c.part
    let r : CollRecord := { aspace := c.aspace, launch := c.launch, gang := c.gang, words := c.words, discarded := c.discarded,
                            code := c.code, data := c.data }
    let s2 := (sceneClear (s1.setPart c.part { p with colls := p.colls ++ [r] })).dropCmd n
    if c.started && !isResend s n c then memberDone s2 (s.pkg.number, c.part) c.collGroup c.collSeq else s2
  | (s1, false) => s1

/-- Writes what is left of DST and ends, or parks (R215, R247). -/
def runColl (s : State) (n : Nat) (c : Command) : State :=
  match writeDst c c.data (c.data.length / collBytes c - c.progress) s c.progress with
  | (s1, k, none) => finishColl s1 n { c with progress := k, landed := true }
  | (s1, k, some (e, a)) => commandFault s1 n { c with progress := k } .engWrite a e

/-- `COLL_COMPLETION`: DST and then the status record are written (R247); a re-send repeats what its original wrote. -/
def execCollCompletion (part command : Nat) (s : State) : Outcome :=
  match aget s.cmds command with
  | none => .next s
  | some c =>
    if c.kind != .coll || decide (c.part ≠ part) || !commandLive s c then .next s
    else if c.landed then .next (finishColl s command c)
    else if c.started then .next (runColl s command c)
    else if resendOfRunning s command c then .next s
    else match resendOfDone s c with
      | some r => .next (runColl s command { c with started := true, code := r.code, data := r.data })
      | none => .next s

/-- `COLL_WITHDRAWAL`: another member has withdrawn; a command of the instance that has not completed ends with CODE 6
(R392), while the partition's link engine runs (R355). -/
def execCollWithdrawal (part group : Nat) (seq : W32) (s : State) : Outcome :=
  let s1 := endColls s 6 (collsAt s part group seq)
  if (s.part part).asserted then .next s
  else .next { s1 with pkg := { s1.pkg with collOut := s1.pkg.collOut.erase (s.pkg.number, part, group, seq) } }

/-- `COLL_ROUTE_LOST`: a command that has lost its route to a member ends with CODE 6 and withdraws (R392), while the
partition's link engine runs (R355). -/
def execCollRouteLost (part command : Nat) (s : State) : Outcome :=
  match aget s.cmds command with
  | none => .next s
  | some c =>
    if c.kind == .coll && decide (c.part = part) && !c.landed && !isResend s command c && !(s.part part).asserted then
      match readGroup s command c with
      | (s1, .ok d) => .next (if d.members.any (memberLost s1) then endColl (withdraw s1 command d) command d 6 else s1)
      | (_, .error _) => .next s
    else .next s

end Sys2Proof.Machine
end

