-- ==== Sys2Proof/Machine/Geometry.lean ====
section
/-! DEFINITION. Exact geometry on f32 values: boxes, triangles, instance transforms and the coverage of triangles
(R236, R237, R239, R245). A finite f32 value stands as an integer, its multiple of 2^-149. -/

namespace Sys2Proof.Machine

/-- An extended rational; the divisor is positive. -/
inductive Ext where
  | neg
  | fin (n : Int) (d : Nat)
  | pos
  deriving DecidableEq, Repr

/-- a ≤ b. -/
def Ext.le : Ext → Ext → Bool
  | .neg, _ => true
  | _, .pos => true
  | .fin n d, .fin m e => decide (n * e ≤ m * d)
  | _, _ => false

/-- The lesser. -/
def Ext.min (a b : Ext) : Ext := if a.le b then a else b
/-- The greater. -/
def Ext.max (a b : Ext) : Ext := if a.le b then b else a
/-- A scaled integer as a value. -/
def Ext.scaled (n : Int) : Ext := .fin n (2 ^ 149)

/-- A finite f32 value as a multiple of 2^-149; none for an infinity or a NaN. -/
def scaled (w : W32) : Option Int :=
  match fF32.val w.toNat with
  | .zero _ => some 0
  | .fin s m e => some ((if s then -1 else 1) * ((m * 2 ^ (e + 149).toNat : Nat) : Int))
  | _ => none

/-- Finite values, all of them. -/
def scaledAll : List W32 → Option (List Int)
  | [] => some []
  | w :: ws => match scaled w, scaledAll ws with | some n, some ns => some (n :: ns) | _, _ => none

/-- A number that is not a NaN. -/
def extended (w : W32) : Option Ext :=
  match fF32.val w.toNat with
  | .nan _ _ => none
  | .inf s => some (if s then .neg else .pos)
  | _ => (scaled w).map Ext.scaled

/-- The quotient of a difference and a direction component that is not zero (scales cancel). -/
def quotient (n d : Int) : Ext := if d < 0 then .fin (-n) d.natAbs else .fin n d.natAbs

/-- A bound's parameter along an axis: origin `o` and direction `d` not zero. -/
def slabAt (bound : W32) (o d : Int) : Option Ext :=
  match fF32.val bound.toNat with
  | .nan _ _ => none
  | .inf s => some (if s != decide (d < 0) then .neg else .pos)
  | _ => (scaled bound).map (fun b => quotient (b - o) d)

/-- One axis of the slab test: the near and far parameters, and the entry if the axis has one; none if the box is missed.
Bounds with MIN above MAX are exchanged where the direction is not 0 (R239; notes/assumptions/50.md). -/
def slabAxis (lo hi : W32) (o d : Int) (x : Ext × Ext × Option Ext) : Option (Ext × Ext × Option Ext) :=
  if d = 0 then
    match extended lo, extended hi with
    | some a, some b => if a.le (.scaled o) && (Ext.scaled o).le b then some x else none
    | _, _ => none
  else
    match slabAt lo o d, slabAt hi o d with
    | some a, some b =>
      let t1 := a.min b
      let t2 := a.max b
      some (x.1.max t1, x.2.1.min t2, some (match x.2.2 with | some e => e.max t1 | none => t1))
    | _, _ => none

/-- The inclusive slab test over [TMIN, t'] (R239): the raw entry distance of a box that is hit. The ray's words are as in
R236, the box's MINX to MAXZ. -/
def boxEntry (ray box : List W32) (limit : W32) : Option Ext :=
  let w (l : List W32) (k : Nat) : W32 := tget 0 l k
  match scaledAll (ray.take 3), scaledAll ((ray.drop 4).take 3), extended (w ray 3), extended limit with
  | some o, some d, some near, some far =>
    let axis (k : Nat) (x : Ext × Ext × Option Ext) := slabAxis (w box k) (w box (k + 3)) (tget 0 o k) (tget 0 d k) x
    (match (axis 0 (near, far, none)).bind (axis 1) |>.bind (axis 2) with
     | some (a, b, e) => if a.le b then e else none
     | none => none)
  | _, _, _, _ => none

/-- A rational rounded once to f32 with `rne`; an exact zero is +0 (R85, R89). -/
def roundRat (n : Int) (d : Nat) : W32 := if n = 0 then 0 else w32 (roundMag fF32 .rne false 0 (decide (n < 0)) n.natAbs d)

/-- a − b by components. -/
def vsub3 (a b : List Int) : List Int := a.zipWith (· - ·) b
/-- The dot product. -/
def dot3 (a b : List Int) : Int := (a.zipWith (· * ·) b).foldl (· + ·) 0
/-- The cross product. -/
def cross3 (a b : List Int) : List Int :=
  let x (l : List Int) (k : Nat) : Int := tget 0 l k
  [x a 1 * x b 2 - x a 2 * x b 1, x a 2 * x b 0 - x a 0 * x b 2, x a 0 * x b 1 - x a 1 * x b 0]

/-- The candidate of a triangle of nine vertex words (R239): T, U and V rounded. -/
def triangleHit (ray tri : List W32) : Option (W32 × W32 × W32) :=
  match scaledAll (ray.take 3), scaledAll ((ray.drop 4).take 3), scaledAll (tri.take 9), extended (tget 0 ray 3), extended (tget 0 ray 7) with
  | some o, some d, some p, some near, some far =>
    let v0 := p.take 3
    let e1 := vsub3 ((p.drop 3).take 3) v0
    let e2 := vsub3 ((p.drop 6).take 3) v0
    let h := cross3 d e2
    let det := dot3 e1 h
    if det = 0 then none
    else
      let sg : Int := if det < 0 then -1 else 1
      let s := vsub3 o v0
      let q := cross3 s e1
      let u := sg * dot3 s h
      let v := sg * dot3 d q
      let t := sg * dot3 e2 q
      let n := det.natAbs
      if u < 0 ∨ v < 0 ∨ (n : Int) < u + v ∨ !(near.le (.fin t n)) ∨ !((Ext.fin t n).le far) then none
      else some (roundRat t n, roundRat u n, roundRat v n)
  | _, _, _, _, _ => none

/-- A ray moved into an instance's space by the 12 words of its matrix (R239): each component the exact sum rounded once; none
where the instance is not entered. -/
def instanceRay (ray mat : List W32) : Option (List W32) :=
  match scaledAll (ray.take 3), scaledAll ((ray.drop 4).take 3), scaledAll (mat.take 12) with
  | some o, some d, some m =>
    let row (k : Nat) : List Int := (m.drop (4 * k)).take 3
    let no := (List.range 3).map (fun k => roundRat (dot3 (row k) o + tget 0 m (4 * k + 3) * 2 ^ 149) (2 ^ 298))
    let nd := (List.range 3).map (fun k => roundRat (dot3 (row k) d) (2 ^ 298))
    (match scaledAll no, scaledAll nd with
     | some _, some dd => if dd.all (· == 0) then none else some (no ++ [tget 0 ray 3] ++ nd ++ [tget 0 ray 7])
     | _, _ => none)
  | _, _, _ => none

/-- A ray that ends before any visit (R239): INVALID, or MISS with TMIN above TMAX. -/
def rayEndsAtOnce (ray : List W32) : Option Nat :=
  match scaledAll (ray.take 3), scaledAll ((ray.drop 4).take 3), extended (tget 0 ray 3), extended (tget 0 ray 7) with
  | some _, some d, some near, some far => if d.all (· == 0) then some 2 else if near.le far then none else some 0
  | _, _, _, _ => some 2

/-- A key (T, PRIM, INST) below another (R240). -/
def Hit.below (a b : Hit) : Bool :=
  let x := fF32.val a.t.toNat
  let y := fF32.val b.t.toNat
  x.lt y || (!y.lt x && (decide (a.prim < b.prim) || (a.prim == b.prim && decide (a.inst < b.inst))))

/-! Triangle coverage (R245). -/

/-- An edge as its dX, dY and first vertex, and whether a pixel on it is inside. -/
structure Edge where
  (dx dy x y : Int)
  onEdge : Bool

/-- The edge from one vertex to another. -/
def edgeOf (a b : Int × Int) : Edge :=
  let dx := b.1 - a.1
  let dy := b.2 - a.2
  { dx := dx, dy := dy, x := a.1, y := a.2, onEdge := decide (dy < 0) || (dy == 0 && decide (0 < dx)) }

/-- A pixel centre lies inside an edge. -/
def Edge.inside (e : Edge) (px py : Int) : Bool :=
  let v := e.dx * (py - e.y) - e.dy * (px - e.x)
  decide (0 < v) || (v == 0 && e.onEdge)

/-- The edges of a triangle, its vertices in positive order; none where it covers nothing. -/
def coverEdges (x0 y0 x1 y1 x2 y2 : W32) (cull : Nat) : List Edge :=
  match scaledAll [x0, y0, x1, y1, x2, y2] with
  | some [a, b, c, d, e, f] =>
    let area := (c - a) * (f - b) - (e - a) * (d - b)
    if area = 0 ∨ (cull = 1 ∧ area < 0) ∨ (cull = 2 ∧ 0 < area) then []
    else
      let p := (a, b)
      let (q, r) := if area < 0 then ((e, f), (c, d)) else ((c, d), (e, f))
      [edgeOf p q, edgeOf q r, edgeOf r p]
  | _ => []

/-- Row `y` of a tile at a tile column and row, as 16 bits. -/
def coverRow (edges : List Edge) (col row y : Nat) : Nat :=
  if edges.isEmpty then 0
  else (List.range 16).foldl (fun n x =>
    let px : Int := ((2 * (16 * col + x) + 1 : Nat) : Int) * 2 ^ 148
    let py : Int := ((2 * (16 * row + y) + 1 : Nat) : Int) * 2 ^ 148
    if edges.all (fun e => e.inside px py) then n + 2 ^ x else n) 0

end Sys2Proof.Machine
end

