-- ==== Sys2Proof/Machine/Rays.lean ====
section
/-! DEFINITION. `trace` and `rast`, the traversal of rays, and the records by which units share a ray (R235 to R245, R366,
R385 to R388). -/

namespace Sys2Proof.Machine

/-! Issue (R235, R238, R245). -/

/-- A ray of a `trace` before its unit has begun it. -/
def newRay (g : Gang) (m l : Nat) : Ray :=
  { lane := l, world := (List.range 8).map (fun j => g.lane? (8 * m + j) l), inner := none, scene := none, work := [], best := none,
    visits := 0, drop := 0, code := 0, term := false, wait := .run, generation := g.generation,
    origin := { g.origin l with coherence := 0, chain := [] }, ident := g.ident }

/-- What `trace` names (R235, R238). -/
def traceUses (o : OpCNGK) (s : State) (g : Gang) (i : Issue) : Uses :=
  let a := g.readS i.slotB o.k.toNat
  { Uses.vec (vtRegs o.g.toNat ++ [.s o.k.toNat]) with
    named := vtRegs o.n.toNat
    noUnit := s.pkg.mini
    misaligned := decide (a.toNat % 64 ≠ 0)
    site := (.engRead, a.toNat) }

/-- Sends a command to the intersection unit and releases its tile (R175, R238, R245). -/
def sendTile (s : State) (i : Issue) (x : Gang) (n : Nat) (c : Command) : State :=
  let s1 := retire { s with serial := s.serial + 1, cmds := s.cmds ++ [(s.serial, { c with slot := some n })] } i (landTile x n)
  releaseTile s1 i.id x (.reg, n)

/-- `trace vtn, vm, sk` (R238). -/
def execTrace (g : Grp) (o : OpCNGK) (s : State) : Outcome :=
  issue g (traceUses o)
    (fun s x i =>
      let a := x.readS i.slotB o.k.toNat
      if bits a 63 57 ≠ 0 then
        raiseFault s i.id i.slotB i.pc .xlatPerm { FaultInfo.plain with kind := .engRead, va := a.toNat } i.pos false
      else
        sendTile s i x o.n.toNat { newCommand s x i .trace [a] with
          rays := (lanesOf (partMask x i g)).map (newRay x o.g.toNat) }) s

/-- What `rast` names, and the grounds for `ILLEGAL_OP` of its record (R245). -/
def rastUses (o : OpCNA) (s : State) (g : Gang) (i : Issue) : Uses :=
  let c := newCommand s g i .rast (recordBlock o.a g i)
  let u := blockUses o.a
  { u with
    named := vtRegs o.n.toNat
    noUnit := s.pkg.mini
    illegal := u.illegal || decide (56 < o.a.toNat)
    illegalState := !u.misaligned && (decide (c.field 3 63 32 ≠ 0) || decide (c.field 4 63 2 ≠ 0)
      || decide (c.field 4 1 0 = 3) || [5, 6, 7].any (fun j => decide (c.word j ≠ 0))) }

/-- `rast vtn, sa` (R245). -/
def execRast (g : Grp) (o : OpCNA) (s : State) : Outcome :=
  issue g (rastUses o)
    (fun s x i => sendTile s i x o.n.toNat (newCommand s x i .rast (recordBlock o.a x i))) s

/-- The tile of a `trace` or `rast` is written and returned to the threads (R31, R238). -/
def returnTile (s : State) (c : Command) (f : Gang → Gang) : State :=
  match c.gang with
  | some id => flipRegTile (s.modGang id f) id (c.slot.getD 0)
  | none => s

/-- The row pairs that `rast` writes for a register (R245). -/
def coverWords (c : Command) (r : Nat) : List W32 :=
  let lo (j : Nat) : W32 := w32 (c.field j 31 0)
  let hi (j : Nat) : W32 := w32 (c.field j 63 32)
  let edges := coverEdges (lo 0) (hi 0) (lo 1) (hi 1) (lo 2) (hi 2) (c.field 4 1 0)
  (List.range 32).map (fun l =>
    let col := c.field 3 15 0 + l % 8
    let row := c.field 3 31 16 + l / 8
    w32 (coverRow edges col row (2 * r) + coverRow edges col row (2 * r + 1) * 65536))

/-- A command of an intersection unit that may act. -/
def unitCommand (s : State) (n : Nat) (k : CmdKind) : Option Command :=
  match aget s.cmds n with | some c => if c.kind == k && commandLive s c then some c else none | none => none

/-- `RAST_COMPLETION`: the coverage of all 32 tiles, and the owner flip (R245). -/
def execRastCompletion (command : Nat) (s : State) : Outcome :=
  match unitCommand s command .rast with
  | none => .next s
  | some c =>
    .next ((returnTile s c (fun g => (List.range 8).foldl (fun g r =>
      g.writeV (8 * c.slot.getD 0 + r) 0xFFFFFFFF (coverWords c r)) g)).dropCmd command)

/-! Traversal (R237, R239, R240). -/

/-- Where a traversal runs: whose accesses, the scene, the budget, this unit and the ray's home as package × 4 + die, and
the launch's role count and registers of a role (R237, R386). -/
structure RayPlace where
  who : Access.Who
  scene : Nat
  budget : Nat
  unit : Nat
  home : Nat
  roleOk : Nat → Bool

/-- What stops a traversal. -/
inductive RayEvent where
  | ended (code : Nat)
  | fault (e : EngFault) (va : Nat)
  | hit (h : Hit)
  | away (unit node : Nat)

/-- The 32-bit words of bytes. -/
def wordsOf (bs : List Byte) (n : Nat) : List W32 := (List.range n).map (fun j => w32 (ofBytes ((bs.drop (4 * j)).take 4)))

/-- Reads a scene descriptor: none if it is malformed (R237), as with nonzero bits [63:57] of AHIT (notes/assumptions/101.md). -/
def readScene (s : State) (p : RayPlace) : State × Except EngFault (Option Scene) :=
  match engRead s p.who p.scene 64 with
  | (s1, .error e) => (s1, .error e)
  | (s1, .ok bs) =>
    let d (k : Nat) : Nat := ofBytes ((bs.drop (8 * k)).take 8)
    let ahit := d 6
    let bad := decide (d 3 / 2 ^ 32 ≠ 0) || decide (d 5 / 2 ^ 32 ≠ 0) || decide (d 6 / 2 ^ 57 ≠ 0) || decide (1 < d 7)
      || decide (d 0 % 128 ≠ 0) || decide (d 2 % 16 ≠ 0) || decide (d 4 % 64 ≠ 0) || decide (d 1 % 2 ^ 32 ≤ d 1 / 2 ^ 32)
      || (decide (ahit ≠ 0) && !p.roleOk (ahit % 4))
    (s1, .ok (if bad then none else some
      { nodes := d 0, ncount := d 1 % 2 ^ 32, root := d 1 / 2 ^ 32, tris := d 2, tcount := d 3, insts := d 4, icount := d 5,
        ahit := ahit, first := decide (d 7 = 1) }))

/-- The owner of a node by the ownership table of a partition's octet (R385): `k` entries are left from entry `j`. -/
def ownerFrom (s : State) (p : RayPlace) (base node : Nat) (cfg : W64) : (k j : Nat) → State × Except (EngFault × Nat) Nat
  | 0, _ => (s, .ok p.home)
  | k + 1, j =>
    match engReadMany s p.who (base + 32 * j) 16 2 with
    | (s1, .error e) => (s1, .error e)
    | (s1, .ok bs) =>
      let d (m : Nat) : Nat := ofBytes ((bs.drop (8 * m)).take 8)
      if d 2 / 2 ^ 63 = 1 ∧ d 0 % 2 ^ 57 = p.scene ∧ d 1 % 2 ^ 32 ≤ node ∧ node < d 1 / 2 ^ 32 then
        let m := d 2 % 8
        (s1, .ok (bits cfg (21 + 6 * m) (16 + 6 * m) * 4 + d 2 / 16 % 4))
      else ownerFrom s1 p base node cfg k (j + 1)

/-- The unit that visits a node (R385). -/
def ownerOf (s : State) (p : RayPlace) (node : Nat) : State × Except (EngFault × Nat) Nat :=
  let x := s.part p.who.part
  if bit x.octCfg 0 then ownerFrom s p (bits x.octTown 56 12 * 4096) node x.octCfg (bits x.octTown 11 0) 0 else (s, .ok p.home)

/-- The words of the ray where its work lies: an instance's space, or the world. -/
def Ray.words (r : Ray) (inside : Bool) : List W32 := match inside, r.inner with | true, some (w, _, _) => w | _, _ => r.world

/-- The closest distance so far, or TMAX (R239). -/
def Ray.limit (r : Ray) : W32 := match r.best with | some h => h.t | none => tget 0 r.world 7

/-- Children of a node that the ray hits, as work in visit order (R239): ascending entry distance, then slot. -/
def hitChildren (r : Ray) (inside : Bool) (node : List W32) : List RayWork :=
  let ray := r.words inside
  let kids := (List.range 4).filterMap (fun c =>
    let box := (node.drop (6 * c)).take 6
    let word : W32 := tget 0 node (24 + c)
    if bits word 31 30 = 0 then none
    else (boxEntry ray box r.limit).map (fun e => (e, c, RayWork.child word box inside)))
  (sortBy (fun (a b : Ext × Nat × RayWork) => (a.1.le b.1 && !b.1.le a.1) || (a.1.le b.1 && decide (a.2.1 < b.2.1))) kids).map (·.2.2)

/-- A traversal reaches a node, the first of its pending work (R239, R385): a unit elsewhere owns it, or it is visited. -/
def visitNode (s : State) (p : RayPlace) (d : Scene) (r : Ray) (n : Nat) (inside : Bool) : State × Ray × Option RayEvent :=
  let r0 : Ray := { r with work := r.work.drop 1 }
  if d.ncount ≤ n then (s, r0, some (.ended 3))
  else match ownerOf s p n with
    | (s1, .error (e, va)) => (s1, r, some (.fault e va))
    | (s1, .ok u) =>
      if u ≠ p.unit then (s1, r, some (.away u n))
      else if p.budget ≤ r.visits then (s1, r0, some (.ended 4))
      else match engReadMany s1 p.who (d.nodes + 128 * n) 16 8 with
        | (s2, .error (e, va)) => (s2, r, some (.fault e va))
        | (s2, .ok bs) => (s2, { r0 with visits := r.visits + 1, work := hitChildren r inside (wordsOf bs 28) ++ r0.work }, none)

/-- A traversal enters an instance (R239): its ROOT comes first among the pending work. -/
def enterInstance (s : State) (p : RayPlace) (d : Scene) (r : Ray) (n : Nat) : State × Ray × Option RayEvent :=
  let r0 : Ray := { r with work := r.work.drop 1 }
  match engReadMany s p.who (d.insts + 64 * n) 16 4 with
  | (s1, .error (e, va)) => (s1, r, some (.fault e va))
  | (s1, .ok bs) =>
    let ws := wordsOf bs 14
    (match instanceRay r.world ws with
     | none => (s1, r0, none)
     | some w => (s1, { r0 with inner := some (w, tget 0 ws 13, n), work := .root (tget (0 : W32) ws 12).toNat true :: r0.work }, none))

/-- One piece of a traversal: the first pending work. -/
def rayStep (s : State) (p : RayPlace) (d : Scene) (r : Ray) : State × Ray × Option RayEvent :=
  match r.work with
  | [] => (s, r, some (.ended (if r.best.isSome then 1 else 0)))
  | .root n inside :: _ => visitNode s p d r n inside
  | .child word box inside :: rest =>
    let r0 : Ray := { r with work := rest }
    let n := bits word 29 0
    if (boxEntry (r.words inside) box r.limit).isNone then (s, r0, none)
    else match bits word 31 30 with
    | 1 => visitNode s p d r n inside
    | 2 =>
      if p.budget ≤ r.visits then (s, r0, some (.ended 4))
      else (s, { r0 with visits := r.visits + 1, work := .tris (bits word 29 4) (bits word 29 4 + bits word 3 0) inside :: rest }, none)
    | _ => if inside || decide (d.icount ≤ n) then (s, r0, some (.ended 3)) else enterInstance s p d r n
  | .tris next last inside :: rest =>
    if last < next then (s, { r with work := rest }, none)
    else if d.tcount ≤ next then (s, { r with work := rest }, some (.ended 3))
    else match engReadMany s p.who (d.tris + 48 * next) 16 3 with
      | (s1, .error (e, va)) => (s1, r, some (.fault e va))
      | (s1, .ok bs) =>
        let ws := wordsOf bs 10
        let r1 : Ray := { r with work := .tris (next + 1) last inside :: rest }
        (match triangleHit (r.words inside) ws with
         | none => (s1, r1, none)
         | some (t, u, v) =>
           let h : Hit := { t := t, prim := tget 0 ws 9, inst := (match inside, r.inner with | true, some (_, id, _) => id | _, _ => 0xFFFFFFFF),
                            u := u, v := v, w0 := 0, w1 := 0 }
           if (match r.best with | some b => !h.below b | none => false) then (s1, r1, none)
           else if d.ahit ≠ 0 then (s1, r1, some (.hit h))
           else (s1, { r1 with best := some h }, if d.first then some (.ended 1) else none))

/-- The first pending work lies inside an instance. -/
def Ray.inside (r : Ray) : Bool := match r.work with | .child _ _ b :: _ => b | .root _ b :: _ => b | _ => false

/-- A traversal runs until something stops it; `fuel` bounds its pieces. -/
def rayRun (p : RayPlace) (d : Scene) : (fuel : Nat) → State → Ray → State × Ray × RayEvent
  | 0, s, r => (s, r, .ended 4)
  | fuel + 1, s, r =>
    match rayStep s p d r with
    | (s1, r1, some e) => (s1, r1, e)
    | (s1, r1, none) => rayRun p d fuel s1 r1

/-- Pieces that a budget of visits allows. -/
def rayFuel (budget : Nat) : Nat := 32 * (budget + 2)

/-- FIRST of the ray's scene (R240). -/
def Ray.first (r : Ray) : Bool := match r.scene with | some d => d.first | none => false

/-- An answer to a ray's candidate (R240, R241); the ray runs on, or ends. -/
def Ray.answer (r : Ray) (h : Hit) (code : Nat) (w0 w1 : W32) : Ray :=
  let r1 := if code = 0 ∨ code = 2 then { r with best := some { h with w0 := w0, w1 := w1 } } else r
  let stops := decide (2 ≤ code) || (r.first && decide (code = 0))
  { r1 with
    term := r.term || decide (2 ≤ code)
    wait := if stops then .ended else .run
    code := if stops then (if r1.best.isSome then 1 else 0) else r.code }

/-! Ray records (R387). -/

/-- Two words as a dword. -/
def pairW (lo hi : W32) : W64 := hi ++ lo
/-- Word `k` of a record's 32-bit words. -/
def recWord (ws : List W64) (k : Nat) : W32 := w32 (bits (tget 0 ws (k / 2)) (32 * (k % 2) + 31) (32 * (k % 2)))

/-- A delegation record (R387). -/
def delegationWords (p : RayPlace) (r : Ray) (node : Nat) (inside : Bool) (ret : W32) : List W64 :=
  let w := r.words inside
  let x (k : Nat) : W32 := if k = 7 then r.limit else tget 0 w k
  let (prim, inst) : W32 × W32 := match r.best with | some h => (h.prim, h.inst) | none => (0xFFFFFFFF, 0xFFFFFFFF)
  let cur : W32 := match inside, r.inner with | true, some (_, _, n) => w32 n | _, _ => 0xFFFFFFFF
  [ pairW (x 0) (x 1), pairW (x 2) (x 3), pairW (x 4) (x 5), pairW (x 6) (x 7), pairW (w32 node) prim,
    pairW inst (w32 (r.visits % 65536 + p.budget % 65536 * 65536)), w64 (p.scene / 64 % 2 ^ 51 + r.generation % 16 * 2 ^ 51), pairW cur ret ]

/-- An answer record (R387); `cls` is the class of a failure, in bits the layout leaves free. -/
def answerWords (h : Option Hit) (visits code cls : Nat) (ret : W32) : List W64 :=
  let h := h.getD { t := 0x7F800000, prim := 0xFFFFFFFF, inst := 0xFFFFFFFF, u := 0, v := 0, w0 := 0, w1 := 0 }
  [ pairW h.t h.prim, pairW h.inst h.u, pairW h.v h.w0, pairW h.w1 0,
    pairW (w32 (visits % 65536 + code * 2 ^ 16 + cls * 2 ^ 24)) 0, 0, 0, pairW 0 ret ]

/-- A candidate record (R387). -/
def candidateWords (h : Hit) (limit ret : W32) : List W64 :=
  [ pairW h.t h.prim, pairW h.inst h.u, pairW h.v limit, 0, 0, 0, 0, pairW 0 ret ]

/-- The record that answers a candidate (R387). -/
def verdictWords (code : Nat) (w0 w1 ret : W32) : List W64 := [pairW (w32 code) w0, pairW w1 ret]

/-- The hit that a record's first words hold. -/
def recHit (ws : List W64) : Hit :=
  { t := recWord ws 0, prim := recWord ws 1, inst := recWord ws 2, u := recWord ws 3, v := recWord ws 4, w0 := 0, w1 := 0 }

/-- Sends a ray record, in class 1 where its unit is another package's (R382). -/
def State.sendRay (s : State) (kind source dest : Nat) (ws : List W64) : State :=
  let s1 := { s with pkg := { s.pkg with rayOut := s.pkg.rayOut ++ [{ kind := kind, source := source, dest := dest, words := ws }] } }
  if dest / 4 = s.pkg.number then s1 else s1.linkSend (dest / 4) (dest % 4) 1

/-- A record arrives: one that a unit of this package sent must be the first on its way between the two dies, and is taken off it
(R373). -/
def takeRay (s : State) (kind source dest : Nat) (ws : List W64) : Option State :=
  let x : RayRecord := { kind := kind, source := source, dest := dest, words := ws }
  if source / 4 ≠ s.pkg.number then some s
  else if s.pkg.rayOut.find? (fun y => decide (y.source = source) && decide (y.dest = dest)) == some x then
    some { s with pkg := { s.pkg with rayOut := s.pkg.rayOut.erase x } }
  else none

/-! Rays at their home (R238, R366). -/

/-- Where a command's rays run. -/
def homePlace (s : State) (c : Command) : RayPlace :=
  let l := s.launch? c.launch
  let unit := s.pkg.number * 4 + c.die
  let budget := match l with | some l => bits (l.word 1) 55 40 | none => 0
  { who := c.who, scene := bits (c.word 0) 56 0, budget := if budget = 0 then 4096 else budget, unit := unit, home := unit,
    roleOk := fun k => match l with | some l => decide (k ≤ l.nrole) && decide (2 ≤ l.regsOf k) | none => false }

/-- RETURN of a ray (R387): package, die, quad, lane and the command's tag. -/
def returnOf (s : State) (n : Nat) (c : Command) (lane : Nat) : W32 :=
  w32 (s.pkg.number % 64 + c.die * 2 ^ 6 + c.core % 40 / 4 * 2 ^ 8 + lane * 2 ^ 12 + n % 2 ^ 15 * 2 ^ 17)

/-- The STATUS word of a hit record (R236). -/
def Ray.status (r : Ray) (code : Nat) : W32 :=
  w32 (code + r.term.toNat * 16 + r.generation % 16 * 2 ^ 8 + min 255 r.drop * 2 ^ 12 + min 4095 r.visits * 2 ^ 20)

/-- A hit record's eight words (R236). -/
def Ray.record (r : Ray) (h : Option Hit) (code : Nat) : List W32 :=
  match h with
  | some h => [h.t, h.prim, h.inst, h.u, h.v, r.status code, h.w0, h.w1]
  | none => [0x7F800000, 0xFFFFFFFF, 0xFFFFFFFF, 0, 0, r.status code, 0, 0]

/-- The item of a candidate that awaits an any-hit task (R240, R269). -/
def hitItem (n : Nat) (c : Command) (ahit : Nat) (r : Ray) (h : Hit) (limit : W32) : Item :=
  { launch := c.launch, part := c.part, aspace := c.aspace, kind := .anyHit, entry := w64 (ahit % 2 ^ 57 / 4 * 4), role := ahit % 4,
    generation := r.generation, origin := r.origin, ident := r.ident,
    regs := r.world.take 7 ++ [limit] ++ r.record (some h) 1, ray := some (n, r.lane) }

/-- An item reaches the regrouping unit of a die. -/
def queueItem (s : State) (die : Nat) (x : Item) : State :=
  let d := s.die die
  let s1 := s.setDie die { d with items := d.items ++ [x] }
  s1.modLaunch x.launch (fun l => let k := l.instOf (coresOf s x.part) x.ident.crew
    if l.created.contains k then l else { l with created := l.created ++ [k] })

/-- A ray's fault (R215, R345): a miss parks it with a record; a fault that ends the context is fatal. -/
def rayFault (s : State) (n : Nat) (c : Command) (r : Ray) (e : EngFault) (va : Nat) : State × Ray :=
  let s1 := noteFault s c.part c.aspace (.command n) e
  let fatal (cls : FaultClass) (kind : AccessKind) (detail : Nat) : State × Ray :=
    let words := commandRecord s1 c cls kind va detail false
    (queueCause (postRecord s1 c.part c.die { owner := .none, aspace := c.aspace, cls := cls, words := words, task := c.gang }) c.part
      { cls := cls, aspace := c.aspace, words := words, gang := none }, { r with wait := .lost })
  match e with
  | .miss failed =>
    let words := commandRecord s1 c .xlatMiss .engRead va 0 failed.isSome
    (postRecord s1 c.part c.die { owner := .ray n r.lane, aspace := c.aspace, cls := .xlatMiss, words := words, task := c.gang }, { r with wait := .park })
  | .wait _ _ _ | .training => (s1, r)
  | .perm => fatal .xlatPerm .engRead 0
  | .refused => fatal .xlatPerm .engRead 0
  | .lost pa => fatal .eccUncorr .engRead pa
  | .ecc key => fatal .eccUncorr .engRead (homePA c.part key / 32 * 32)
  | .walk key => fatal .eccUncorr .walk (homePA c.part key / 32 * 32)
  | _ => (s1, { r with wait := .lost })

/-- What a home does with the event that stopped a ray. -/
def homeEvent (s : State) (n : Nat) (c : Command) (p : RayPlace) (ahit : Nat) (r : Ray) : RayEvent → State × Ray
  | .ended code => (s, { r with wait := .ended, code := code })
  | .fault e va => rayFault s n c r e va
  | .hit h => (queueItem s c.die (hitItem n c ahit r h r.limit), { r with wait := .hit h })
  | .away u node =>
    (s.sendRay 0 p.unit u (delegationWords p r node r.inside (returnOf s n c r.lane)), { r with wait := .away u, work := r.work.drop 1 })

/-- A ray begun at the scene's root (R239). -/
def Ray.start (r : Ray) (d : Scene) : Ray := { r with scene := some d, work := [.root d.root false] }

/-- A home runs one of its rays as far as it goes. -/
def homeRun (s : State) (n : Nat) (c : Command) (r : Ray) : State × Ray :=
  let p := homePlace s c
  let go (s : State) (d : Scene) (r : Ray) : State × Ray :=
    match rayRun p d (rayFuel p.budget) s r with | (s2, r2, e) => homeEvent s2 n c p d.ahit r2 e
  match r.wait, r.scene with
  | .run, some d => go s d r
  | .run, none =>
    (match rayEndsAtOnce r.world with
     | some code => (s, { r with wait := .ended, code := code })
     | none => match readScene s p with
       | (s1, .error e) => rayFault s1 n c r e p.scene
       | (s1, .ok none) => (s1, { r with wait := .ended, code := 3 })
       | (s1, .ok (some d)) => go s1 d (r.start d))
  | .remote h limit u delegate false, some d => (queueItem s c.die (hitItem n c d.ahit r h limit), { r with wait := .remote h limit u delegate true })
  | _, _ => (s, r)

/-- A home runs its rays in order. -/
def homeRuns (n : Nat) (c : Command) : State → List Ray → State × List Ray
  | s, [] => (s, [])
  | s, r :: rest =>
    let (s1, r1) := homeRun s n c r
    let (s2, rs) := homeRuns n c s1 rest
    (s2, r1 :: rs)

/-- An answer of an any-hit task reaches its ray (R241, R242, R366). -/
def takeAnswer (s : State) (n : Nat) (c : Command) (r : Ray) (code : Nat) (w0 w1 : W32) : State × Ray :=
  if code = 4 then (s, { r with drop := r.drop + 1 })
  else match r.wait with
    | .hit h => (s, r.answer h code w0 w1)
    | .remote _ _ u delegate true =>
      let unit := s.pkg.number * 4 + c.die
      (s.sendRay 3 unit u (verdictWords code w0 w1 (returnOf s n c r.lane)), { r with wait := .away delegate })
    | _ => (s, r)

/-- Answers reach the rays of a command, in order. -/
def takeAnswers (n : Nat) (c : Command) : List ((Nat × Nat) × Nat × W32 × W32) → State → List Ray → State × List Ray
  | [], s, rs => (s, rs)
  | ((m, lane), code, w0, w1) :: rest, s, rs =>
    if m = n then
      (match rs.find? (fun r => decide (r.lane = lane)) with
       | some r =>
         let (s1, r1) := takeAnswer s n c r code w0 w1
         takeAnswers n c rest s1 (rs.map (fun x => if x.lane = lane then r1 else x))
       | none => takeAnswers n c rest s rs)
    else takeAnswers n c rest s rs

/-- The hit records of a command's rays are written (R236, R238). -/
def writeHits (n : Nat) (rays : List Ray) (g : Gang) : Gang :=
  rays.foldl (fun g r => ((r.record r.best r.code).zipIdx).foldl (fun g (w, j) =>
    g.writeV (8 * n + j) (BitVec.twoPow 32 r.lane) ((List.range 32).map (fun _ => w))) g) g

/-- `TRACE_COMPLETION`: the unit carries the rays of a command on; when every ray has ended it writes their hit records and
flips the tile (R238). -/
def execTraceCompletion (command : Nat) (s : State) : Outcome :=
  match unitCommand s command .trace with
  | none => .next s
  | some c =>
    if (s.ctx (spaceKey c.part c.aspace)).torn then .next (s.dropCmd command)
    else
      let (s1, rays1) := takeAnswers command c s.answers s c.rays
      let s2 := { s1 with answers := s1.answers.filter (fun a => decide (a.1.1 ≠ command)) }
      let (s3, rays2) := homeRuns command c s2 rays1
      let c1 := { c with started := true, rays := rays2 }
      if rays2.all (fun r => r.wait == .ended) then .next ((returnTile s3 c1 (writeHits (c.slot.getD 0) rays2)).dropCmd command)
      else .next (s3.setCmd command c1)

/-! Units that serve rays of others (R386 to R388). -/

/-- Where a guest runs: in the serving address space. -/
def guestPlace (s : State) (g : RayGuest) : RayPlace :=
  { who := { part := g.part, aspace := bits (s.part g.part).octCfg 15 8, die := g.die, windows := false, asker := .guest g.num }, scene := g.scene, budget := g.budget,
    unit := s.pkg.number * 4 + g.die, home := bits g.ret 5 0 * 4 + bits g.ret 7 6, roleOk := fun _ => true }

/-- The record of a fault of a ray queue, in the serving context (R388). -/
def guestRecord (aspace die : Nat) (cls : FaultClass) (va detail : Nat) (host : Bool) : List W64 :=
  [ w64 (cls.code + AccessKind.engRead.code * 2 ^ 8 + aspace * 2 ^ 16 + die * 2 ^ 24 + 2 ^ 40 + host.toNat * 2 ^ 41), 0, w64 va, 0, 0,
    w64 (4 * 2 ^ 16), w64 detail ]

/-- A guest's traversal has ended: the unit that delegated it is answered (R386, R387). -/
def guestAnswer (s : State) (n : Nat) (g : RayGuest) (r : Ray) (code cls : Nat) : State :=
  let best := if r.best == g.given then none else r.best
  let s1 := s.sendRay 1 (s.pkg.number * 4 + g.die) g.source (answerWords best r.visits code cls g.ret)
  { s1 with pkg := { s1.pkg with guests := adel s1.pkg.guests n } }

/-- A guest replaced. -/
def State.setGuest (s : State) (n : Nat) (g : RayGuest) : State := { s with pkg := { s.pkg with guests := aput s.pkg.guests n g } }

/-- The closest key a guest was given: its hit data stay where the ray came from. -/
def givenHit (ws : List W64) : Option Hit :=
  if recWord ws 9 = 0xFFFFFFFF ∧ recWord ws 10 = 0xFFFFFFFF then none
  else some { t := recWord ws 7, prim := recWord ws 9, inst := recWord ws 10, u := 0, v := 0, w0 := 0, w1 := 0 }

/-- What a unit does with the event that stopped a guest (R386 to R388). -/
def guestEvent (s : State) (n : Nat) (g : RayGuest) (p : RayPlace) (r : Ray) : RayEvent → State
  | .ended code => guestAnswer s n g r (if code = 3 ∨ code = 4 then code else if r.term then 5 else 0) 0
  | .hit h => (s.sendRay 2 p.unit (bits g.ret 5 0 * 4 + bits g.ret 7 6) (candidateWords h r.limit g.ret)).setGuest n
      { g with ray := { r with wait := .hit h } }
  | .away u node =>
    (s.sendRay 0 p.unit u (delegationWords p r node r.inside g.ret)).setGuest n { g with ray := { r with wait := .away u, work := r.work.drop 1 } }
  | .fault e va =>
    let s1 := noteFault s g.part p.who.aspace (.guest n) e
    match e with
    | .miss failed =>
      let words := guestRecord p.who.aspace g.die .xlatMiss va 0 failed.isSome
      (postRecord s1 g.part g.die { owner := .guest n, aspace := p.who.aspace, cls := .xlatMiss, words := words }).setGuest n { g with ray := { r with wait := .park } }
    | .wait _ _ _ | .training => s1.setGuest n { g with ray := r }
    | .ecc _ | .walk _ | .lost _ => guestAnswer s1 n g r 6 FaultClass.eccUncorr.code
    | _ => guestAnswer s1 n g r 6 FaultClass.xlatPerm.code

/-- The instance a guest's ray is in: its id, read as the traversal starts. -/
def guestInner (s : State) (p : RayPlace) (d : Scene) (r : Ray) : State × Except (EngFault × Nat) Ray :=
  match r.inner with
  | some (w, _, k) =>
    if d.icount ≤ k then (s, .ok r)
    else (match engReadMany s p.who (d.insts + 64 * k) 16 4 with
      | (s1, .error e) => (s1, .error e)
      | (s1, .ok bs) => (s1, .ok { r with inner := some (w, tget 0 (wordsOf bs 14) 13, k) }))
  | none => (s, .ok r)

/-- A unit runs a guest as far as it goes (R386). -/
def guestRun (s : State) (n : Nat) (g : RayGuest) : State :=
  let p := guestPlace s g
  let go (s : State) (d : Scene) (r : Ray) : State :=
    match rayRun p d (rayFuel p.budget) s r with | (s3, r3, e) => guestEvent s3 n g p r3 e
  match g.ray.wait, g.ray.scene with
  | .run, some d => go s d g.ray
  | .run, none =>
    (match readScene s p with
     | (s1, .error e) => guestEvent s1 n g p g.ray (.fault e p.scene)
     | (s1, .ok none) => guestEvent s1 n g p g.ray (.ended 3)
     | (s1, .ok (some d)) =>
       match guestInner s1 p d g.ray with
       | (s2, .error (e, va)) => guestEvent s2 n g p g.ray (.fault e va)
       | (s2, .ok r) => go s2 d { r with scene := some d })
  | .ended, _ => guestEvent s n g p g.ray (.ended g.ray.code)
  | _, _ => s

/-- A delegation record as a guest (R387). -/
def guestOf (part die source : Nat) (ws : List W64) : RayGuest :=
  let ray := (List.range 8).map (recWord ws)
  let cur := recWord ws 14
  let w6 := tget (0 : W64) ws 6
  { part := part, die := die, source := source, ret := recWord ws 15, scene := bits w6 50 0 * 64, budget := bits (recWord ws 11) 31 16, given := givenHit ws,
    ray := { lane := bits (recWord ws 15) 16 12, world := ray, inner := if cur = 0xFFFFFFFF then none else some (ray, 0, cur.toNat), scene := none,
             work := [.root (recWord ws 8).toNat (cur ≠ 0xFFFFFFFF)], best := givenHit ws,
             visits := bits (recWord ws 11) 15 0, drop := 0, code := 0, term := false, wait := .run, generation := bits w6 54 51,
             origin := { key := [], lane := 0, coherence := 0, chain := [] },
             ident := { crew := 0, idCore := 0, gangIndex := 0, idSlot := 0 } } }

/-- `RAY_DELEGATION_RECORD`: a unit takes a delegated ray; a full queue and a full region leave it with its sender,
which waits, one record being written for it (R386, R388; notes/assumptions/105.md). A part without intersection units receives none (R421). -/
def execRayDelegationRecord (part die source : Nat) (record : List W64) (s : State) : Outcome :=
  let aspace := bits (s.part part).octCfg 15 8
  let dest := s.pkg.number * 4 + die
  let x : RayRecord := { kind := 0, source := source, dest := dest, words := record }
  let room := regionBytes (s.ctx (spaceKey part aspace))
  let need := regionUse s part aspace none + 64
  if s.pkg.mini || (s.part part).asserted then .next s
  else match takeRay s 0 source dest record with
    | none => .next s
    | some s1 =>
      if 1024 ≤ (queuedRays s die).length ∧ room < need then
        if s.pkg.rayWaits.contains x then .next s
        else
          let words := guestRecord aspace die .spillExhausted 0 (need - room) false
          let s2 := postRecord s part die { owner := .none, aspace := aspace, cls := .spillExhausted, words := words }
          .next { s2 with pkg := { s2.pkg with rayWaits := s2.pkg.rayWaits ++ [x] } }
      else
        let g := { guestOf part die source record with num := s1.serial }
        let s2 := { s1 with pkg := { s1.pkg with rayWaits := s1.pkg.rayWaits.erase x } }
        .next (guestRun { s2.setGuest s2.serial g with serial := s2.serial + 1 } s2.serial g)

/-- The ray at its home that a RETURN names. -/
def returnRay (s : State) (ret : W32) : Option (Nat × Command × Ray) :=
  s.cmds.findSome? (fun (n, c) =>
    if c.kind == .trace && decide (n % 2 ^ 15 = bits ret 31 17) && decide (c.die = bits ret 7 6) then
      (c.rays.find? (fun r => decide (r.lane = bits ret 16 12))).map (fun r => (n, c, r))
    else none)

/-- A home ray replaced. -/
def setRay (s : State) (n : Nat) (c : Command) (r : Ray) : State :=
  s.setCmd n { c with rays := c.rays.map (fun x => if x.lane = r.lane then r else x) }

/-- A ray takes up an answer (R386): the returned hit and VISITS, and the end that the answer carries. -/
def Ray.takeUp (r : Ray) (ws : List W64)   : Ray :=
  let h := { recHit ws with w0 := recWord ws 5, w1 := recWord ws 6 }
  let found := h.prim != 0xFFFFFFFF || h.inst != 0xFFFFFFFF || h.t != 0x7F800000
  let r1 := { r with best := if found then some h else r.best, visits := bits (recWord ws 8) 15 0, wait := .run }
  let hitCode := if r1.best.isSome then 1 else 0
  match bits (recWord ws 8) 18 16 with
  | 3 => { r1 with wait := .ended, code := 3 }
  | 4 => { r1 with wait := .ended, code := 4 }
  | 5 => { r1 with wait := .ended, code := hitCode, term := true }
  | _ => if r.first && found then { r1 with wait := .ended, code := 1 } else r1

/-- An owner has failed: the home raises the class, fatally, in the tracing context (R388). -/
def homeFail (s : State) (n : Nat) (c : Command) (r : Ray) (cls : Nat) : State :=
  let e : EngFault := if cls = FaultClass.eccUncorr.code then .lost 0 else .perm
  match rayFault s n c r e (bits (c.word 0) 56 0) with | (s1, r1) => setRay s1 n c r1

/-- `RAY_ANSWER_RECORD`: the unit that delegated a node takes up the answer (R386), while its partition's
units run (R355); for a ray that is gone it is dropped (R388). -/
def execRayAnswerRecord (part source : Nat) (record : List W64) (s : State) : Outcome :=
  let ret := recWord record 15
  let fail := decide (bits (recWord record 8) 18 16 = 6)
  let cls := bits (recWord record 8) 28 24
  match s.pkg.guests.reverse.find? (fun g => g.2.ret == ret && decide (g.2.part = part) && g.2.ray.wait == .away source) with
  | some (n, g) =>
    if (s.part part).asserted then .next s
    else (match takeRay s 1 source (s.pkg.number * 4 + g.die) record with
     | none => .next s
     | some s1 =>
       if fail then .next (guestAnswer s1 n g g.ray 6 cls)
       else .next (guestRun s1 n { g with ray := g.ray.takeUp record }))
  | none =>
    match returnRay s ret with
    | some (n, c, r) =>
      if (s.part c.part).asserted then .next s
      else (match takeRay s 1 source (s.pkg.number * 4 + c.die) record with
       | none => .next s
       | some s1 =>
         if r.wait == .away source then
           .next (if fail then homeFail s1 n c r cls else setRay s1 n c (r.takeUp record))
         else .next s1)
    | none => .next ((takeRay s 1 source (s.pkg.number * 4 + bits ret 7 6) record).getD s)

/-- `RAY_CANDIDATE_RECORD`: a candidate that a unit working for one of this package's rays has found (R366, R386). -/
def execRayCandidateRecord (part source : Nat) (record : List W64) (s : State) : Outcome :=
  let ret := recWord record 15
  match takeRay s 2 source (s.pkg.number * 4 + bits ret 7 6) record with
  | none => .next s
  | some s1 =>
    match returnRay s1 ret with
    | some (n, c, r) =>
      (match r.wait with
       | .away delegate =>
         if (s.part c.part).asserted then .next s
         else if c.part = part then .next (setRay s1 n c { r with wait := .remote (recHit record) (recWord record 5) source delegate false }) else .next s1
       | _ => .next s1)
    | none => .next s1

/-- `CANDIDATE_ANSWER_RECORD`: the answer of an any-hit task reaches the unit that found the candidate (R366, R387). -/
def execCandidateAnswerRecord (part : Nat) (record : List W64) (s : State) : Outcome :=
  let ret := recWord record 3
  match s.pkg.guests.find? (fun g => g.2.ret == ret && decide (g.2.part = part) && (match g.2.ray.wait with | .hit _ => true | _ => false)) with
  | none => .next s
  | some (n, g) =>
    if (s.part part).asserted then .next s
    else match takeRay s 3 (bits ret 5 0 * 4 + bits ret 7 6) (s.pkg.number * 4 + g.die) record, g.ray.wait with
    | some s1, .hit h =>
      .next (guestRun s1 n { g with ray := g.ray.answer h (bits (recWord record 0) 1 0) (recWord record 1) (recWord record 2) })
    | _, _ => .next s

end Sys2Proof.Machine
end

