-- ==== Sys2Proof/Machine/Schedule.lean ====
section
/-! DEFINITION. Scheduling hints, and the arrivals of results and loads: R58, R63, R64, R161, R164, R271, R326, R375. -/

namespace Sys2Proof.Machine

/-- A scheduling hint: an issue unit that counts no instruction (R27, R58, R62). -/
def hint (f : Gang → Issue → Gang) (s : State) : Outcome :=
  issue (Grp.alone 0) (fun _ _ _ => Uses.of [])
    (fun s x i =>
      let sl := x.slot i.slotB
      let y := x.setSlot i.slotB { sl with
        pc := i.next, dist := i.nextDist, ready := i.cycle + 1, haz := sl.haz.filter (fun h => decide (i.nextDist < h.2)) }
      (s.setGang i.id (f y i)).issuedAt x i.cycle i.use) s

/-- The scheduling nop (R58). -/
def execHintNop (s : State) : Outcome := hint (fun g _ => g) s
/-- The yield hint: for the N ACLK after its own (R58). -/
def execHintYield (n : BitVec 8) (s : State) : Outcome :=
  hint (fun g i => g.setSlot i.slotB { g.slot i.slotB with yieldTo := max (g.slot i.slotB).yieldTo (i.cycle + n.toNat + 1) }) s
/-- The boost hint (R58). -/
def execHintBoost (n : BitVec 8) (s : State) : Outcome :=
  hint (fun g i => g.setSlot i.slotB { g.slot i.slotB with boost := if n = 0 then 0 else n.toNat + 1 }) s
/-- The slot-preference hint (R58). -/
def execHintSlot (slotB : Bool) (s : State) : Outcome := hint (fun g _ => { g with prefersB := some slotB }) s

/-- A slot of a gang changed, if there is one. -/
def modSlot (s : State) (id : Nat) (slotB : Bool) (f : Slot → Slot) : State :=
  s.modGang id (fun g => g.setSlot slotB (f (g.slot slotB)))

/-- `YIELD_EXPIRY`: the hint's cycles have passed (R58). -/
def execYieldExpiry (gang : Nat) (slotB : Bool) (s : State) : Outcome :=
  .next (s.modGang gang (fun g =>
    if (g.slot slotB).yieldTo ≤ (s.core g.core).cyc then g.setSlot slotB { g.slot slotB with yieldTo := 0 } else g))
/-- `BOOST_EXPIRY`: the count has run out (R58). -/
def execBoostExpiry (gang : Nat) (slotB : Bool) (s : State) : Outcome :=
  .next (modSlot s gang slotB (fun sl => if sl.boost = 1 then { sl with boost := 0 } else sl))
/-- The slot has been ready for 4,096 ACLK while one of its class that ranks lower issued (R271); the cycles of a squall do not count
(R356). -/
def slotAges (s : State) (g : Gang) (slotB : Bool) : Bool :=
  let sl := g.slot slotB
  ready s g slotB && sl.passed && !sl.aged && decide (sl.ready + 4096 ≤ (s.core g.core).cyc)

/-- `SLOT_AGED` (R271). -/
def execSlotAged (gang : Nat) (slotB : Bool) (s : State) : Outcome :=
  .next (match aget s.gangs gang with
    | some g => if slotAges s g slotB then s.setGang gang (g.setSlot slotB { g.slot slotB with aged := true }) else s
    | none => s)

/-- `RESULT_LANDING`: one result is written, once its latency has passed and unless an earlier result for the register is still to come
(R63, R64). -/
def execResultLanding (gang flight : Nat) (s : State) : Outcome :=
  .next (s.modGang gang (fun g =>
    match g.flight[flight]? with
    | some f =>
      if (s.core g.core).cyc < f.lands || g.flight.any (fun x => x.write.reg == f.write.reg && decide (x.lands < f.lands)) then g
      else ({ g with flight := g.flight.eraseIdx flight }).land f.slotB f.write
    | none => g))

/-- The gang with one outstanding load replaced or removed. -/
def Gang.setLoad (g : Gang) (index : Nat) (l : Option Load) : Gang :=
  { g with loads := match l with | some x => g.loads.set index x | none => g.loads.eraseIdx index }

/-- An outstanding access may be performed: no earlier one of its gang must come before it, and no port that it needs retrains (R299, R314,
R381). -/
def Gang.mayPerform (s : State) (g : Gang) (ld : Load) : Bool := !g.loads.any (g.blocks ld) && !ld.awaitsPort s

/-- `LOAD_RESPONSE`: an outstanding access is performed whole, a load's bytes from the L1 where it may take them (R161, R299). -/
def execLoadResponse (gang index : Nat) (fromL1 : Bool) (s : State) : Outcome :=
  .next (match aget s.gangs gang with
    | none => s
    | some g =>
      match g.loads[index]? with
      | some ld => if g.mayPerform s ld then performLoad (s.setGang gang (g.setLoad index none)) gang ld fromL1 else s
      | none => s)

/-- One access of an outstanding instruction is performed apart from the others: nothing orders the lanes of one instruction, but for scratchpad
stores to common bytes (R169, R297, R299). -/
def performLane (s : State) (gang index k : Nat) (fromL1 : Bool) : State :=
  match aget s.gangs gang with
  | none => s
  | some g =>
    match g.loads[index]? with
    | none => s
    | some ld =>
      match ld.accesses[k]? with
      | none => s
      | some a =>
        if g.mayPerform s { ld with accesses := [a] } && !(ld.isStore && (ld.accesses.take k).any (fun b => meets b.pa ld.size a.pa ld.size)) then
          let rest := ld.accesses.eraseIdx k
          performLoad (s.setGang gang (g.setLoad index (if rest.isEmpty then none else some { ld with accesses := rest }))) gang
            { ld with accesses := [a] } fromL1
        else s

/-- A load may go as gather packets: `vldg` from local HBM, and `vld.*.by` of local HBM of more than 8 lines (R164). -/
def Load.gathers (ld : Load) : Bool :=
  ld.atHome && !ld.onChip && ld.accesses.all (fun a => decide (aperture a.pa = 0)) &&
    (ld.kind == .vgather || (ld.kind == .vload && decide (8 < (dedup (ld.accesses.map (fun a => a.pa / 128))).length)))

/-- Lanes of a gather that one packet may carry beside a lane: its stack, within 2^32 − 1 bytes above the lowest lane
(R326). -/
def packetStack (s : State) (part : Nat) (a : Access) : Nat :=
  if aperture a.pa = 0 then homeStack (stackLog (s.part part).dies) a.pa else 16 + a.pa / 2 ^ 39

/-- The lanes of the packet that the lowest address of a stack begins: those of the stack within reach of it. -/
def packetFrom (s : State) (part : Nat) (as : List Access) (a : Access) : List Access :=
  let same := as.filter (fun x => decide (packetStack s part x = packetStack s part a))
  let base := same.foldl (fun m x => min m x.pa) a.pa
  same.filter (fun x => decide (x.pa - base < 2 ^ 32))

/-- The packets of a gather's lanes (R326); `fuel` bounds them by the lanes. -/
def packets (s : State) (part : Nat) : (fuel : Nat) → List Access → List (List Access)
  | 0, _ => []
  | _, [] => []
  | fuel + 1, a :: as =>
    let p := packetFrom s part (a :: as) a
    p :: packets s part fuel ((a :: as).filter (fun x => !p.contains x))

/-- The lanes of a packet that the expander of their stack serves are counted (R332; notes/assumptions/63.md); those of MS and NC pages are as they are
performed. -/
def countLanes (s : State) (part : Nat) (p : List Access) : State :=
  p.foldl (fun s a => if a.ms then s else countAccess s part a.pa) s

/-- `GATHER_PACKET`: one packet of an outstanding gather is served by the expander of its stack (R164, R299, R326). The lanes that the L2 serves are
performed by `LOAD_RESPONSE` or one by one. -/
def execGatherPacket (gang index packet : Nat) (s : State) : Outcome :=
  .next (match aget s.gangs gang with
    | none => s
    | some g =>
      match g.loads[index]? with
      | none => s
      | some ld =>
        match (packets s g.part 32 ld.accesses)[packet]? with
        | some p =>
          if ld.gathers && g.mayPerform s { ld with accesses := p } then
            let rest := ld.accesses.filter (fun a => !p.contains a)
            performLoad (countLanes (s.setGang gang (g.setLoad index (if rest.isEmpty then none else some { ld with accesses := rest }))) g.part p) gang
              { ld with accesses := p } false
          else s
        | none => s)

/-- The accesses of peer memory that a gang's outstanding loads make: the load's index, and the access. -/
def Gang.peerReads (g : Gang) : List (Nat × Access) :=
  g.loads.zipIdx.flatMap (fun (ld, j) => if ld.onChip then [] else (ld.accesses.filter (fun a => decide (aperture a.pa = 1))).map (fun a => (j, a)))

/-- The refusal of an access of an outstanding load: a fatal `XLAT_PERM` with its KIND, VA and lane (R375). -/
def refuseLoad (s : State) (id : Nat) (g : Gang) (index : Nat) (a : Access) : State :=
  match g.loads[index]? with
  | some ld => loadFault (s.setGang id (g.setLoad index none)) id ld a .xlatPerm 0
  | none => s

/-- The refusal of the `k`-th unacknowledged write that a gang's commit sent: the home keeps its old bytes (R375). -/
def refuseWrite (s : State) (id k : Nat) : State :=
  match ((s.acks.flatMap (·.writes)).filter (fun w => decide (w.gang = id)))[k]? with
  | none => s
  | some w =>
    let s1 := { s with
      mem := mwriteBytes s.mem w.entry.pa w.old
      acks := s.acks.map (fun a => { a with writes := a.writes.filter (fun x => x != w) }) }
    commitFault s1 id w.entry .xlatPerm 0

/-- The refusal of an access that a copy has still to make, where it is to peer memory: a fatal `XLAT_PERM` (R215, R375). -/
def refuseCopy (s : State) (n : Nat) (c : Command) (index : Nat) : State :=
  match if commandLive s c && (c.kind == .cpy || c.kind == .cpyg) then copyAccess s c index else none with
  | some (kind, va) =>
    (match (siteOf s c.who va (if kind == .engRead then .read else .write)).2 with
     | .ok (.home _ pa _, _) => if aperture pa = 1 then commandFault s n c kind va .refused else s
     | _ => s)
  | none => s

/-- `PEER_REFUSAL`: the target package refuses an access of peer memory (R375, R378): of a gang, an access that an outstanding load
makes, or past those a write that a commit sent; of a copy, an access that it has still to make. Accesses that are performed as they are made are
refused by their page (`State.refuses`). -/
def execPeerRefusal (gang index : Nat) (s : State) : Outcome :=
  match aget s.gangs gang with
  | some g => (match g.peerReads[index]? with
    | some (j, a) => .next (refuseLoad s gang g j a)
    | none => .next (refuseWrite s gang (index - g.peerReads.length)))
  | none => match aget s.cmds gang with
    | some c => .next (refuseCopy s gang c index)
    | none => .next s

end Sys2Proof.Machine
end

