-- ==== Sys2Proof/Machine/Faults.lean ====
section
/-! DEFINITION. Walks, host translations, fault records and their responses, single discards, and shootdowns (R341 to
R354). -/

namespace Sys2Proof.Machine

/-! Translations (R340 to R344). -/

/-- `PAGE_WALK`: a walker reads the tables again, and the die's buffer holds what it found: a valid leaf, or nothing; the buffers of
its cores keep what they hold (R340 to R343). Walkers stop with their partition (R355). -/
def execPageWalk (part die aspace : Nat) (va : W64) (s : State) : Outcome :=
  if (s.part part).asserted then .next s
  else
    let d := s.die die
    let space := spaceKey part aspace
    let s1 := s.setDie die { d with tlb := d.tlb.filter (fun t => !(decide (t.space = space) && meets va.toNat 1 t.base (2 ^ t.log))) }
    .next (s1.xlate part aspace die va.toNat .read).1

/-- A parked slot may issue again, from a cycle of its core on. -/
def Slot.unpark (sl : Slot) (now : Nat) : Slot := { sl.readyFrom now with parked := sl.parked.map (fun p => { p with released := true }) }

/-- A slot that waits for a host translation may issue again (R344). -/
def Slot.wake (sl : Slot) (now : Nat) : Slot :=
  match sl.parked with
  | some p => if p.hostWait then sl.unpark now else sl
  | none => sl

/-- An open or held record of a command waits for a response. -/
def commandRecorded (s : State) (n : Nat) (c : Command) : Bool :=
  let mine (r : FaultRecord) : Bool := match r.owner with | .command k => decide (k = n) | _ => false
  (s.part c.part).openRecords.any (fun x => mine x.2) || s.dies.any (fun x => x.2.hold.any mine) ||
    (s.part c.part).heldFaults.any (fun x => decide (x.aspace = c.aspace))

/-- Rays that a partition's units serve go on (R386). -/
def wakeGuests (s : State) (part : Nat) : State :=
  if (s.part part).asserted then s
  else s.pkg.guests.foldl (fun s (n, g) => if g.part = part ∧ g.ray.wait = .run then guestRun s n g else s) s

/-- The accesses of a context that wait for host translations are tried again (R344). -/
def wakeHost (s : State) (part space : Nat) : State :=
  wakeGuests { s with
    gangs := s.gangs.map (fun (id, g) => (id, if spaceKey g.part g.aspace = space then { g with a := g.a.wake (s.core g.core).cyc, b := g.b.wake (s.core g.core).cyc } else g))
    cmds := s.cmds.map (fun (n, c) =>
      (n, if spaceKey c.part c.aspace = space ∧ c.parked ∧ !commandRecorded s n c then { c with parked := false } else c)) } part

/-- A partition's request for a host translation with an index, and the partition without it. -/
def takeRequest (p : Part) (index : Nat) : Option (AtsRequest × Part) :=
  (p.atsRequests[index]?).map (fun r => (r, { p with atsRequests := p.atsRequests.eraseIdx index }))

/-- The port keeps what it has learnt of a host page, the latest last; beyond 4,096 pages the oldest goes (R344). -/
def Part.keepPage (p : Part) (key : Nat × Nat) (h : HostPage) : Part :=
  let atc := adel p.atc key ++ [(key, h)]
  { p with atc := atc.drop (atc.length - 4096) }

/-- A request has failed: each access that waits for it is to be a miss (R344). -/
def Part.failPage (p : Part) (r : AtsRequest) : Part := { p with atsFailed := p.atsFailed ++ r.waiters.map (fun w => (r.space, r.page, w)) }

/-- A Page Request that waits for one of the 512 to be answered goes out (R344). -/
def Part.nextPage (p : Part) : Part :=
  match p.pageStage, p.atsRequests.findIdx? (fun r => r.stage == .held) with
  | .page, some k => { p with atsRequests := p.atsRequests.modify k (fun r => { r with stage := .page }) }
  | _, _ => p

/-- Page Requests that wait go out while there is room (R344). -/
def Part.nextPages (p : Part) : Part := (List.range p.atsRequests.length).foldl (fun p _ => p.nextPage) p

/-- `ATS_TRANSLATION_COMPLETION`: with the permission needed the waiting accesses proceed, without it a Page Request is sent
(R344). -/
def execAtsTranslationCompletion (part index hostPage : Nat) (readOk writeOk : Bool) (s : State) : Outcome :=
  match takeRequest (s.part part) index with
  | none => .next s
  | some (r, p) =>
    if r.stage ≠ .translation then .next s
    else if if r.write then writeOk else readOk then
      .next (wakeHost (s.setPart part (p.keepPage (r.space, r.page) (.page hostPage readOk writeOk))) part r.space)
    else
      .next (s.setPart part { p with atsRequests := (s.part part).atsRequests.set index { r with stage := (s.part part).pageStage } })

/-- `PAGE_REQUEST_RESPONSE`: on Success the translation is requested again; on a failure each waiting access is a miss with
HOST = 1 (R344). -/
def execPageRequestResponse (part index : Nat) (success : Bool) (s : State) : Outcome :=
  match takeRequest (s.part part) index with
  | none => .next s
  | some (r, p) =>
    if r.stage ≠ .page then .next s
    else if success then .next (s.setPart part { p with atsRequests := (s.part part).atsRequests.set index { r with stage := .translation } }.nextPage)
    else .next (wakeHost (s.setPart part (p.failPage r).nextPage) part r.space)

/-- The context's requests carry a PASID (R344, R418). -/
def underPasid (s : State) (space pasid : Nat) : Bool := (s.ctx space).pv && decide ((s.ctx space).pasid = pasid)

/-- The host page that an address of a context translates to, if its untranslated page is one of those that `hit` selects: found in
the page tables, for accesses that the cache holds no page of any more. -/
def hostPageOf (s : State) (hit : Nat × Nat → Bool) (part aspace va pa : Nat) : Option (Nat × Nat) :=
  match s.walk part aspace va with
  | .leaf e log =>
    if aperture pa = 2 && aperture (entryPA e) = 2 && hit (spaceKey part aspace, (entryPA e + va % 2 ^ log) % 2 ^ 50 / 4096) then
      some (spaceKey part aspace, pa / 4096 % 2 ^ 38)
    else none
  | _ => none

/-- The accesses of a gang that are on their way: virtual and physical addresses of its loads and entries. -/
def Gang.onTheWay (g : Gang) : List (Nat × Nat) :=
  g.loads.flatMap (fun l => if l.onChip then [] else l.accesses.map (fun a => (a.va, a.pa))) ++
    g.entries.flatMap (fun e => e.sites.map (fun x => (x.1, x.2.1)))

/-- `INVALIDATION_REQUEST`: the port forgets the range's translations and treats the request as a shootdown of it; 32 may be in
progress (R344). The contexts' instruction-cache words go with them (R68). -/
def execInvalidationRequest (part pasid : Nat) (va : W64) (logsz : Nat) (s : State) : Outcome :=
  let p := s.part part
  let log := max 12 logsz
  let base := va.toNat / 2 ^ log * 2 ^ log
  let hit (k : Nat × Nat) : Bool := underPasid s k.1 pasid && meets base (2 ^ log) (4096 * k.2) 4096
  let cached := p.atc.filterMap (fun (k, h) => if hit k then (match h with | .page host _ _ => some (k.1, host)) else none)
  let used := s.gangs.flatMap (fun (_, g) => if g.part = part then g.onTheWay.filterMap (fun (va, pa) => hostPageOf s hit part g.aspace va pa) else [])
  if 32 ≤ (p.shoots.filter (fun v => v.request.isSome)).length then .next s
  else
    let s1 := s.setPart part { p with
      atc := p.atc.filter (fun x => !hit x.1)
      shoots := p.shoots ++ [{ space := 0, base := 0, size := 0, pages := dedup (cached ++ used), request := some (pasid, va, logsz), holders := none }] }
    .next { s1 with cores := s1.cores.map (fun (k, c) => (k, { c with icache := c.icache.filter (fun w => !underPasid s w.1.1 pasid) })) }

/-! Responses (R348, R349). -/

/-- `FAULT_HOLD_WRITE`: the first record of a die's hold is written once the queue has room (R348). -/
def execFaultHoldWrite (part die : Nat) (s : State) : Outcome :=
  match (s.die die).hold with
  | [] => .next s
  | r :: rest =>
    if queueFull (s.part part) then .next s
    else let d := s.die die; .next (let (s1, r1) := cleanNow (s.setDie die { d with hold := rest }) part r; writeRecord s1 part r1)

/-- What a record waits for is still there: its task has not been discarded, nor its context torn down (R349). -/
def recordLive (s : State) (part seq : Nat) (r : FaultRecord) : Bool :=
  !(s.ctx (spaceKey part r.aspace)).torn && (match r.owner with
    | .gang id slotB => (match aget s.gangs id with
      | some g => (match (g.slot slotB).parked with | some p => p.record == some seq | none => false)
      | none => false)
    | .command n => (aget s.cmds n).isSome
    | .ray n lane => (match aget s.cmds n with
      | some c => c.rays.any (fun x => decide (x.lane = lane) && x.wait == .park) | none => false)
    | .guest n => (aget s.pkg.guests n).isSome
    | .none => true
    | .void => false)

/-- A response closes the open record that it names; one that names none is ignored and counted, and one to a record that has become
void has no effect (R349). -/
def closeRecord (s : State) (part : Nat) (seq : W32) : State × Option FaultRecord :=
  let p := s.part part
  match aget p.openRecords seq.toNat with
  | none => (s.setPart part { p with badResp := min 0xFFFF (p.badResp + 1) }, none)
  | some r => if recordLive s part seq.toNat r then (s.setPart part { p with openRecords := adel p.openRecords seq.toNat }, some r) else (s, none)

/-- REPLAY: the slot, command or ray goes on (R349). -/
def resumeOwner (s : State) (r : FaultRecord) : State :=
  match r.owner with
  | .gang id slotB => s.modGang id (fun g => g.setSlot slotB ((g.slot slotB).unpark (s.core g.core).cyc))
  | .command n => (match aget s.cmds n with | some c => s.setCmd n { c with parked := false } | none => s)
  | .ray n lane => (match aget s.cmds n with
    | some c => s.setCmd n { c with rays := c.rays.map (fun x => if x.lane = lane ∧ x.wait = .park then { x with wait := .run } else x) }
    | none => s)
  | .guest n => (match aget s.pkg.guests n with
    | some g =>
      let g1 := if g.ray.wait = .park then { g with ray := { g.ray with wait := .run } } else g
      if (s.part g.part).asserted then s.setGuest n g1 else guestRun s n g1
    | none => s)
  | .none => s
  | .void => s

/-- REPLAY of a record (R349). -/
def replayRecord (s : State) (part : Nat) (seq : W32) : State :=
  match closeRecord s part seq with
  | (s1, some r) => resumeOwner s1 r
  | (s1, none) => s1

/-- `FLT_RESP_REPLAY` (R349). -/
def execFltRespReplay (part : Nat) (seq : W32) (s : State) : Outcome := .next (s.ifReady (replayRecord s part seq))

/-- The record of cause 16: only CLASS is set (R363). -/
def killWords : List W64 := [w64 FaultClass.kill.code, 0, 0, 0, 0, 0, 0]

/-- A cause 16 for a context (R355). -/
def killContext (s : State) (part aspace : Nat) : State :=
  queueCause s part { cls := .kill, aspace := aspace, words := killWords, gang := none }

/-- `FLT_RESP_ABORT`: cause 16 for the record's context (R349). -/
def execFltRespAbort (part : Nat) (seq : W32) (s : State) : Outcome :=
  .next (s.ifReady (match closeRecord s part seq with
    | (s1, some r) => killContext s1 part r.aspace
    | (s1, none) => s1))

/-! Single discards (R351, R352). -/

/-- A single discard (R351): the uncommitted entries are dropped, both slots are abandoned, and the task is to restart. -/
def discardTask (s : State) (id : Nat) : State :=
  match aget s.gangs id with
  | none => s
  | some g =>
    let s0 := s.setPart g.part (((s.part g.part).dropWaiter (.slot id false)).dropWaiter (.slot id true))
    let s1 := discardColls s0 g.part [id]
    let orphan (r : FaultRecord) : FaultRecord := if (match r.owner with | .gang k _ => decide (k = id) | _ => false) then { r with owner := .void } else r
    { s1 with
      gangs := aput s1.gangs id { g with
        phase := .running, a := Slot.idle, b := Slot.idle, flight := [], loads := [], order := [], entries := [], returns := [],
        restarting := true }
      cmds := s1.cmds.map (fun (n, c) => (n, if c.gang = some id then { c with discarded := true } else c))
      dies := s1.dies.map (fun (n, d) => (n, { d with hold := d.hold.map orphan })) }

/-- Every command and matrix operation that a task sent has completed (R352). -/
def sentDone (s : State) (id : Nat) : Bool :=
  !s.cmds.any (fun x => x.2.gang == some id) && !s.cores.any (fun x => x.2.ops.any (fun o => o.gang == some id))

/-- A gang at its task's entry again (R21, R351). -/
def Gang.restart (g : Gang) (now : Nat) : Gang :=
  { g with
    spawned := 0, v := g.entryV, s := g.entryS, m := [], pendV := 0, pendS := 0, vtOwner := 0,
    a := { Slot.idle with live := true, pc := g.entry, mask := g.lane, since := now, ready := now }, b := Slot.idle, bStart := 0, bCount := 0, cb := 0, cn := 0,
    joining := [], seq := 0, phase := .running, detstep := 0, replay := 0, traparg := 0, prefersB := none, sealed := false,
    unclean := false, rerun := true, restarting := false, flight := [], loads := [], order := [], entries := [], returns := [], batch := 0, covered := [] }

/-- Discarded tasks restart once what they sent has completed (R352). -/
def restartTasks (s : State) : State :=
  let again := s.gangs.filter (fun x => x.2.restarting && sentDone s x.1)
  if again.isEmpty then s
  else again.foldl (fun s x => countSteps s x.2.part x.2.aspace 1)
    { s with gangs := s.gangs.map (fun (id, g) => (id, if g.restarting && sentDone s id then g.restart (s.core g.core).cyc else g)) }

/-- `FLT_RESP_REQUEUE`: a clean task is discarded singly; for any other record it is a REPLAY (R351). -/
def execFltRespRequeue (part : Nat) (seq : W32) (s : State) : Outcome :=
  .next (s.ifReady (match closeRecord s part seq with
    | (s1, none) => s1
    | (s1, some r) =>
      match r.owner with
      | .gang id _ => (match aget s1.gangs id with
        | some g => if g.clean (s1.nonidem g) then discardTask s1 id else resumeOwner s1 r
        | none => s1)
      | _ => resumeOwner s1 r))

/-! Unfort's handling of records (R353). -/

/-- The table at a level on the way to an address, if every entry above it is a pointer (R338, R339); `fuel` bounds the
levels. -/
def tableAt (s : State) (part va level : Nat) : (fuel n table : Nat) → Option Nat
  | 0, _, _ => none
  | fuel + 1, n, table =>
    if n = level then some table
    else
      let e := s.entryAt part (table + 8 * (va / 2 ^ (12 + 9 * (5 - n)) % 512))
      if bit e 0 && !bit e 1 && decide (bits e 11 2 = 0) && decide (entryPA e < localSize (s.part part).dies) then
        tableAt s part va level fuel (n + 1) (entryPA e)
      else none

/-- The leaf entries of a prepared mapping are written; none if its table is not there (R353). -/
def applyPrepared (s : State) (part : Nat) (m : Prepared) : Option State :=
  let va := m.va
  let index := va / 2 ^ (12 + 9 * (5 - m.level)) % 512 / m.entries * m.entries
  match tableAt s part va m.level 5 1 (s.ctx (spaceKey part m.aspace)).root with
  | none => none
  | some table =>
    match storeHome s part (table + 8 * index) (wordBytes (List.replicate m.entries m.leaf)) with
    | .ok s1 => some s1
    | .error _ => none

/-- The mapping covers an address of a context (R353). -/
def Prepared.covers (m : Prepared) (aspace va : Nat) : Bool :=
  decide (m.aspace = aspace) && (match leafSize m.level m.leaf with | some (_, log) => decide (m.va / 2 ^ log = va / 2 ^ log) | none => false)

/-- Unfort copies a record to the host queue with ESC = 1; none while the queue is full (R353). -/
def forwardRecord (s : State) (part seq : Nat) (r : FaultRecord) : Option State :=
  let p := s.part part
  if !ringReachable p p.hqBase then some (s.logDropped part)
  else if (p.hqProd - p.hqCons).toNat = ringSize p.hqLog then none
  else
    let words := (r.words.set 0 (tget 0 r.words 0 ||| 0x40000000000)) ++ [w64 seq]
    let a := p.hqBase + 64 * (p.hqProd.toNat % ringSize p.hqLog)
    let s1 := s.postBytes part a (wordBytes words)
    some (raiseMsi (s1.setPart part { s1.part part with hqProd := p.hqProd + 1 }) part 0)

/-- `UNFORT_FAULT_HANDLING`: Unfort takes the next record of the queue: a prepared mapping is applied and the record
replayed, or it is forwarded to the host (R353). -/
def execUnfortFaultHandling (part : Nat) (s : State) : Outcome :=
  let p := s.part part
  match p.unseen with
  | [] => .next s
  | (seq, r) :: rest =>
    let s1 := s.setPart part { p with unseen := rest, fltCons := w32 (seq + 1) }
    let va := (tget 0 r.words 2).toNat
    let found := p.prepared.zipIdx.find? (fun (m, _) => !m.applied && m.covers r.aspace va)
    match if r.cls = .xlatMiss then found.bind (fun (m, i) => (applyPrepared s1 part m).map (fun s2 => (s2, m, i))) else none with
    | some (s2, m, i) =>
      let q := s2.part part
      .next (replayRecord (s2.setPart part { q with prepared := q.prepared.set i { m with applied := true } }) part (w32 seq))
    | none => .next ((forwardRecord s1 part seq r).getD s)

/-! Shootdowns (R68, R354). -/

/-- An access lies in the range of a shootdown, or on a page whose host translation is being invalidated (R344, R354). -/
def Invalidation.covers (v : Invalidation) (space va pa : Nat) : Bool :=
  match v.request with
  | none => decide (v.space = space) && decide (v.base ≤ va) && decide (va < v.base + v.size)
  | some _ => decide (aperture pa = 2) && v.pages.contains (space, pa / 4096 % 2 ^ 38)

/-- Entries act in the range of a shootdown. -/
def Invalidation.meets (v : Invalidation) (space : Nat) (es : List Entry) : Bool :=
  es.any (fun e => e.sites.any (fun x => v.covers space x.1 x.2.1))

/-- The entries of a gang in commits that have begun. -/
def committing (s : State) (id : Nat) : List Entry :=
  s.acks.flatMap (fun a => (a.pending.filter (fun x => decide (x.1 = id))).map (·.2))

/-- A task has an access into the range that has issued, or is being committed, and has not been performed (R354). -/
def pendingIn (s : State) (v : Invalidation) (id : Nat) (g : Gang) : Bool :=
  g.loads.any (fun l => !l.onChip && l.accesses.any (fun a => v.covers (spaceKey g.part g.aspace) a.va a.pa)) ||
    v.meets (spaceKey g.part g.aspace) (committing s id)

/-- A task holds the range through buffered entries (R354). -/
def Gang.holds (g : Gang) (v : Invalidation) : Bool := v.meets (spaceKey g.part g.aspace) g.entries

/-- The size of a shootdown's range, as a power of two: LOGSZ, within 12 to 57 (R354). -/
def Shootdown.logSize (d : Shootdown) : Nat := min 57 (max 12 d.log)

/-- The dies of a partition. -/
def Part.hasDie (p : Part) (part die : Nat) : Bool := decide (part ≤ die) && decide (die < part + p.dies)

/-- A shootdown that XLAT_INV started is in progress: BUSY (R354). -/
def Part.busy (p : Part) : Bool := p.shoots.any (fun v => v.request.isNone)

/-- Translation-buffer entries outside a range of an address space. -/
def outsideRange (space base n : Nat) (ts : List TlbEntry) : List TlbEntry :=
  ts.filter (fun t => !(decide (t.space = space) && Machine.meets base n t.base (2 ^ t.log)))

/-- A shootdown starts: BUSY is set, and the range's translations and its instruction-cache lines are invalidated on every die of the
partition (R68, R354). -/
def startShootdown (s : State) (part : Nat) : State :=
  let p := s.part part
  let space := spaceKey part p.sd.aspace
  let (base, n) := if p.sd.all then (0, 2 ^ 57) else (p.sd.va / 2 ^ p.sd.logSize * 2 ^ p.sd.logSize, 2 ^ p.sd.logSize)
  let s1 := s.setPart part { p with shoots := p.shoots ++ [{ space := space, base := base, size := n, pages := [], request := none, holders := none }] }
  { s1 with
    dies := s1.dies.map (fun (k, d) => (k, if p.hasDie part k then { d with tlb := outsideRange space base n d.tlb } else d))
    cores := s1.cores.map (fun (k, c) => (k, if p.hasDie part (k / 40) then
      { c with
        tlb := outsideRange space base n c.tlb
        icache := c.icache.filter (fun w => !(decide (w.1.1 = space) && Machine.meets base n w.1.2 4)) } else c)) }

/-- `SHOOTDOWN`: a write of XLAT_INV; GO starts one while BUSY is 0 (R354). -/
def execShootdown (part : Nat) (value : W64) (s : State) : Outcome :=
  let p := s.part part
  let s1 := s.setPart part { p with sd := { p.sd with aspace := bits value 7 0, log := bits value 13 8, all := bit value 14 } }
  .next (s.ifReady (if bit value 15 && !p.busy then startShootdown s1 part else s1))

/-- A task that a shootdown waits for has ended, with its entries committed, or is gone (R354). -/
def holderOver (s : State) (v : Invalidation) (id : Nat) : Bool :=
  match aget s.gangs id with
  | none => true
  | some g => g.phase == .ended && !g.holds v && !s.acking id

/-- A shootdown goes on (R354): once the accesses into its range have been performed, and the commits of its holders are over (R310), the clean holders are discarded singly, and the
others are waited for. -/
def advanceShoot (s : State) (part : Nat) (v : Invalidation) : State × Invalidation :=
  match v.holders with
  | some ids => (s, { v with holders := some (ids.filter (fun id => !holderOver s v id)) })
  | none =>
    let mine := s.gangs.filter (fun x => decide (x.2.part = part))
    if (s.part part).asserted || mine.any (fun x => pendingIn s v x.1 x.2 || (x.2.holds v && s.acking x.1)) then (s, v)
    else
      let (clean, rest) := (mine.filter (fun x => x.2.holds v)).partition (fun x => x.2.clean (s.nonidem x.2))
      (clean.foldl (fun s x => discardTask s x.1) s, { v with holders := some (rest.map (·.1)) })

/-- Shootdowns in turn: the state, and those that go on. -/
def advanceShoots (part : Nat) : State → List Invalidation → State × List Invalidation
  | s, [] => (s, [])
  | s, v :: rest =>
    let (s1, v1) := advanceShoot s part v
    let ended := v1.holders == some []
    let s2 := match ended, v1.request with
      | true, some (pasid, va, logsz) => { s1 with pkg := { s1.pkg with hostOut := s1.pkg.hostOut ++ [.invalidated part pasid va logsz] } }
      | _, _ => s1
    let (s3, left) := advanceShoots part s2 rest
    (s3, if ended then left else v1 :: left)

/-- `SHOOTDOWN_COMPLETION`: shootdowns of a partition go on; of one with no holder left BUSY clears, or the Invalidation Completion is
sent (R344, R354). -/
def execShootdownCompletion (part : Nat) (s : State) : Outcome :=
  let (s1, left) := advanceShoots part s (s.part part).shoots
  .next (s1.setPart part { s1.part part with shoots := left })

end Sys2Proof.Machine
end

