-- ==== Sys2Proof/Machine/Squall.lean ====
section
/-! DEFINITION. The squall line, stop records, the dump, teardown and release (R355 to R364). -/

namespace Sys2Proof.Machine

/-! Assertion (R355, R357, R359). -/

/-- The dies of a partition, in rank order. -/
def Part.dieList (p : Part) (part : Nat) : List Nat := (List.range p.dies).map (fun k => part + k)

/-- The records of a context that are open, with their SEQ, in queue order. -/
def openRecordsOf (s : State) (part aspace : Nat) : List (List W64) :=
  (s.part part).openRecords.filterMap (fun (seq, r) =>
    if r.aspace = aspace ∧ recordLive s part seq r then some (r.words ++ [w64 seq]) else none)

/-- A cause asserts the line (R355, R359). -/
def assertLine (s : State) (part : Nat) (c : Cause) : State :=
  let p := s.part part
  s.setPart part { p with
    asserted := true, cycles := s.cores.map (fun (k, c) => (k, c.cyc)), stopped := false, tornDown := false, cause := c.cls.code, causeAspace := c.aspace, count := p.count + 1,
    current := some c, openThen := openRecordsOf s part c.aspace
    unstopped := (p.dieList part).flatMap (fun d => (List.range 256).map (fun u => (d, u))) }

/-- `SQUALL_ASSERTION`: the first cause held asserts the line; causes of contexts torn down are dropped (R355, R357). -/
def execSquallAssertion (part : Nat) (s : State) : Outcome :=
  let p := s.part part
  if p.asserted then .next s
  else match p.heldFaults.filter (fun c => !(s.ctx (spaceKey part c.aspace)).torn) with
    | [] => .next (s.setPart part { p with heldFaults := [] })
    | c :: rest => .next (assertLine (s.setPart part { p with heldFaults := rest }) part c)

/-- `KILL`: cause 16 for a context (R355, R359). -/
def execKill (part aspace : Nat) (s : State) : Outcome := .next (s.ifReady (killContext s part aspace))

/-! Stop records (R358). -/

/-- The type, index and bench of a slot of the stop area. -/
def stopUnit (u : Nat) : Nat × Nat × Nat :=
  if u < 160 then (1, u / 4, u % 4) else if u < 200 then (2, u - 160, 0) else if u < 240 then (3, u - 200, 0)
  else if u < 250 then (4, u - 240, 0) else (u - 245, 0, 0)

/-- The gang in a slot of a core. -/
def gangAt (s : State) (core slot : Nat) : Option (Nat × Gang) :=
  s.gangs.find? (fun x => decide (x.2.core = core) && decide (x.2.slotNo = slot))

/-- STATE of a gang in a bench's record. -/
def stopState (p : Part) (id : Nat) (g : Gang) : Nat :=
  g.aspace + 2 ^ 8 + g.b.live.toNat * 2 ^ 9 + (g.a.parked.isSome || g.b.parked.isSome).toNat * 2 ^ 10 +
    (match g.phase with | .waiting _ => 2 ^ 11 | _ => 0) + (if (p.current.bind (·.gang)) = some id then 2 ^ 12 else 0) +
    g.detstep.toNat % 2 ^ 16 * 2 ^ 16

/-- The body of a bench's record, from byte 16. -/
def benchBody (s : State) (p : Part) (core bench : Nat) : List Byte :=
  let gs := (List.range 16).map (fun k => gangAt s core (4 * k + bench))
  gs.flatMap (fun x => toBytes 8 (match x with | some (_, g) => g.a.pc.toNat | none => 0)) ++
    gs.flatMap (fun x => toBytes 4 (match x with | some (id, g) => stopState p id g | none => 0))

/-- The body of a copy engine's record, from byte 16. -/
def copyBody (s : State) (core : Nat) : List Byte :=
  let cs := s.cmds.filter (fun x => (x.2.kind == .cpy || x.2.kind == .cpyg || x.2.kind == .cpyst) && decide (x.2.core = core))
  (cs.take 16).flatMap (fun (_, c) => toBytes 8 (c.field 7 15 0 + (if c.parked then 3 else if c.started then 4 else 1) * 2 ^ 16 +
    c.aspace * 2 ^ 24 + c.progress % 2 ^ 32 * 2 ^ 32))

/-- A list cut or filled with zeros to a length. -/
def padTo (n : Nat) (bs : List Byte) : List Byte := (bs ++ List.replicate n 0).take n

/-- The stop record of a unit. -/
def stopRecord (s : State) (part die u skid inflight : Nat) : List Byte :=
  let p := s.part part
  let (ty, index, bench) := stopUnit u
  let d0 := ty + die * 2 ^ 8 + index * 2 ^ 10 + bench * 2 ^ 16 + p.cause * 2 ^ 24 + p.causeAspace * 2 ^ 32
  let d1 := p.count.toNat + skid % 2 ^ 16 * 2 ^ 32 + inflight % 2 ^ 16 * 2 ^ 48
  let body := match ty with
    | 1 => benchBody s p (40 * die + index) bench
    | 2 => copyBody s (40 * die + index)
    | _ => []
  padTo 256 (toBytes 8 d0 ++ toBytes 8 d1 ++ body)

/-- A unit has stopped and writes its stop record; with the last, STOPPED sets (R355, R358). An area in no reachable aperture receives
none (R347). -/
def unitStop (s : State) (part die unit skid inflight : Nat) : State :=
  let p := s.part part
  if p.asserted && p.unstopped.contains (die, unit) then
    let s1 := if ringReachable p p.stopBase then
        s.postBytes part (p.stopBase + 65536 * (die - part) + 256 * unit) (stopRecord s part die unit skid inflight)
      else s.logDropped part
    let rest := p.unstopped.filter (· ≠ (die, unit))
    let s2 := s1.setPart part { s1.part part with unstopped := rest, stopped := rest.isEmpty }
    if rest.isEmpty then raiseMsi s2 part 2 else s2
  else s

/-- `UNIT_STOP` (R355, R358). -/
def execUnitStop (part die unit skid inflight : Nat) (s : State) : Outcome := .next (unitStop s part die unit skid inflight)

/-! The dump (R363, R364). -/

/-- A section of the dump. -/
def section_ (ty die core : Nat) (d1 : W64) (body : List Byte) : List Byte :=
  toBytes 8 (ty + die * 2 ^ 8 + core * 2 ^ 10 + body.length * 2 ^ 32) ++ toBytes 8 d1.toNat ++ body

/-- A gang's section (R364). -/
def gangSection (s : State) (g : Gang) : List Byte :=
  let b {α : Type} (f : Slot → α) (z : α) : α := if g.b.live then f g.b else z
  section_ 2 g.die (g.core % 40) (gangReg g) (
    toBytes 8 g.a.pc.toNat ++ toBytes 8 (b (fun x => x.pc.toNat) 0) ++ toBytes 4 g.a.mask.toNat ++ toBytes 4 (b (fun x => x.mask.toNat) 0) ++
    toBytes 8 (g.detstep.toNat + g.b.live.toNat * 2 ^ 32 + (g.a.parked.isSome || g.b.parked.isSome).toNat * 2 ^ 33 + g.sealed.toNat * 2 ^ 34 +
      (s.nonidem g).toNat * 2 ^ 35) ++
    toBytes 8 g.a.icnt.toNat ++ toBytes 8 (b (fun x => x.icnt.toNat) 0) ++ toBytes 16 g.lane.toNat ++
    (List.range 64).flatMap (fun n => toBytes 8 (g.readS false n).toNat) ++ (List.range 8).flatMap (fun n => toBytes 4 (g.readM n).toNat) ++
    toBytes 16 g.pendV.toNat ++ toBytes 8 g.pendS.toNat ++ toBytes 8 0 ++
    (List.range g.vcount).flatMap (fun r => (List.range 32).flatMap (fun l => toBytes 4 (g.lane? r l).toNat)))

/-- The bits of a word from `lo`, `n` of them. -/
def slice {w : Nat} (x : BitVec w) (lo n : Nat) : Nat := x.toNat / 2 ^ lo % 2 ^ n

/-- A crew's section, read through one of its gangs (R364). -/
def crewSection (s : State) (x : Crew) (g : Gang) : List Byte :=
  let c := s.core x.core
  section_ 3 (x.core / 40) (x.core % 40) (crewMap s g) (
    toBytes 24 (slice c.scratchOwn x.tfirst x.tcount) ++ toBytes 24 (slice c.scratchFull x.tfirst x.tcount) ++
    toBytes 16 (slice c.accOwn x.cfirst (min 64 x.ccount)) ++
    (List.range 16).flatMap (fun n => toBytes 8 (tileState s g (.buffer, n)).toNat) ++
    (List.range 16).flatMap (fun n => toBytes 8 (tileState s g (.barrier, n)).toNat) ++
    mreadBytes c.scratch (4096 * x.tfirst) (4096 * x.tcount) ++ mreadBytes c.acc (1024 * x.cfirst) (1024 * x.ccount))

/-- The gangs of a context, in ascending core and gang slot. -/
def gangsOf (s : State) (part aspace : Nat) : List Gang :=
  sortBy (fun (a b : Gang) => decide (64 * a.core + a.slotNo < 64 * b.core + b.slotNo))
    ((s.gangs.map (·.2)).filter (fun g => decide (g.part = part) && decide (g.aspace = aspace)))

/-- The crews of a context, in ascending core and TFIRST, each with its key. -/
def crewsOf (s : State) (part aspace : Nat) : List (Nat × Crew) :=
  sortBy (fun (a b : Nat × Crew) => decide (256 * a.2.core + a.2.tfirst < 256 * b.2.core + b.2.tfirst))
    (s.crews.filter (fun x => match s.launch? x.2.launch with | some l => decide (l.part = part) && decide (l.aspace = aspace) | none => false))

/-- The sections of the dump, in order (R363). -/
def dumpSections (s : State) (part aspace : Nat) : List (List Byte) :=
  let p := s.part part
  let gs := gangsOf s part aspace
  [section_ 1 0 0 0 (mreadBytes s.mem (memKey part p.stopBase) (2 ^ 18))] ++
    (crewsOf s part aspace).flatMap (fun (key, x) =>
      let mine := gs.filter (fun g => g.crewKey == some key)
      (mine.take 1).map (crewSection s x) ++ mine.map (gangSection s)) ++
    (gs.filter (fun g => g.crewKey.isNone)).map (gangSection s) ++
    [section_ 4 0 0 0 (p.openThen.flatMap wordBytes)]

/-- The sections that fit whole, in order up to the first that does not (R363). -/
def fitting (room : Nat) : List (List Byte) → List (List Byte)
  | [] => []
  | x :: xs => if x.length ≤ room then x :: fitting (room - x.length) xs else []

/-- A mask-stack entry is spilled: where it lies in the context's private region, and its bytes, are free values (R364;
notes/assumptions/54.md). -/
def spillEntry (part aspace : Nat) (s : State) (index : Nat) : State :=
  let c := s.ctx (spaceKey part aspace)
  let a := c.privBase + Config.spillPlace s.tick index % (regionBytes c - Config.stackEntry + 1)
  let data := (List.range Config.stackEntry).map (fun j => Config.freeByte s.tick (Config.stackEntry * index + j))
  if ringReachable (s.part part) a then
    { s with mem := mwriteBytes s.mem (memKey part a) data }.touch (memKey part a) data.length
  else s

/-- The entries of a context's mask stacks that are on chip: of each slot the 8 innermost (R26). -/
def onChipEntries (s : State) (part aspace : Nat) : Nat :=
  ((gangsOf s part aspace).map (fun g => min 8 g.a.stack.length + min 8 g.b.stack.length)).sum

/-- Unfort spills every mask-stack entry of a context that is on chip (R364). -/
def spillStacks (s : State) (part aspace : Nat) : State :=
  let s1 := (List.range (onChipEntries s part aspace)).foldl (spillEntry part aspace) s
  { s1 with tick := s1.tick + 1 }

/-- Unfort writes the dump of the cause's context, its mask stacks spilled (R360, R363, R364). A buffer too small for the header receives nothing. -/
def writeDump (s : State) (part : Nat) : State :=
  let p := s.part part
  if p.dumpSize = 0 then s
  else if !ringReachable p p.dumpBase then s.logDropped part
  else if p.dumpSize < 256 then s
  else
    let s := spillStacks s part p.causeAspace
    let all := dumpSections s part p.causeAspace
    let done := fitting (p.dumpSize - 256) all
    let size := 256 + (done.map List.length).sum
    let rec_ := match p.current with | some c => if c.cls = .kill then killWords else c.words | none => []
    let header := toBytes 8 size ++ toBytes 8 (256 + (all.map List.length).sum) ++
      toBytes 8 (1 + p.cause * 2 ^ 8 + p.causeAspace * 2 ^ 16 + (decide (done.length < all.length)).toNat * 2 ^ 24 + done.length % 2 ^ 16 * 2 ^ 32) ++
      toBytes 8 p.count.toNat ++ padTo 64 (wordBytes rec_)
    s.postBytes part p.dumpBase (padTo 256 header ++ done.flatten)

/-! Teardown and release (R359 to R362). -/

/-- A gang of a torn context: its uncommitted entries are dropped, and an undispatched step is removed; none for a gang of no
crew that has nothing left to issue (R360). -/
def tornGang (g : Gang) : Option Gang :=
  let gone := g.restarting || g.phase != .running
  if gone && g.crewKey.isNone then none
  else some { g with
    entries := [], loads := [], order := [], returns := [], restarting := false
    phase := if gone then .ended else .running }

/-- A context is removed (R360). -/
def tearContext (s : State) (part aspace : Nat) : State :=
  let key := spaceKey part aspace
  let mine (p a : Nat) : Bool := decide (spaceKey p a = key)
  let ours (n : Nat) : Bool := match s.launch? n with | some l => mine l.part l.aspace | none => false
  let s1 := (s.cmds.filter (fun x => mine x.2.part x.2.aspace && x.2.kind == .coll && !x.2.landed)).foldl (fun s x => memberDone (withdraw s x.1 x.2) (s.pkg.number, part) x.2.collGroup x.2.collSeq) s
  let serving := decide (bits (s.part part).octCfg 15 8 = aspace)
  let s2 := if serving then
      (s1.pkg.guests.filter (fun x => decide (x.2.part = part))).foldl (fun s (n, g) => guestAnswer s n g g.ray 6 FaultClass.xlatPerm.code) s1
    else s1
  let cmds := s2.cmds.filter (fun x => !mine x.2.part x.2.aspace)
  let p := s2.part part
  let s3 : State := { s2 with
    gangs := s2.gangs.filterMap (fun ((id, g) : Nat × Gang) => if mine g.part g.aspace then (tornGang g).map (fun g => (id, g)) else some (id, g))
    cmds := cmds
    acks := s2.acks.filter (fun a => !ours a.launch)
    answers := s2.answers.filter (fun x => cmds.any (fun c => decide (c.1 = x.1.1)))
    cores := s2.cores.map (fun ((n, c) : Nat × Core) => (n, { c with
      ops := c.ops.filter (fun o => !ours (o.crewKey / 2 ^ 32)), tlb := c.tlb.filter (fun t => decide (t.space ≠ key)) }))
    dies := s2.dies.map (fun ((n, d) : Nat × Die) => (n, { d with
      tlb := d.tlb.filter (fun t => decide (t.space ≠ key)), spawns := d.spawns.filter (fun x => !mine x.part x.aspace)
      items := d.items.filter (fun x => !mine x.part x.aspace), launches := d.launches.filter (fun x => !mine x.part x.aspace) })) }
  let p1 := { p with
    atc := p.atc.filter (fun x => decide (x.1.1 ≠ key)), atsRequests := p.atsRequests.filter (fun r => decide (r.space ≠ key))
    atsFailed := p.atsFailed.filter (fun x => decide (x.1 ≠ key)) }
  let s4 := s3.setPart part p1.nextPages
  let s5 := s4.setCtx key { s4.ctx key with torn := true }
  (s5.launches.map (·.1)).foldl dropTorn (sceneClear s5)

/-- Unfort writes the dump and tears the cause's context down; TORN sets (R360). -/
def teardown (s : State) (part : Nat) : State :=
  let p := s.part part
  if p.asserted && p.stopped && !p.tornDown then
    let s1 := tearContext (writeDump s part) part p.causeAspace
    s1.setPart part { s1.part part with tornDown := true }
  else s

/-- `TEARDOWN` (R360). -/
def execTeardown (part : Nat) (s : State) : Outcome := .next (teardown s part)

/-- A slot after a squall that began at a cycle of its core and ends at another: it has waited no longer for it (R271, R356). -/
def Slot.afterSquall (sl : Slot) (first last : Nat) : Slot := { sl with ready := max sl.ready (last - (first - sl.ready)) }

/-- The slots of a partition's gangs when its squall ends. -/
def slotsAfterSquall (s : State) (part : Nat) : State :=
  { s with gangs := s.gangs.map (fun (id, g) =>
      if g.part = part then
        let first := (aget (s.part part).cycles g.core).getD 0
        let last := (s.core g.core).cyc
        (id, { g with a := g.a.afterSquall first last, b := g.b.afterSquall first last })
      else (id, g)) }

/-- RELEASE clears ASSERTED, STOPPED and TORN, and the partition goes on (R356, R359). -/
def release (s : State) (part : Nat) : State :=
  let p := s.part part
  if p.stopped && p.tornDown then
    wakeGuests ((slotsAfterSquall s part).setPart part { p with asserted := false, cycles := [], stopped := false, tornDown := false, current := none, openThen := [] }) part
  else s

/-- `SQUALL_RELEASE` (R359). -/
def execSquallRelease (part : Nat) (s : State) : Outcome := .next (release s part)

/-- A squall runs to its end at once, its units' skids and requests in flight being free values (R355 to R360). -/
def finishSquall (s : State) (part : Nat) : State :=
  let free (s : State) (u k : Nat) : Nat := (Config.freeByte s.tick (2 * u + k)).toNat
  let s1 := (s.part part).unstopped.foldl (fun s (d, u) => unitStop s part d u (free s u 0) (free s u 1)) s
  release (teardown { s1 with tick := s1.tick + 1 } part) part

/-- A context is removed as a KILL removes it, at once (R355, R360, R410). -/
def killNow (s : State) (part aspace : Nat) : State :=
  finishSquall (assertLine s part { cls := .kill, aspace := aspace, words := killWords, gang := none }) part

/-- `TORN`: a gang of a torn context ends at its next issue (R361, R362). -/
def execTorn (gang : Nat) (s : State) : Outcome :=
  match aget s.gangs gang with
  | some g =>
    if (s.ctx (spaceKey g.part g.aspace)).torn && g.phase == .running && !(s.part g.part).asserted then .next (endTorn s gang) else .next s
  | none => .next s

end Sys2Proof.Machine
end

