-- ==== Sys2Proof/Machine/HomeMemory.lean ====
section
/-! DEFINITION. Main memory's own steps: remaps, atomics of other packages at their homes, error registers, the scrubber,
and access counters (R321 to R333). -/

namespace Sys2Proof.Machine

/-! Remaps (R322 to R324). -/

/-- `CONFLICT_WINDOW_END`: after 65,536 requests the window's conflicts are latched, and may start a remap (R322). The step is that of the
count it names; with another count it is none. -/
def execConflictWindowEnd (channel conflicts : Nat) (s : State) : Outcome :=
  let c := s.channel channel
  .next (if c.requests = 65536 ∧ c.conflicts = conflicts then s.setChannel channel (c.windowEnd s.pkg.cthr) else s)

/-- `REMAP_GO`: a write of GO with TGT (R322). -/
def execRemapGo (channel : Nat) (target : BitVec 3) (s : State) : Outcome :=
  let c := { s.channel channel with tgt := target.toNat }
  .next (s.ifReady (s.setChannel channel (if target.toNat ≠ c.cur ∧ !c.active then c.ask target.toNat else c)))

/-- The stack's remap engine is free, and no lower channel of the stack waits for it (R323). -/
def remapTurn (s : State) (channel : Nat) : Bool :=
  (List.range 32).all (fun j =>
    let k := channel / 32 * 32 + j
    let c := s.channel k
    decide (k = channel) || !c.active || (c.waiting.isSome && decide (channel < k)))

/-- `REMAP_START` (R323). -/
def execRemapStart (channel : Nat) (s : State) : Outcome :=
  let c := s.channel channel
  match c.waiting with
  | some v =>
    if remapTurn s channel then .next (s.setChannel channel { c with old := c.cur, cur := v, bound := 0, active := true, waiting := none }) else .next s
  | none => .next s

/-- An ECC unit, by memory key / 32, lies in a row set of a channel (R318, R320, R321). -/
def inRowSet (s : State) (channel row unit : Nat) : Bool :=
  let (part, n) := stackPart s (channel / 32)
  let pa := 32 * unit - part * 2 ^ 37
  decide (part * 2 ^ 37 ≤ 32 * unit) && decide (pa < localSize n) && decide (channelOf s part pa = channel) &&
    decide (lineInChannel (stackLog n) pa / 256 % 65536 = row)

/-- The reads of a row set correct its units (R323, R328). -/
def correctRowSet (s : State) (channel row : Nat) : State :=
  (s.pkg.softUnits.filter (inRowSet s channel row)).foldl (fun s u => correctUnits s (stackPart s (channel / 32)).1 (32 * u) 1) s

/-- `ROW_SET_MOVE`: row set BOUND has moved; it changes no value (R323, R328). -/
def execRowSetMove (channel : Nat) (s : State) : Outcome :=
  let c := s.channel channel
  if c.active && c.waiting.isNone then
    .next ((correctRowSet s channel c.bound).setChannel channel (
      if c.bound = 65535 then { c with active := false, bound := 0, changes := min 0xFFFF (c.changes + 1) } else { c with bound := c.bound + 1 }))
  else .next s

/-! Atomics of other packages at their homes (R327, R373, R377). -/

/-- Two requests touch common bytes. -/
def sameWord (a b : PeerRequest) : Bool :=
  decide (a.part = b.part) && meets a.offset (requestSize a) b.offset (requestSize b)

/-- `HOME_ATOMIC_OPERATION`: an operation that has arrived from another package is applied at its home, after the earlier
ones on its bytes (R309, R327, R377). -/
def execHomeAtomicOperation (index : Nat) (s : State) : Outcome :=
  match s.pkg.homeOps[index]? with
  | none => .next s
  | some r =>
    if (s.pkg.homeOps.take index).any (sameWord r) then .next s
    else
      let key := memKey r.part r.offset
      let n := requestSize r
      let s1 := observe { s with pkg := { s.pkg with homeOps := s.pkg.homeOps.filter (fun q => !requestMeets q key n) } } .package none key n true
      let left := (s.pkg.homeOps.eraseIdx index).filter (fun q => requestMeets q key n || s1.pkg.homeOps.contains q)
      .next (applyHomeOp { s1 with pkg := { s1.pkg with homeOps := left } } r)

/-! Error registers (R329). -/

/-- `ECC_COUNTER_CLEAR`: MEM_ECCCNT.CLR (R329). -/
def execEccCounterClear (stack : Nat) (s : State) : Outcome :=
  .next (s.ifReady { s with pkg := { s.pkg with eccs := aput s.pkg.eccs stack { s.ecc stack with corr := 0, uncorr := 0 } } })
/-- `ECC_ADDRESS_VALID_CLEAR` (R329). -/
def execEccAddressValidClear (stack : Nat) (s : State) : Outcome :=
  .next (s.ifReady { s with pkg := { s.pkg with eccs := aput s.pkg.eccs stack { s.ecc stack with valid := false } } })

/-! The scrubber (R330, R331). -/

/-- The physical address, within its partition, of a channel's ECC unit in pass order: pseudo-channel, bank, row, column
unit (R320, R321, R330). -/
def scrubAddress (s : State) (channel : Nat) : Nat :=
  let c := s.channel channel
  let (part, n) := stackPart s (channel / 32)
  let b := stackLog n
  let unit := c.pos % 32
  let row := c.pos / 32 % 65536
  let bank := c.pos / 2 ^ 21 % 16 * 2 + c.pos / 2 ^ 25 % 2
  let q := row * 256 + Nat.xor bank (bankFold (c.version row) row) * 8 + unit / 4
  let g := Nat.xor (q % 256) (Nat.xor (q / 256 % 256) (q / 65536 % 256)) % 2 ^ (b + 5)
  let y := Nat.xor (channel - 64 * part) g
  (q * 2 ^ (b + 5) + y) * 128 + unit % 4 * 32

/-- The D of R330. -/
def State.scrubDeadline (s : State) : Nat := s.pkg.deadline * 2 ^ 20

/-- The scrubber runs (R330). -/
def State.scrubs (s : State) : Bool := s.pkg.scrubEn && decide (s.pkg.deadline ≠ 0)

/-- LEVEL (R330). -/
def scrubLevel (s : State) (c : Channel) : Nat :=
  let d := s.scrubDeadline
  if c.elapsed * 2 ^ 26 ≤ c.pos * d then 0 else if 7 * d ≤ 8 * c.elapsed then 2 else 1

/-- E has reached the deadline before the pass's end: once a pass, MISSED counts it and a record of kind 2 is written (R330). -/
def scrubMiss (s : State) (channel : Nat) : State :=
  let c := s.channel channel
  if s.scrubs && decide (s.scrubDeadline ≤ c.elapsed) && !c.overdue then
    let missed := min 0xFFFF (c.missed + 1)
    notify (s.setChannel channel { c with missed := missed, overdue := true }) (stackPart s (channel / 32)).1 2 (channel / 32) (channel % 32) missed
  else s

/-- MCLK pass at a channel (R330). -/
def passMclk (s : State) (channel n : Nat) : State :=
  if s.scrubs then let c := s.channel channel; scrubMiss (s.setChannel channel { c with elapsed := c.elapsed + n }) channel else s

/-- The scrubber's next unit lies in the row set that a remap is moving, for which it waits (R323). -/
def scrubWaits (c : Channel) : Bool := c.active && c.waiting.isNone && decide (c.pos / 32 % 65536 = c.bound)

/-- `SCRUB_READ`: the scrubber reads its next unit (R323, R328, R330). -/
def execScrubRead (channel : Nat) (s : State) : Outcome :=
  if !s.scrubs || scrubWaits (s.channel channel) || (decide (s.pkg.lowq = 0) && decide (scrubLevel s (s.channel channel) = 0)) then .next s
  else
    let s := scrubMiss s channel
    let c := s.channel channel
    let part := (stackPart s (channel / 32)).1
    let pa := scrubAddress s channel
    let s1 := if s.bad (memKey part pa) then notify (logUncorr s part pa) part 1 (channel / 32) (channel % 32) pa
      else correctUnits s part (memKey part pa) 1
    .next (s1.setChannel channel (
      if c.pos + 1 = 2 ^ 26 then { c with pos := 0, elapsed := 0, overdue := false, passes := min 0xFFFF (c.passes + 1) }
      else { c with pos := c.pos + 1 }))

/-- `SCRUB_DEADLINE_MISSED`: E has reached the deadline before the pass's end (R330). -/
def execScrubDeadlineMissed (channel : Nat) (s : State) : Outcome := .next (scrubMiss s channel)

/-! Access counters (R332). -/

/-- `ACCESS_COUNT_NOTIFICATION`: a counter has reached NTHR: it returns to 0, and a record of kind 0 is written (R332). -/
def execAccessCountNotification (stack region : Nat) (s : State) : Outcome :=
  .next (notifyCount s stack region)

/-- `ACCESS_COUNTER_CLEAR`: MEM_ACNT.CLR zeroes every counter and NDROP (R332). -/
def execAccessCounterClear (part : Nat) (s : State) : Outcome :=
  .next (s.ifReady ({ s with pkg := { s.pkg with counters := s.pkg.counters.filter (fun x => decide (x.1.1 ≠ part)) } }.setPart part { s.part part with ndrop := 0 }))

/-- An error appears in an ECC unit (R328). -/
def upset (s : State) (unit : Nat) (hard : Bool) : State :=
  if hard then { s with pkg := { s.pkg with badUnits := unit :: s.pkg.badUnits.filter (· ≠ unit), softUnits := s.pkg.softUnits.filter (· ≠ unit) } }
  else if s.pkg.badUnits.contains unit || s.pkg.softUnits.contains unit then s
  else { s with pkg := { s.pkg with softUnits := unit :: s.pkg.softUnits } }

end Sys2Proof.Machine
end

