-- ==== Sys2Proof/Machine/Links.lean ====
section
/-! DEFINITION. Porys Link, requests of other packages, SCENE invalidations, and the host's accesses (R375 to R384, R389,
R394, R396). -/

namespace Sys2Proof.Machine

/-! Requests of other packages (R375, R378, R389). -/

/-- The partition accepts the request: it is in the layout, accepts the package, and holds the bytes (R375, R378). -/
def accepts (s : State) (r : PeerRequest) : Bool :=
  (partitions s).any (fun x => decide (x.1 = r.part)) && bit (s.part r.part).lnkAccept r.package &&
    decide (r.offset + requestSize r ≤ localSize (s.part r.part).dies)

/-- Lines whose copies the octet must first invalidate before they are written (R389; notes/assumptions/41.md). -/
def heldLines (s : State) (part : Nat) (lines : List Nat) : List Nat :=
  if (octetOthers s part).isEmpty then [] else lines.filter (fun k => !sceneReady s [k])

/-- Bytes at an address, cut at the bounds of ECC units. -/
def unitPieces (pa : Nat) (data : List Byte) : List (Nat × List Byte) :=
  (unitsOf pa data.length).map (fun u =>
    let lo := max pa (32 * u)
    (lo, (data.drop (lo - pa)).take (min (pa + data.length) (32 * u + 32) - lo)))

/-- Bytes from outside are written at their home, unit by unit, and whether every unit could be; one that could not is logged (R328,
R329). -/
def storePieces (s : State) (part : Nat) (ps : List (Nat × List Byte)) : State × Bool :=
  ps.foldl (fun (s, ok) (pa, data) => match storeHome s part pa data with
    | .ok s1 => (s1, ok)
    | .error key => (logUnit s part (key / 32), false)) (s, true)

/-- A write or operation of another package waits: for the octet, or behind an earlier one of its flow that does (R383, R389). -/
def peerWaits (s : State) (r : PeerRequest) : Bool :=
  s.pkg.held.any (fun h => match h with | .peer x => decide (x.package = r.package) && decide (x.part = r.part) | _ => false)

/-- Another package reads local SCENE lines, and may keep copies: a writer that has yet to write them invalidates them again (R389). -/
def State.copied (s : State) (lines : List Nat) : State :=
  { s with pkg := { s.pkg with
      sceneCopies := dedup (s.pkg.sceneCopies ++ lines), sceneWrites := s.pkg.sceneWrites.filter (fun w => !lines.contains w.line) } }

/-- Lines that no member may read: their invalidation is not complete, or a write that has begun is still to be performed (R389). -/
def sceneBusy (s : State) (lines : List Nat) : Bool :=
  s.pkg.sceneWrites.any (fun w => lines.contains w.line && (!w.members.isEmpty || (sceneClaims s).contains w.line))

/-- A request of another package is performed at its home, queued there, held, or refused (R309, R312, R375 to R378, R383, R389). -/
def servePeer (s : State) (r : PeerRequest) : State :=
  let key := memKey r.part r.offset
  let n := requestSize r
  let lines := linesOf key n
  let wait := if r.scene then heldLines s r.part lines else []
  if !accepts s r then s.reply (.refused r.package r.tag)
  else if peerWaits s r then s.hold (.peer r)
  else match r.access with
    | .read _ =>
      if r.scene && sceneBusy s lines then s.hold (.peer r)
      else
      let s1 := observe s .package none key n false
      (match s1.badUnit key n with
       | some u => (logUnit s1 r.part u).reply (.failed r.package r.tag)
       | none =>
         let s2 := correctUnits (if r.scene then s1.copied lines else s1) r.part key n
         s2.reply (.done r.package r.tag (mreadBytes s2.mem key n)))
    | .write data =>
      if !wait.isEmpty then (sceneAsk s r.part wait).hold (.peer r)
      else
        let (s1, ok) := storePieces (observe s .package none key n true) r.part (unitPieces r.offset data)
        (if r.scene then sceneDone s1 lines else s1).reply (if ok then .done r.package r.tag [] else .failed r.package r.tag)
    | .atomic _ _ _ _ =>
      if !wait.isEmpty then (sceneAsk s r.part wait).hold (.peer r)
      else
        { s with pkg := { s.pkg with homeOps := s.pkg.homeOps ++ [r] } }

/-- `PEER_REQUEST` (R375 to R378). -/
def execPeerRequest (request : PeerRequest) (s : State) : Outcome := .next (servePeer s request)

/-- A write of the host is performed at its home, or held for the octet behind earlier ones (R389, R394, R396;
notes/assumptions/94.md). -/
def serveHost (s : State) (part offset : Nat) (data : List Byte) : State :=
  let key := memKey part offset
  let lines := (linesOf key data.length).filter (fun k => s.pkg.sceneCopies.contains k)
  let wait := heldLines s part lines
  if hostHeld s part then s.hold (.host part offset data)
  else if !wait.isEmpty then (sceneAsk s part wait).hold (.host part offset data)
  else sceneDone (storePieces (observe s .host none key data.length true) part (unitPieces offset data)).1 lines

/-- What has been held is tried again, in its order (R389). -/
def serveHeld (s : State) : State :=
  s.pkg.held.foldl (fun s h => match h with
    | .peer r => servePeer s r
    | .host part offset data => serveHost s part offset data
    | .bell part aspace cls prod => ringDoorbell s part aspace cls prod) { s with pkg := { s.pkg with held := [] } }

/-! SCENE lines (R389). -/

/-- `SCENE_INVALIDATION`: this member drops its copy of a peer SCENE line and acknowledges. A copy holds what the home holds
(R389), so it is not kept apart from it. -/
def execSceneInvalidation (line : Nat) (s : State) : Outcome :=
  .next ({ s with pkg := { s.pkg with sceneAcks := s.pkg.sceneAcks ++ [line] } }.linkFor (128 * line))

/-- Tasks that commit alone, and whose commit waited, are tried again (R305, R389). -/
def retryAlone (s : State) : State :=
  s.gangs.foldl (fun s x => match aget s.gangs x.1 with
    | some g => if g.phase != .running && !g.quantum.isEmpty && !s.acking x.1 && !(s.part g.part).asserted then commitAlone s x.1 else s
    | none => s) s

/-- `SCENE_INVALIDATION_ACK`: a member has acknowledged; with the last, the write may be performed (R389). -/
def execSceneInvalidationAck (index member : Nat) (s : State) : Outcome :=
  match s.pkg.sceneWrites[index]? with
  | none => .next s
  | some w =>
    .next (serveHeld (retryAlone { s with pkg := { s.pkg with
      sceneWrites := s.pkg.sceneWrites.set index { w with members := w.members.filter (· ≠ member) } } }))

/-! Flits and ports (R380 to R383). -/

/-- A port replaced. -/
def State.setPort (s : State) (n : Nat) (p : Port) : State := { s with pkg := { s.pkg with ports := aput s.pkg.ports n p } }

/-- Credits of a class at a port (R382). -/
def Port.credit (p : Port) (cls : Nat) : Nat := (aget p.credits cls).getD 0

/-- A port sends the flits that have a credit of their class, in order, unless it trains (R381, R382). -/
def Port.drain (p : Port) : Port :=
  if !p.up || p.train then p
  else p.queue.foldl (fun (p : Port) f =>
    let k := f.cls.toNat
    if p.credit k = 0 ∨ p.queue.any (fun x => x.cls == f.cls) then { p with queue := p.queue ++ [f] }
    else { p with buffer := p.buffer ++ [f], credits := aput p.credits k (p.credit k - 1) }) { p with queue := [] }

/-- A flit goes to the port that carries its flow; with no route it is lost (R378, R383). -/
def sendFlit (s : State) (f : Flit) : State :=
  match s.routePort f.dest with
  | some q => let p := s.port q; s.setPort q ({ p with queue := p.queue ++ [f] }.drain)
  | none => s

/-- The messages of a move enter their flows, in order (R381, R383). -/
def flushLinks (s : State) : State :=
  s.pkg.toLink.foldl (fun s (dest, die, cls) =>
    let n := (aget s.pkg.sends (dest, die, cls)).getD 0
    sendFlit { s with pkg := { s.pkg with sends := aput s.pkg.sends (dest, die, cls) (n + 1) } }
      { source := s.pkg.number, dest := dest, die := die, cls := BitVec.ofNat 2 cls, sequence := n, good := true, payload := [] })
    { s with pkg := { s.pkg with toLink := [] } }

/-- The far end of a port grants credits of a class (R382). -/
def grantCredit (s : State) (port cls n : Nat) : State :=
  let p := s.port port
  s.setPort port ({ p with credits := aput p.credits cls (p.credit cls + n) }.drain)

/-- The far end of a port acknowledges the first flit of a class that it has not (R381). -/
def ackFlit (s : State) (port cls : Nat) : State :=
  let p := s.port port
  match p.buffer.findIdx? (fun f => f.cls.toNat == cls) with
  | some k => if p.up && !p.train then s.setPort port { p with buffer := p.buffer.eraseIdx k, failures := 0 } else s
  | none => s

/-- A flit arrives at a port, and whether it is accepted there (R381): a bad one is not, nor, until it has arrived again, is any other of its
class. -/
def Port.accept (p : Port) (flit : Flit) : Port × Bool :=
  let k := flit.cls.toNat
  match aget p.awaits k with
  | some f => if flit = f then ({ p with awaits := adel p.awaits k }, true) else (p, false)
  | none => if flit.good then (p, true) else ({ p with awaits := aput p.awaits k { flit with good := true } }, false)

/-- `FLIT_RECEPTION`: a good flit is acknowledged, and delivered once in the order of its flow, or forwarded once in that order; after one that
arrives bad, those of its class wait for it to be sent again (R381, R383). -/
def execFlitReception (port : Nat) (flit : Flit) (s0 : State) : Outcome :=
  let (p, taken) := (s0.port port).accept flit
  let s := if p = s0.port port then s0 else s0.setPort port p
  let key := (flit.source, flit.dest, flit.die, flit.cls.toNat)
  let expected := (aget s.pkg.flows key).getD 0
  let s1 := { s with pkg := { s.pkg with flows := aput s.pkg.flows key (flit.sequence + 1) } }
  if !p.up || p.train then .next s0
  else if !taken then .next s
  else if flit.dest ≠ s.pkg.number then .next (if expected ≤ flit.sequence then sendFlit s1 flit else s)
  else if flit.sequence = expected then .next { s1 with pkg := { s1.pkg with delivered := s1.pkg.delivered ++ [flit] } }
  else .next s

/-- `FLIT_REPLAY`: the sender resends the unacknowledged flits of a class from one of them; those of the class before it have been
acknowledged. The sixteenth failure in a row starts a retraining (R381, R382). -/
def execFlitReplay (port place : Nat) (s : State) : Outcome :=
  let p := s.port port
  match p.buffer[place]? with
  | none => .next s
  | some f =>
    if !p.up || p.train then .next s
    else
      let before := p.buffer.take place
      let first := before.all (fun x => x.cls != f.cls)
      let failures := if first then p.failures + 1 else 1
      let q := { p with
        buffer := before.filter (fun x => x.cls != f.cls) ++ p.buffer.drop place, replays := min 0xFFFF (p.replays + 1), failures := failures }
      .next (s.setPort port (if failures = 16 then { q with train := true, retrains := min 0xFFFF (p.retrains + 1), failures := 0 } else q))

/-- Commits that wait for a package which nothing reaches are reported, of each the first write that is not acknowledged (R346,
R378). -/
def lostCommits (s : State) : State :=
  (List.range s.acks.length).foldl (fun s k =>
    match s.acks[k]? with
    | none => s
    | some a =>
      match a.writes.find? (fun w => a.packages.contains (peerPkg w.entry.pa) && s.unreachable w.entry.pa) with
      | some w =>
        commitFault (s.setAck k { a with writes := a.writes.filter (fun x => decide (peerPkg x.entry.pa ≠ peerPkg w.entry.pa)) }) w.gang w.entry
          .eccUncorr w.entry.pa
      | none => s) s

/-- Beyond the first port, the way to a package is lost, or is there again (R378, R383). -/
def cutRoute (s : State) (package : Nat) (on : Bool) : State :=
  let cut := s.pkg.cut.filter (· ≠ package)
  if on then lostCommits { s with pkg := { s.pkg with cut := cut ++ [package] } } else { s with pkg := { s.pkg with cut := cut } }

/-- Another package comes to refuse, or to accept again, what is sent to a page of its memory (R375, R378;
notes/assumptions/96.md). -/
def refusePage (s : State) (page : Nat) (on : Bool) : State :=
  let pages := s.pkg.refusals.filter (· ≠ page)
  { s with pkg := { s.pkg with refusals := if on then page :: pages else pages } }

/-- A port goes down: Unfort logs it, its unacknowledged and waiting flits move to the next ports of their routes in their order,
and commits that wait for a package with no route left are reported (R378, R381). -/
def portDown (s : State) (port : Nat) : State :=
  let p := s.port port
  let s1 := (s.setPort port { p with up := false, train := false, failures := 0, queue := [], buffer := [], credits := [], awaits := [] }).logEvent (.portDown port)
  lostCommits ((p.buffer ++ p.queue).foldl sendFlit s1)

/-- `PORT_RETRAIN`: training ends; a port that trains is up, and learns the package at its far end (R381, R384, R411). -/
def execPortRetrain (port : Nat) (success : Bool) (peer : Nat) (s : State) : Outcome :=
  let p := s.port port
  if !p.en || !(p.train || (!p.up && decide (5 ≤ s.pkg.phase) && decide (s.pkg.phase ≤ 6))) then .next s
  else if success then .next (s.setPort port ({ p with up := true, train := false, failures := 0, peer := peer % 64, peerValid := true }.drain))
  else if p.up then .next (portDown s port)
  else .next (s.setPort port { p with train := false })

/-- `PORT_DOWN`: a port whose retraining has failed goes down (R381). -/
def execPortDown (port : Nat) (s : State) : Outcome := if (s.port port).up && (s.port port).train then .next (portDown s port) else .next s

/-! The host (R394, R396). -/

/-- A message to the host. -/
def State.toHost (s : State) (m : HostMessage) : State := { s with pkg := { s.pkg with hostOut := s.pkg.hostOut ++ [m] } }

/-- The partition a function holds, with its dies (R395, R415). -/
def functionPart (s : State) (function : Nat) : Option (Nat × Nat) :=
  ((partitions s).find? (fun x => x.2.2 == some function)).map (fun x => (x.1, x.2.1))

/-- A byte that BAR2 reads (R394, R411). -/
def bar2Byte (s : State) (function offset : Nat) : Byte :=
  match functionPart s function with
  | some (part, n) => if offset < localSize n then mread s.mem (memKey part offset) else 0xFF
  | none => 0xFF

/-- An offset of BAR2 that memory backs. -/
def bar2Memory (s : State) (function offset : Nat) : Option Nat :=
  match functionPart s function with
  | some (part, n) => if s.pkg.phase = 6 ∧ offset < localSize n then some part else none
  | none => none

/-- `HOST_BAR2_READ`: the host gets what is committed at the home; bytes that nothing backs read all ones, and an
uncorrectable unit gives no data (R329, R394, R396, R411). -/
def execHostBar2Read (function offset size : Nat) (s : State) : Outcome :=
  match bar2Memory s function offset with
  | none => .next (s.toHost (.data function (List.replicate size 0xFF)))
  | some part =>
    let key := memKey part offset
    let n := min size (localSize (s.part part).dies - offset)
    if hostHeld s part then .next s
    else
      let s1 := observe s .host none key n false
      match s1.badUnit key n with
      | some u => .next ((logUnit s1 part u).toHost (.data function []))
      | none =>
        let s2 := correctUnits s1 part key n
        .next (s2.toHost (.data function ((List.range size).map (fun j => bar2Byte s2 function (offset + j)))))

/-- `HOST_BAR2_WRITE`: a host write is performed at its home; where nothing backs the offset it is dropped (R389, R394, R396, R411). -/
def execHostBar2Write (function offset : Nat) (data : List Byte) (s : State) : Outcome :=
  match bar2Memory s function offset with
  | none => .next s
  | some part => .next (serveHost s part offset (data.take (localSize (s.part part).dies - offset)))

/-- `ATOMICOP_REQUEST`: an AtomicOp addressed to the device completes as Unsupported Request (R394). -/
def execAtomicopRequest (function tag : Nat) (s : State) : Outcome := .next (s.toHost (.unsupported function tag))

end Sys2Proof.Machine
end

