-- ==== Sys2Proof/Machine/Bringup.lean ====
section
/-! DEFINITION. Resets, bring-up, the mailbox and its operations, and the health of the part (R410 to R415, R419, R420). -/

namespace Sys2Proof.Machine

/-! Resets and bring-up (R410, R411, R415). -/

/-- The layout of phase 6 when none has been stored: four single dies, of functions 0 to 3 in die order (R411). -/
def defaultLayout : W64 := 0x0302010003

/-- A layout is in force, with partition blocks at reset (R411, R415). -/
def applyLayout (s : State) (w : W64) : State :=
  { s with pkg := { s.pkg with layout := some w }, parts := (layoutParts (bits w 1 0)).map (fun (p, n) => (p, { Part.empty with dies := n })) }

/-- `FUNDAMENTAL_RESET`: every register returns to its reset value and HBM is lost; what is outside the package, the module's
flash, its straps and the part itself stay (R410). -/
def execFundamentalReset (s : State) : Outcome :=
  .next { State.reset with
    todo := s.todo, tick := s.tick, mem := s.mem.filter (fun c => decide (2 ^ 50 ≤ c.1))
    pkg := { Pkg.reset with mini := s.pkg.mini, straps := s.pkg.straps, flash := s.pkg.flash } }

/-- A phase of bring-up can fail with a code; at phase 2 the image decides (R411). -/
def bootFails (s : State) (code : Nat) : Bool :=
  let v := s.pkg.image
  match s.pkg.phase, code with
  | 1, 1 => true
  | 2, 2 => !Config.imageSigned v
  | 2, 3 => decide ((Config.imageVersion v).toNat < Config.rollback.toNat)
  | 3, 5 => true
  | 4, 4 => true
  | _, _ => false

/-- The phase of bring-up can succeed: phase 2 needs an image that is signed and not below the rollback counter (R411). -/
def bootMay (s : State) : Bool :=
  decide (s.pkg.phase ≠ 2) || (Config.imageSigned s.pkg.image && decide (Config.rollback.toNat ≤ (Config.imageVersion s.pkg.image).toNat))

/-- `BOOT_PHASE_COMPLETION`: a phase of bring-up ends: the next begins, or bring-up has failed (R411). -/
def execBootPhaseCompletion (success : Bool) (code : BitVec 4) (s : State) : Outcome :=
  let k := s.pkg.phase
  if 6 ≤ k then .next s
  else if !success then
    .next (if bootFails s code.toNat then { s with pkg := { s.pkg with phase := 15, code := code.toNat } } else s)
  else if !bootMay s then .next s
  else
    let s1 := { s with pkg := { s.pkg with phase := k + 1 } }
    .next (match k with
      | 4 => { s1 with mem := s1.mem.filter (fun c => decide (2 ^ 50 ≤ c.1)), pkg := { s1.pkg with badUnits := [], softUnits := [], channels := [] } }
      | 5 => applyLayout { s1 with pkg := { s1.pkg with number := s1.pkg.straps % 64 } } (s1.pkg.flash.getD defaultLayout)
      | _ => s1)

/-- A context has something that a KILL removes (R360): it is enabled, or work of it is placed, queued, accepted or sent. -/
def hasWork (s : State) (key : Nat) : Bool :=
  (s.ctx key).en || contextPlaced s key || s.cmds.any (fun x => decide (spaceKey x.2.part x.2.aspace = key)) ||
  s.launches.any (fun x => decide (spaceKey x.2.part x.2.aspace = key)) ||
  s.dies.any (fun x => x.2.launches.any (fun l => decide (spaceKey l.part l.aspace = key)))

/-- The contexts of a partition that run, or have work, are removed as a KILL removes each, after a squall in progress (R410). -/
def killPart (s : State) (part : Nat) : State :=
  let s1 := if (s.part part).asserted then finishSquall s part else s
  (s1.ctxs.map (·.1)).foldl (fun s k =>
    if k / 256 = part ∧ hasWork s k = true ∧ !(s.ctx k).torn then
      killNow s part (k % 256)
    else s) s1

/-- Everything of a partition is removed, and its block returns to its reset values; memory keeps what was written (R410). -/
def clearPart (s : State) (part n : Nat) : State :=
  let s1 := killPart s part
  let s2 := (s1.pkg.guests.filter (fun x => decide (x.2.part = part))).foldl (fun s (n, g) => guestAnswer s n g g.ray 6 FaultClass.xlatPerm.code) s1
  let mine (k : Nat) : Bool := decide (part ≤ k) && decide (k < part + n)
  let ours (k : Nat) : Bool := match s.launch? k with | some l => decide (l.part = part) | none => false
  { s2 with
    gangs := s2.gangs.filter (fun x => decide (x.2.part ≠ part))
    crews := s2.crews.filter (fun x => !ours x.2.launch)
    barriers := s2.barriers.filter (fun b => !ours (b.1.headD 0))
    launches := s2.launches.filter (fun x => decide (x.2.part ≠ part))
    cmds := s2.cmds.filter (fun x => decide (x.2.part ≠ part))
    acks := s2.acks.filter (fun a => !ours a.launch)
    cores := s2.cores.map (fun ((k, c) : Nat × Core) => (k, if mine (k / 40) then { c with ops := [], l1 := [], icache := [], tlb := [] } else c))
    dies := s2.dies.filter (fun x => !mine x.1)
    ctxs := s2.ctxs.filter (fun x => decide (x.1 / 256 ≠ part))
    parts := aput s2.parts part { Part.empty with dies := n }
    pkg := { s2.pkg with counters := s2.pkg.counters.filter (fun x => decide (x.1.1 ≠ part)) } }

/-- `FUNCTION_LEVEL_RESET`: the function's partition is cleared (R410). -/
def execFunctionLevelReset (function : Nat) (s : State) : Outcome :=
  match functionPart s function with | some (part, n) => .next (clearPart s part n) | none => .next s

/-! The mailbox (R414). -/

/-- A mailbox at reset. -/
def Mailbox.reset : Mailbox := { toFirmware := [], sent := [], busy := false, toHost := [], valid := false }
/-- The mailbox of a function. -/
def State.mailbox (s : State) (f : Nat) : Mailbox := (aget s.pkg.mailboxes f).getD Mailbox.reset
/-- A mailbox replaced. -/
def State.setMailbox (s : State) (f : Nat) (m : Mailbox) : State := { s with pkg := { s.pkg with mailboxes := aput s.pkg.mailboxes f m } }

/-- What Unfort does with a request: an answer with RESULT and d1, or it goes on later. -/
inductive MailResult where
  | answer (s : State) (result : Nat) (d1 : W64)
  | later (s : State)

/-- Unfort's answer: d0 with RESULT, and d1 (R394, R414). -/
def mailAnswer (s : State) (f result : Nat) (d1 : W64) : State :=
  let m := s.mailbox f
  let d0 := (tget 0 m.sent 0 &&& 0xFFFFFF00FFFFFFFF) ||| w64 (result * 2 ^ 32)
  (s.setMailbox f { m with busy := false, toHost := [d0, d1, 0, 0, 0, 0, 0, 0], valid := true }).toHost (.msi f 3)

/-- Unfort serves a function's message if it asks for an operation; before it is ready the message waits, and after a failure
only RECOVER is accepted (R411, R414). -/
def serveMail (s : State) (f op : Nat) (handle : List W64 → MailResult) : Outcome :=
  let m := s.mailbox f
  if !m.busy || decide (bits (tget (0 : W64) m.sent 0) 7 0 ≠ op) then .next s
  else if s.pkg.phase < 6 then .next s
  else if s.pkg.phase = 15 ∧ op ≠ 5 then .next (mailAnswer s f 1 0)
  else match handle m.sent with
    | .answer s1 result d1 => .next (mailAnswer s1 f result d1)
    | .later s1 => .next s1

/-- A dword of a message. -/
def mailWord (m : List W64) (k : Nat) : W64 := tget 0 m k
/-- ASPACE of a message. -/
def mailSpace (m : List W64) : Nat := bits (mailWord m 0) 15 8

/-- A group of leaf entries breaks nothing of R338 to R340. -/
def prepLegal (s : State) (part : Nat) (m : Prepared) : Bool :=
  bit m.leaf 0 && bit m.leaf 1 && decide (bits m.leaf 11 10 = 0) && decide (3 ≤ m.level) && decide (m.level ≤ 5) && decide (m.va < 2 ^ 57) &&
    (match leafSize m.level m.leaf with
     | some (n, log) => decide (n = m.entries) && decide (entryPA m.leaf % 2 ^ log = 0)
     | none => false) && leafLegal s.pkg.number (s.part part) m.leaf (entryPA m.leaf)

/-- `PREPMAP` (R353, R414). -/
def execPrepmap (function : Nat) (s : State) : Outcome :=
  serveMail s function 1 (fun m =>
    match functionPart s function with
    | none => .answer s 1 0
    | some (part, _) =>
      let x : Prepared := { aspace := mailSpace m, va := (mailWord m 1).toNat, leaf := mailWord m 2, level := bits (mailWord m 3) 2 0,
                            entries := bits (mailWord m 3) 14 8, applied := false }
      let p := s.part part
      if prepLegal s part x then .answer (s.setPart part { p with prepared := p.prepared ++ [x] }) 0 0 else .answer s 1 0)

/-- `UNMAP`: an unapplied prepared mapping is removed; one that has been applied gives RESULT 1, and so does none at all (R414;
notes/assumptions/93.md). -/
def execUnmap (function : Nat) (s : State) : Outcome :=
  serveMail s function 2 (fun m =>
    match functionPart s function with
    | none => .answer s 1 0
    | some (part, _) =>
      let p := s.part part
      match p.prepared.zipIdx.find? (fun (x, _) => !x.applied && x.covers (mailSpace m) (mailWord m 1).toNat) with
      | some (_, i) => .answer (s.setPart part { p with prepared := p.prepared.eraseIdx i }) 0 0
      | none => .answer s 1 0)

/-- What keeps Unfort from writing pieces of bytes, if anything does. -/
def mailFault (s : State) (w : Access.Who) (ps : List (Nat × List Byte)) : Option EngFault :=
  ps.findSome? (fun x => match (engWrite s w x.1 x.2).2 with | .ok _ => none | .error e => some e)

/-- Unfort writes bytes at an address of a context, all or none: it waits for a host translation and for the octet, and is refused
where they cannot be written (R329, R344, R389). -/
def mailWrite (s : State) (part aspace va : Nat) (data : List Byte) (done : State → MailResult) : MailResult :=
  let w : Access.Who := { part := part, aspace := aspace, die := part, windows := false }
  let ps := unitPieces va data
  match mailFault s w ps with
  | some (.wait page write pri) => .later (hostAsk s part aspace page write pri (some .front))
  | some (.scene p line) => .later (sceneAsk s p [line])
  | some .training => .later s
  | some e => .answer (noteFault s part aspace .front e) 1 0
  | none => done (sceneClear (ps.foldl (fun s x => (engWrite s w x.1 x.2).1) s))

/-- The attestation report (R413). -/
def attestReport (s : State) (function : Nat) (nonce : List W64) : List Byte :=
  let body := padTo 320 (toBytes 8 (1 + 512 * 2 ^ 16) ++ toBytes 8 Config.serial.toNat ++ padTo 48 (wordBytes nonce) ++ padTo 48 Config.romDigest ++
    padTo 48 (Config.imageDigest s.pkg.image) ++ toBytes 8 (Config.imageVersion s.pkg.image).toNat ++ toBytes 8 Config.rollback.toNat ++
    toBytes 8 (cap0 s 0).toNat ++ toBytes 8 cap1.toNat ++
    toBytes 8 (bits (s.pkg.layout.getD 0) 1 0 + s.pkg.number % 64 * 2 ^ 8 + function % 16 * 2 ^ 16))
  padTo 512 (body ++ padTo 96 (Config.sign body))

/-- `ATTEST` (R413). -/
def execAttest (function : Nat) (s : State) : Outcome :=
  serveMail s function 3 (fun m =>
    match functionPart s function with
    | none => .answer s 1 0
    | some (part, _) =>
      mailWrite s part (mailSpace m) (bits (mailWord m 7) 56 0) (attestReport s function ((List.range 6).map (fun k => mailWord m (k + 1))))
        (fun s1 => .answer s1 0 0))

/-- `CERT`: the certificate, if the buffer holds it, and its length (R412, R414). -/
def execCert (function : Nat) (s : State) : Outcome :=
  serveMail s function 4 (fun m =>
    let n := w64 Config.certificate.length
    match functionPart s function with
    | none => .answer s 1 n
    | some (part, _) =>
      if (mailWord m 2).toNat < Config.certificate.length then .answer s 1 n
      else mailWrite s part (mailSpace m) (mailWord m 1).toNat Config.certificate (fun s1 => .answer s1 0 n))

/-- The image that RECOVER names: bytes of host memory (R411). -/
def recoverImage (s : State) (m : List W64) : List Byte := mreadBytes s.mem (2 * 2 ^ 50 + (mailWord m 1).toNat % 2 ^ 50) (mailWord m 2).toNat

/-- `RECOVER`: in phase 15 bring-up restarts at phase 2 with the image named, if it can be read (R411). -/
def execRecover (function : Nat) (imageOk : Bool) (s : State) : Outcome :=
  serveMail s function 5 (fun m =>
    if s.pkg.phase = 15 ∧ imageOk then .answer { s with pkg := { s.pkg with phase := 2, code := 0, image := some (recoverImage s m) } } 0 0
    else .answer s 1 0)

/-- A layout word that PARTCFG refuses for its own bits (R415). -/
def layoutBad (w : W64) : Bool :=
  let n := (layoutParts (bits w 1 0)).length
  let f (k : Nat) : Nat := bits w (8 * k + 15) (8 * k + 8)
  decide (bits w 7 2 ≠ 0) || decide (bits w 63 40 ≠ 0) ||
    (List.range 4).any (fun k => (decide (16 ≤ f k) && decide (f k ≠ 0xFF)) || (decide (n ≤ k) && decide (f k ≠ 0xFF)) ||
      (List.range k).any (fun j => decide (f j = f k) && decide (f k ≠ 0xFF)))

/-- A context of some partition is enabled or has work placed (R415). -/
def anyContextBusy (s : State) : Bool := s.ctxs.any (fun x => x.2.en || contextPlaced s x.1 || s.cmds.any (fun c => decide (spaceKey c.2.part c.2.aspace = x.1)))

/-- `PARTCFG` (R415). -/
def execPartcfg (function : Nat) (s : State) : Outcome :=
  serveMail s function 6 (fun m =>
    let w := mailWord m 1
    if function ≠ 0 ∨ layoutBad w ∨ anyContextBusy s then .answer s 1 w
    else
      let s1 := (partitions s).foldl (fun s x => clearPart s x.1 x.2.1) s
      .answer (applyLayout { s1 with pkg := { s1.pkg with flash := some w } } w) 0 w)

/-- `PARTGET` (R414). -/
def execPartget (function : Nat) (s : State) : Outcome := serveMail s function 7 (fun _ => .answer s 0 (s.pkg.layout.getD 0))

/-- `MAILBOX_ACK`: writing 1 to MBOX_FACK.VALID clears it (R414). -/
def execMailboxAck (function : Nat) (s : State) : Outcome :=
  .next (s.setMailbox function { s.mailbox function with valid := false })

/-! Health and the clock (R419, R420). -/

/-- A supply monitor at reset. -/
def Supply.reset : Supply := { mv := 0, low := false, high := false }
/-- The monitor of a domain. -/
def State.supply (s : State) (d : Nat) : Supply := (aget s.pkg.supplies d).getD Supply.reset
/-- A monitor replaced. -/
def State.setSupply (s : State) (d : Nat) (x : Supply) : State := { s with pkg := { s.pkg with supplies := aput s.pkg.supplies d x } }

/-- `HEALTH_SAMPLE` (R419). -/
def execHealthSample (sample : HealthSample) (s : State) : Outcome :=
  match sample with
  | .temp core value => .next { s with pkg := { s.pkg with temps := aput s.pkg.temps core ((1 : BitVec 1) ++ value) } }
  | .supply domain mv =>
    let x := s.supply domain
    .next (s.setSupply domain { mv := mv.toNat, low := x.low || mv.toNat < (Config.vlow domain).toNat, high := x.high || (Config.vhigh domain).toNat < mv.toNat })
  | .proc die count => .next { s with pkg := { s.pkg with procs := aput s.pkg.procs die count } }

/-- `VMON_FLAG_CLEAR`: LOW and HIGH are cleared by writing 1 (R419). -/
def execVmonFlagClear (domain : Nat) (low high : Bool) (s : State) : Outcome :=
  let x := s.supply domain
  .next (s.ifReady (s.setSupply domain { x with low := x.low && !low, high := x.high && !high }))

/-- A core's TEMP exceeds TWARN (R420). -/
def State.hot (s : State) : Bool :=
  s.pkg.temps.any (fun x => bit x.2 12 && decide (sext 12 s.pkg.twarn.toNat < sext 12 x.2.toNat))
/-- One of the 16 domains' MV is below its VLOW (R417, R420). -/
def State.lowVoltage (s : State) : Bool := (List.range 16).any (fun d => decide ((s.supply d).mv < (Config.vlow d).toNat))
/-- A TEMP is at or above TCRIT (R420). -/
def State.critical (s : State) : Bool := s.pkg.temps.any (fun x => bit x.2 12 && decide (0x730 ≤ sext 12 x.2.toNat))

/-- `CLOCK_THROTTLE`: Unfort lowers ACLK by a step, not below FLOOR, for reasons that hold; module power is not in the state
(R420). -/
def execClockThrottle (reason : BitVec 3) (s : State) : Outcome :=
  if reason ≠ 0 ∧ (bit reason 0 → s.hot) ∧ (bit reason 1 → s.lowVoltage) then
    .next { s with pkg := { s.pkg with aclk := max s.pkg.floor (s.pkg.aclk - 25), throttled := true, reason := reason } }
  else .next s

/-- `CLOCK_RESTORE`: Unfort raises ACLK by a step once nothing holds it down (R420). -/
def execClockRestore (s : State) : Outcome :=
  if s.hot || s.lowVoltage || !s.pkg.throttled then .next s
  else
    let aclk := min 1750 (s.pkg.aclk + 25)
    .next { s with pkg := { s.pkg with aclk := aclk, throttled := decide (aclk < 1750), reason := if aclk < 1750 then s.pkg.reason else 0 } }

/-- `THERMAL_TRIP`: every clock of the package stops until power is removed (R420). -/
def execThermalTrip (s : State) : Outcome := .next (if s.critical then { s with pkg := { s.pkg with tripped := true } } else s)

/-- `ILLEGAL_OP`: a malformed group, or words that no form of the table matches (R46, R51, R69). -/
def execIllegalOp (s : State) : Outcome :=
  match s.cur with
  | none => .next s
  | some _ => issue (Grp.alone 0) (fun _ _ _ => { Uses.of [] with illegal := true }) (fun s _ _ => s) s

end Sys2Proof.Machine
end

