-- ==== Sys2Proof/Machine/Complex.lean ====
section
/-! DEFINITION. Complex and Welford instructions (major `0x12`): R149, R150. -/

namespace Sys2Proof.Machine

/-- A complex operand of a lane as its real and imaginary bits, negated by the prefix in both parts (R79, R149). -/
def complexBits (g : Gang) (r l : Nat) (neg : Bool) : Nat × Nat :=
  (preFloat fF32 false neg (g.operand r 1 l), preFloat fF32 false neg (g.operand (r + 1) 1 l))

/-- A complex operand of a lane as its exact parts. -/
def complexVal (g : Gang) (r l : Nat) (neg : Bool) : FVal × FVal :=
  let (x, y) := complexBits g r l neg
  (fF32.val x, fF32.val y)

/-- A component of a complex result from the operands it is computed from: a NaN among them gives the first NaN of all the
instruction's operands; otherwise the value `x` with R89's zero, an invalid form of `own` being the canonical NaN whatever the
other operands are (R149; notes/assumptions/25.md). -/
def component (rm : Rnd) (operands own : List FVal) (x : FVal) : FVal :=
  if own.any FVal.isNan then nanPick operands else zeroFrom rm own x

/-- A component rounded once; its draw under `rsr` has k = 4 times the register's offset (R87). -/
def partResult (grp : Grp) (s : State) (g : Gang) (i : Issue) (l j : Nat) (x : FVal) : W32 :=
  w32 (x.round fF32 (rndOf grp) false (drawIf grp s g i l (4 * j)))

/-- x + y for a complex product's terms: a NaN term is an invalid product (R88, R149). -/
def addTerms (rm : Rnd) (x y : FVal) : FVal := if x.isNan || y.isNan then .canonical else x.add rm y

/-- `vcmul` (R149). -/
def execVcmul (g : Grp) (o : OpV3) (s : State) : Outcome :=
  let p := g.fields
  let rm := rndOf g
  vecOp g 7 o.d.toNat 2 [(o.a.toNat, 2), (o.b.toNat, 2)]
    (fun s x i l =>
      let (ar, ai) := complexVal x o.a.toNat l p.nega
      let (br, bi) := complexVal x o.b.toNat l p.negb
      [partResult g s x i l 0 (component rm [ar, ai, br, bi] [ar, ai, br, bi] (addTerms rm (ar.mul br) (ai.mul bi).neg)),
       partResult g s x i l 1 (component rm [ar, ai, br, bi] [ar, ai, br, bi] (addTerms rm (ar.mul bi) (ai.mul br)))]) s

/-- c + x + y for a complex product's terms: a NaN term is an invalid product (R88, R149). -/
def sumTerms (rm : Rnd) (c x y : FVal) : FVal := if x.isNan || y.isNan then .canonical else sum3 rm c x y

/-- `vcfma` (R149). -/
def execVcfma (g : Grp) (o : OpV3) (s : State) : Outcome :=
  let p := g.fields
  let rm := rndOf g
  let c := thirdReg g o.d.toNat
  vecOp g 7 o.d.toNat 2 [(o.a.toNat, 2), (o.b.toNat, 2), (c, 2)]
    (fun s x i l =>
      let (ar, ai) := complexVal x o.a.toNat l p.nega
      let (br, bi) := complexVal x o.b.toNat l p.negb
      let (cr, ci) := complexVal x c l false
      [partResult g s x i l 0 (component rm [ar, ai, br, bi, cr, ci] [ar, ai, br, bi, cr] (sumTerms rm cr (ar.mul br) (ai.mul bi).neg)),
       partResult g s x i l 1 (component rm [ar, ai, br, bi, cr, ci] [ar, ai, br, bi, ci] (sumTerms rm ci (ar.mul bi) (ai.mul br)))]) s

/-- `vcconj`: the imaginary part's sign bit flipped (R149). Its vb field is as `vcabs2`'s (notes/assumptions/26.md). -/
def execVcconj (g : Grp) (o : OpV3) (s : State) : Outcome :=
  vecOp g 7 o.d.toNat 2 [(o.a.toNat, 2)]
    (fun _ x _ l =>
      let (ar, ai) := complexBits x o.a.toNat l g.fields.nega
      [w32 ar, w32 (preFloat fF32 false true ai)]) s

/-- `vcabs2`: ar² + ai² as one f32 (R149). The spec does not say whether its unused vb field must be 0: any value is accepted and
ignored (DESIGN CHOICE, notes/assumptions/26.md). -/
def execVcabs2 (g : Grp) (o : OpV3) (s : State) : Outcome :=
  vecOp g 7 o.d.toNat 1 [(o.a.toNat, 2)]
    (fun s x i l =>
      let (ar, ai) := complexVal x o.a.toNat l g.fields.nega
      [partResult g s x i l 0 (component (rndOf g) [ar, ai] [ar, ai] ((ar.mul ar).add (rndOf g) (ai.mul ai)))]) s

/-! Welford states (R150). -/

/-- A Welford state: the count, the mean and M2. -/
structure Welford where
  n : Nat
  mean : W32
  m2 : W32

/-- The state in the block of registers from `r`, for a lane. -/
def welfordOf (g : Gang) (r l : Nat) : Welford := { n := (g.lane? r l).toNat, mean := g.lane? (r + 1) l, m2 := g.lane? (r + 2) l }

/-- The words of a state. -/
def Welford.words (w : Welford) : List W32 := [w32 w.n, w.mean, w.m2]

/-- x / n rounded once to f32, for a positive integer n. -/
def roundDiv (x : FVal) (n : Nat) : W32 :=
  match x with
  | .fin neg m e => let (a, b) := fracOf m e; w32 (roundMag fF32 .rne false 0 neg a (b * n))
  | x => roundF32 x .rne 0

/-- x times a positive integer. -/
def timesNat (x : FVal) (n : Nat) : FVal := x.mul (FVal.ofInt n)

/-- A sum of exact terms: a NaN among the operands in their order, else the value (R88, R150). -/
def welfordSum (operands : List FVal) (x : FVal) : FVal := if operands.any FVal.isNan then nanPick operands else x

/-- A sample added to a state; an M2 of exactly zero from operands that are not all zeros is +0 (R89, R150). -/
def Welford.feed (w : Welford) (x : W32) : Welford :=
  if w.n = 0xFFFFFFFF then w
  else
    let n := w.n + 1
    let delta := roundF32 (fsub .rne (valF32 x) (valF32 w.mean)) .rne 0
    let mean := roundDiv ((timesNat (valF32 w.mean) n).add .rne (valF32 delta)) n
    let d := (valF32 x).add .rne (valF32 mean).neg
    let operands := [valF32 w.m2, valF32 delta, valF32 x, valF32 mean]
    let m2 := welfordSum operands (zeroFrom .rne operands ((valF32 w.m2).add .rne ((valF32 delta).mul d)))
    { n := n, mean := mean, m2 := roundF32 m2 .rne 0 }

/-- Two states merged (R150). -/
def Welford.merge (a b : Welford) : Welford :=
  if b.n = 0 then a
  else if a.n = 0 then b
  else
    let t := a.n + b.n
    let delta := valF32 (roundF32 (fsub .rne (valF32 b.mean) (valF32 a.mean)) .rne 0)
    let mean := roundDiv ((timesNat (valF32 a.mean) t).add .rne (timesNat delta b.n)) t
    let sq := timesNat (delta.mul delta) (a.n * b.n)
    let m2 := welfordSum [valF32 a.m2, valF32 b.m2, delta]
      (sum3 .rne (timesNat (valF32 a.m2) t) (timesNat (valF32 b.m2) t) sq)
    { n := min 0xFFFFFFFF t, mean := mean, m2 := roundDiv m2 t }

/-- What a Welford instruction names: registers it reads or writes, with blocks whose fourth word it only names (R131). -/
def welfordUses (grp : Grp) (regs : List Reg) (blocks : List Nat) : Uses :=
  { Uses.vec (regs ++ blocks.flatMap (fun r => regGroup r 3) ++ [.m grp.fields.mask.toNat]) with
    named := blocks.map (fun r => .v (r + 3)), misaligned := blocks.any (fun r => r % 4 != 0) }

/-- `vwelf` (R150). -/
def execVwelf (g : Grp) (o : OpV2) (s : State) : Outcome :=
  execFixed g 7 (fun _ _ _ => welfordUses g [.v o.a.toNat] [o.d.toNat])
    (fun _ x i => vecWrites x i g o.d.toNat 3 (fun l => ((welfordOf x o.d.toNat l).feed (x.lane? o.a.toNat l)).words)) s
/-- `vwmrg` (R150). -/
def execVwmrg (g : Grp) (o : OpV2) (s : State) : Outcome :=
  execFixed g 7 (fun _ _ _ => welfordUses g [] [o.d.toNat, o.a.toNat])
    (fun _ x i => vecWrites x i g o.d.toNat 3 (fun l => ((welfordOf x o.d.toNat l).merge (welfordOf x o.a.toNat l)).words)) s
/-- `vwfin`: M2 / (n - k), or the canonical NaN for n at most k (R150); all three words of the block count as read (notes/assumptions/100.md). -/
def execVwfin (g : Grp) (o : OpVW) (s : State) : Outcome :=
  execFixed g 7 (fun _ _ _ => welfordUses g [.v o.d.toNat] [o.a.toNat])
    (fun _ x i => vecWrites x i g o.d.toNat 1 (fun l =>
      let w := welfordOf x o.a.toNat l
      [if w.n ≤ o.k.toNat then roundF32 .canonical .rne 0 else roundDiv (valF32 w.m2) (w.n - o.k.toNat)])) s

end Sys2Proof.Machine
end

