-- ==== Sys2Proof/Machine/CrossLane.lean ====
section
/-! DEFINITION. Cross-lane instructions (majors `0x14` and `0x15`): R132, R151 to R155. -/

namespace Sys2Proof.Machine

/-- Lane `l` of a vector register as another lane reads it: a lane clear in `LANE` reads as 0 (R132). -/
def Gang.peek (g : Gang) (r l : Nat) : W32 := if bit g.lane l then g.lane? r l else 0

/-- A shuffle: lane `l` receives va of the lane `f` gives (R151). -/
def shuffle (grp : Grp) (d a : Nat) (srcs : List (Nat × Nat)) (f : Gang → Nat → Nat) (s : State) : Outcome :=
  vecOp grp 6 d 1 ((a, 1) :: srcs) (fun _ g _ l => [g.peek a (f g l)]) s

/-- `vshfl.idx` (R151). -/
def execVshflIdx (g : Grp) (o : OpV3) (s : State) : Outcome :=
  shuffle g o.d.toNat o.a.toNat [(o.b.toNat, 1)] (fun x l => (x.lane? o.b.toNat l).toNat % 32) s
/-- `vshfl.up` (R151). -/
def execVshflUp (g : Grp) (o : OpVSh) (s : State) : Outcome :=
  shuffle g o.d.toNat o.a.toNat [] (fun _ l => if o.n.toNat ≤ l then l - o.n.toNat else l) s
/-- `vshfl.dn` (R151). -/
def execVshflDn (g : Grp) (o : OpVSh) (s : State) : Outcome :=
  shuffle g o.d.toNat o.a.toNat [] (fun _ l => if l + o.n.toNat ≤ 31 then l + o.n.toNat else l) s
/-- `vshfl.xor` (R151). -/
def execVshflXor (g : Grp) (o : OpVSh) (s : State) : Outcome :=
  shuffle g o.d.toNat o.a.toNat [] (fun _ l => Nat.xor l o.n.toNat) s

/-- The register a lane of `vxsel` selects, if it is in range (R151). -/
def selected (g : Gang) (a b l : Nat) : Option Nat :=
  let r := a + (g.lane? b l).toNat % 128
  if r < g.vcount then some r else none

/-- `vxsel`: each lane's register is selected by value; the registers selected by lanes of P are read (R151). -/
def execVxsel (g : Grp) (o : OpV3) (s : State) : Outcome :=
  execFixed g 6
    (fun _ x i =>
      let picked := dedup ((lanesOf (partMask x i g)).filterMap (fun l => selected x o.a.toNat o.b.toNat l))
      vecUses g ((o.d.toNat, 1) :: (o.b.toNat, 1) :: picked.map (fun r => (r, 1))))
    (fun _ x i => vecWrites x i g o.d.toNat 1 (fun l =>
      [match selected x o.a.toNat o.b.toNat l with | some r => x.lane? r l | none => 0])) s

/-- `vbcast` (R151). -/
def execVbcast (g : Grp) (o : OpVB) (s : State) : Outcome :=
  execFixed g 6 (fun _ _ _ => Uses.vec [.v o.d.toNat, .s o.a.toNat, .m g.fields.mask.toNat])
    (fun _ x i => vecWrites x i g o.d.toNat 1 (fun _ => [(x.readS i.slotB o.a.toNat).setWidth 32])) s
/-- `vlane` (R151). -/
def execVlane (g : Grp) (o : OpV1) (s : State) : Outcome := vecOp g 6 o.d.toNat 1 [] (fun _ _ _ l => [w32 l]) s
/-- `vext`: a lane's word extended by the type (R151). -/
def execVext (g : Grp) (o : OpVE) (s : State) : Outcome :=
  execFixed g 6 (fun _ _ _ => Uses.vec [.s o.d.toNat, .v o.a.toNat])
    (fun _ x _ =>
      let w := x.peek o.a.toNat o.n.toNat
      [.scalar o.d.toNat (if typeOf g 2 = 1 then w.signExtend 64 else w.setWidth 64)]) s

/-! Votes and the ballot (R152). -/

/-- The lanes of P whose va is not 0 (R152). -/
def ballot (g : Gang) (i : Issue) (grp : Grp) (a : Nat) : W32 :=
  maskOf ((lanesOf (partMask g i grp)).filter (fun l => g.lane? a l != 0))

/-- A vote: a scalar result of the lanes of P (R152). -/
def vote (f : Gang → Issue → W64) (grp : Grp) (o : OpVS) (s : State) : Outcome :=
  execFixed grp 6 (fun _ _ _ => Uses.vec [.s o.d.toNat, .v o.a.toNat, .m grp.fields.mask.toNat])
    (fun _ g i => [.scalar o.d.toNat (f g i)]) s

/-- `vvote.any` (R152). -/
def execVvoteAny (g : Grp) (o : OpVS) (s : State) : Outcome :=
  vote (fun x i => if ballot x i g o.a.toNat = 0 then 0 else 1) g o s
/-- `vvote.all` (R152). -/
def execVvoteAll (g : Grp) (o : OpVS) (s : State) : Outcome :=
  vote (fun x i => if ballot x i g o.a.toNat = partMask x i g then 1 else 0) g o s
/-- `vvote.uni` (R152). -/
def execVvoteUni (g : Grp) (o : OpVS) (s : State) : Outcome :=
  vote (fun x i =>
    let words := (lanesOf (partMask x i g)).map (fun l => x.lane? o.a.toNat l)
    if words.all (fun w => w == words.headD 0) then 1 else 0) g o s
/-- `vballot` to a scalar register (R152). -/
def execVballot (g : Grp) (o : OpVS) (s : State) : Outcome :=
  vote (fun x i => (ballot x i g o.a.toNat).setWidth 64) g o s
/-- `vballot` to a mask register (R152). -/
def execVballotMask (g : Grp) (o : OpVBM) (s : State) : Outcome :=
  execFixed g 6 (fun _ _ _ => Uses.vec [.m o.k.toNat, .v o.a.toNat, .m g.fields.mask.toNat])
    (fun _ x i => [.mask o.k.toNat (ballot x i g o.a.toNat)]) s

/-! Reductions and scans (R153, R154). -/

/-- An element type of a reduction: integer, or a float with its rounding code. -/
inductive RedTy where
  | int (t : IntTy)
  | float (f : Fmt) (rm : Rnd)

/-- The element type of a reduction's TYPE code (R133, R153). -/
def redTy (grp : Grp) : RedTy :=
  let code := typeOf grp 1
  if 7 ≤ code ∧ code ≤ 9 then .float (fmtOf code) (rndOf grp) else .int (intTyOf code)

/-- The width of an element. -/
def RedTy.w : RedTy → Nat | .int t => t.w | .float f _ => f.width

/-- The operation of a reduction on two elements: 0 add, 1 min, 2 max, 3 and, 4 or, 5 xor (R153). -/
def redOp (t : RedTy) (op a b : Nat) : Nat :=
  match t, op with
  | .float f rm, 0 => ((f.val a).add rm (f.val b)).round f rm false 0
  | .float f _, 1 => fminmax false false f a b
  | .float f _, _ => fminmax true false f a b
  | .int t, 0 => wrapTo t.w (t.val a + t.val b)
  | .int t, 1 => wrapTo t.w (min (t.val a) (t.val b))
  | .int t, 2 => wrapTo t.w (max (t.val a) (t.val b))
  | .int _, 3 => Nat.land a b
  | .int _, 4 => Nat.lor a b
  | .int _, _ => Nat.xor a b

/-- One level of the tree: neighbours combined, an empty element giving way to its partner (R153). -/
def treeLevel (f : Nat → Nat → Nat) : List (Option Nat) → List (Option Nat)
  | x :: y :: rest =>
    (match x, y with | none, y => y | x, none => x | some a, some b => some (f a b)) :: treeLevel f rest
  | l => l

/-- The tree of R153 over 32 elements. -/
def treeOf (f : Nat → Nat → Nat) (l : List (Option Nat)) : Option Nat :=
  ((treeLevel f (treeLevel f (treeLevel f (treeLevel f (treeLevel f l))))).headD none)

/-- The identity of an operation (R154). -/
def redIdentity (t : RedTy) (op : Nat) : Nat :=
  match t, op with
  | .float f _, 1 => f.infCode
  | .float f _, 2 => f.signBit + f.infCode
  | .int t, 1 => wrapTo t.w (intBounds t.w t.signed).2
  | .int t, 2 => wrapTo t.w (intBounds t.w t.signed).1
  | .int t, 3 => 2 ^ t.w - 1
  | _, _ => 0

/-- The exact sum of integer elements, saturated once (R153, R154). -/
def satSum (t : RedTy) (l : List Nat) : Nat :=
  match t with
  | .int t => t.out true (l.foldl (fun x e => x + t.val e) 0)
  | .float _ _ => 0

/-- Element `k` of va in each lane of a mask, in lane order. -/
def laneElems (g : Gang) (t : RedTy) (p : W32) (a k : Nat) : List (Option Nat) :=
  (List.range 32).map (fun l => if bit p l then some (elem t.w (g.lane? a l).toNat k) else none)

/-- `vredux`: element `k`'s reduction over the lanes of P (R153). -/
def reduxElem (grp : Grp) (t : RedTy) (op : Nat) (xs : List (Option Nat)) : Nat :=
  if grp.fields.sat then satSum t (xs.filterMap id) else (treeOf (redOp t op) xs).getD 0

/-- `vredux` (R153). -/
def execVredux (g : Grp) (o : OpVR) (s : State) : Outcome :=
  let t := redTy g
  execFixed g 6 (fun _ _ _ => vecUses g [(o.d.toNat, 1), (o.a.toNat, 1)])
    (fun _ x i =>
      let p := partMask x i g
      let r := outWords 1 (packElems t.w 32 (fun k => reduxElem g t o.op.toNat (laneElems x t p o.a.toNat k)))
      vecWrites x i g o.d.toNat 1 (fun _ => r)) s

/-- A left-to-right combination of elements (R154). -/
def scanOf (grp : Grp) (t : RedTy) (op : Nat) (xs : List Nat) : Nat :=
  if grp.fields.sat then satSum t xs
  else match xs with
    | [] => redIdentity t op
    | x :: rest => rest.foldl (redOp t op) x

/-- A scan: each lane of P combines the lanes of P below it, itself too for the inclusive scan (R154). -/
def scan (inclusive : Bool) (grp : Grp) (o : OpVR) (s : State) : Outcome :=
  let t := redTy grp
  execFixed grp 6 (fun _ _ _ => vecUses grp [(o.d.toNat, 1), (o.a.toNat, 1)])
    (fun _ x i =>
      let p := partMask x i grp
      vecWrites x i grp o.d.toNat 1 (fun l =>
        outWords 1 (packElems t.w 32 (fun k =>
          scanOf grp t o.op.toNat (((laneElems x t p o.a.toNat k).take (if inclusive then l + 1 else l)).filterMap id))))) s

/-- `vscan.in` (R154). -/
def execVscanIn (g : Grp) (o : OpVR) (s : State) : Outcome := scan true g o s
/-- `vscan.ex` (R154). -/
def execVscanEx (g : Grp) (o : OpVR) (s : State) : Outcome := scan false g o s
/-- `vmatch`: the lanes of P that hold the same bits (R155). -/
def execVmatch (g : Grp) (o : OpV2) (s : State) : Outcome :=
  vecOp g 6 o.d.toNat 1 [(o.a.toNat, 1)]
    (fun _ x i l => [maskOf ((lanesOf (partMask x i g)).filter (fun j => x.lane? o.a.toNat j == x.lane? o.a.toNat l))]) s

end Sys2Proof.Machine
end

