-- ==== Sys2Proof/Machine/Registers.lean ====
section
/-! DEFINITION. BAR0: where its registers lie, what they read, and what writing them does (R13, R14, R274, R281, R289, R324,
R329, R331, R333, R347, R354, R359, R384, R401, R411, R414 to R419). -/

namespace Sys2Proof.Machine

/-- What an offset of a function's BAR0 names (R416, R417). -/
inductive RegSite where
  | package (offset : Nat)
  | part (n offset : Nat)
  | ctx (key offset : Nat)
  | none
  deriving DecidableEq, Repr

/-- A partition block's part (R416). -/
def blockSite (part offset : Nat) : RegSite :=
  if offset < 0x10000 then .part part offset
  else if offset < 0x110000 then .ctx (spaceKey part ((offset - 0x10000) / 0x1000)) (offset % 0x1000)
  else .none

/-- The part of BAR0 that a function sees at an offset (R416): the physical function sees the package block and every
partition's block, a virtual function its own partition's. -/
def regSite (s : State) (function offset : Nat) : RegSite :=
  if offset % 8 ≠ 0 then .none
  else if offset < 0x200000 then
    if function = 0 ∨ offset < 0x10 ∨ (0xF000 ≤ offset ∧ offset < 0xF0C8) then .package offset else .none
  else if function = 0 then
    let part := offset / 0x200000 - 1
    if (partitions s).any (fun x => decide (x.1 = part)) then blockSite part (offset % 0x200000) else .none
  else if offset < 0x400000 then
    match functionPart s function with | some (part, _) => blockSite part (offset - 0x200000) | none => .none
  else .none

/-! Reads. -/

/-- A field placed at a bit. -/
def place (lo n : Nat) : Nat := n * 2 ^ lo
/-- A base address register's bits [56:lo] (R14). -/
def baseField (lo n : Nat) : Nat := n % 2 ^ 57 / 2 ^ lo * 2 ^ lo

/-- MCH_HASH (R324). -/
def readHash (c : Channel) : Nat :=
  c.cur + place 3 c.old + place 6 c.active.toNat + place 7 c.auto.toNat + place 8 c.tgt + place 16 c.bound
/-- LNK_PORT (R384). -/
def readPort (p : Port) : Nat :=
  p.up.toNat + place 1 p.train.toNat + place 2 p.en.toNat + place 8 p.peer + place 14 p.peerValid.toNat + place 16 p.replays + place 32 p.retrains
/-- CLK_STAT (R419). -/
def readClock (p : Pkg) : Nat := p.aclk + place 12 p.throttled.toNat + place 13 p.reason.toNat + place 16 p.floor

/-- The mailbox of a function (R414). -/
def readMailbox (m : Mailbox) (offset : Nat) : Nat :=
  if offset < 0xF040 then (tget (0 : W64) m.toFirmware ((offset - 0xF000) / 8)).toNat
  else if offset = 0xF040 then place 1 m.busy.toNat
  else if 0xF080 ≤ offset ∧ offset < 0xF0C0 then (tget (0 : W64) m.toHost ((offset - 0xF080) / 8)).toNat
  else if offset = 0xF0C0 then m.valid.toNat
  else 0

/-- A register of the package block (R417, R418). ID.STEP reads 0 (notes/assumptions/4.md). -/
def readPackage (s : State) (function o : Nat) : Nat :=
  let p := s.pkg
  if 0xF000 ≤ o ∧ o < 0xF0C8 then readMailbox (s.mailbox function) o
  else if o = 0 then (if p.mini then 0x714D else 0x7140)
  else if o = 8 then p.phase + place 8 p.code
  else if p.phase ≠ 6 then 0
  else if o = 0x10 then readClock p
  else if o = 0x18 then p.twarn.toNat + place 16 0x730
  else if 0x100 ≤ o ∧ o < 0x600 then ((aget p.temps ((o - 0x100) / 8)).getD 0).toNat
  else if 0x600 ≤ o ∧ o < 0x680 then
    let x := s.supply ((o - 0x600) / 8)
    x.mv % 2 ^ 16 + place 16 x.low.toNat + place 17 x.high.toNat
  else if 0x680 ≤ o ∧ o < 0x6A0 then ((aget p.procs ((o - 0x680) / 8)).getD 0).toNat
  else if 0x700 ≤ o ∧ o < 0x780 then (Config.vlow ((o - 0x700) / 8)).toNat + place 16 (Config.vhigh ((o - 0x700) / 8)).toNat
  else if o = 0x1000 then p.cthr
  else if o = 0x1008 then p.lowq + place 8 p.deadline + place 24 p.scrubEn.toNat
  else if 0x1100 ≤ o ∧ o < 0x1180 then
    let e := s.ecc ((o - 0x1100) / 16)
    if o % 16 = 0 then e.corr + place 16 e.uncorr else e.addr % 2 ^ 52 / 32 * 32 + place 63 e.valid.toNat
  else if 0x2000 ≤ o ∧ o < 0x4000 then
    let c := s.channel ((o - 0x2000) / 32)
    match o % 32 with
    | 0 => readHash c
    | 8 => c.last + place 32 c.changes
    | 16 => c.pos + place 26 (scrubLevel s c) + place 32 c.passes + place 48 c.missed
    | _ => 0
  else if 0x4000 ≤ o ∧ o < 0x4090 then readPort (s.port ((o - 0x4000) / 8))
  else if 0x4100 ≤ o ∧ o < 0x4300 then ((aget p.routes ((o - 0x4100) / 8)).getD 0).toNat
  else 0

/-- FLT_STAT (R347, R348). -/
def readFaultStat (s : State) (part : Nat) : Nat :=
  let p := s.part part
  ((p.dieList part).map (fun d => min 64 (s.die d).hold.length)).sum + place 16 p.badResp + 
    place 32 (min 0xFFFF (p.openRecords.filter (fun x => recordLive s part x.1 x.2)).length)

/-- A register of a partition block (R417). -/
def readPart (s : State) (n o : Nat) : Nat :=
  let p := s.part n
  match o with
  | 0x000 => p.fltLog + baseField 6 p.fltBase
  | 0x008 => p.fltProd.toNat + place 32 p.fltCons.toNat
  | 0x010 => p.hqLog + baseField 6 p.hqBase
  | 0x018 => p.hqProd.toNat + place 32 p.hqCons.toNat
  | 0x028 => readFaultStat s n
  | 0x040 => baseField 12 p.sd.va
  | 0x048 => p.sd.aspace + place 8 p.sd.log + place 14 p.sd.all.toNat + place 16 p.busy.toNat
  | 0x080 => p.asserted.toNat + place 1 p.stopped.toNat + place 2 p.tornDown.toNat + place 8 p.cause + place 16 p.causeAspace + place 32 p.count.toNat
  | 0x090 => baseField 12 p.stopBase
  | 0x098 => baseField 12 p.dumpBase
  | 0x0A0 => p.dumpSize
  | 0x0C0 => p.nthr + place 32 p.ndrop
  | 0x0C8 => p.nqLog + baseField 4 p.nqBase
  | 0x0D0 => p.nqProd.toNat + place 32 p.nqCons.toNat
  | 0x100 => p.lnkAccept.toNat
  | 0x108 => p.octCfg.toNat
  | 0x110 => p.octTown.toNat
  | 0x118 => p.collGt.toNat
  | _ => 0

/-- PROGB: WAITS, PLACE and BUSY of a context (R274). -/
def readProgress (s : State) (key : Nat) : Nat :=
  let mine (p a : Nat) : Bool := decide (spaceKey p a = key)
  let ours (n : Nat) : Bool := match s.launch? n with | some l => mine l.part l.aspace | none => false
  let waits := (s.gangs.filter (fun x => mine x.2.part x.2.aspace && (match x.2.phase with | .waiting w => !w.held | _ => false))).length
  let crews := ((s.launches.filter (fun x => mine x.2.part x.2.aspace)).map (fun x => x.2.crews - x.2.placed.length - x.2.released.length)).sum
  let items := (s.dies.map (fun x => (x.2.spawns.filter (fun i => mine i.part i.aspace)).length +
    (x.2.items.filter (fun i => mine i.part i.aspace)).length)).sum
  let busy := (s.cmds.filter (fun x => mine x.2.part x.2.aspace)).length +
    (s.cores.map (fun x => (x.2.ops.filter (fun o => ours (o.crewKey / 2 ^ 32))).length)).sum
  min 0xFFFF waits + place 16 (min 0xFFFF (crews + items)) + place 32 (min 0xFFFF busy)

/-- A launch queue's registers (R418). -/
def readQueue (q : LaunchQueue) : Nat → Nat
  | 0 => q.q + baseField 7 q.base
  | 8 => baseField 3 q.consAddr
  | 16 => place 32 q.cons.toNat
  | _ => 0

/-- A register of a context block (R281, R401, R417, R418). -/
def readCtx (s : State) (key o : Nat) : Nat :=
  let c := s.ctx key
  match o with
  | 0x000 => c.en.toNat + place 1 c.becalm.toNat + place 2 c.scheck.toNat
  | 0x008 => c.root
  | 0x010 => c.pasid + place 20 c.pv.toNat
  | 0x018 => c.privLog + baseField 12 c.privBase
  | 0x040 => place 2 c.preBusy.toNat + place 3 c.preOff.toNat + place 16 c.preHeld + place 32 c.preDisc
  | 0x048 => c.dispatched.toNat
  | 0x050 => readProgress s key
  | 0x080 => c.stashBase.toNat
  | 0x088 => c.stashCfg.toNat
  | 0x090 => c.stashOcc.toNat
  | 0x098 => c.stashSpill.toNat
  | _ => if 0x100 ≤ o ∧ o < 0x180 then readQueue (c.queue ((o - 0x100) / 32)) (o % 32) else 0

/-- What an aligned 8-byte read of a function's BAR0 returns (R13, R411, R416). -/
def readRegister (s : State) (function offset : Nat) : W64 :=
  match regSite s function offset with
  | .package o => w64 (readPackage s function o)
  | .part n o => if s.pkg.phase = 6 then w64 (readPart s n o) else 0
  | .ctx key o => if s.pkg.phase = 6 then w64 (readCtx s key o) else 0
  | .none => 0

/-- What a read of a function's BAR0 returns: an aligned 8-byte read the register, an aligned 4-byte read the addressed half of it; the
spec gives no other size (R416). Once the clocks have stopped the link is down, and nothing is returned (R420). -/
def readBar0 (s : State) (function offset size : Nat) : Option W64 :=
  if s.pkg.tripped then none
  else if size = 8 ∧ offset % 8 = 0 then some (readRegister s function offset)
  else if size = 4 ∧ offset % 4 = 0 then
    some (w64 ((readRegister s function (offset / 8 * 8)).toNat / 2 ^ (8 * (offset % 8)) % 2 ^ 32))
  else none

/-! Writes. -/

/-- A write of a mailbox's registers (R414). -/
def writeMailbox (s : State) (f o : Nat) (v : W64) : Outcome :=
  let m := s.mailbox f
  if o < 0xF040 then .next (s.setMailbox f { m with toFirmware := tset 0 m.toFirmware ((o - 0xF000) / 8) v })
  else if o = 0xF040 then .next (if bit v 0 && !m.busy then s.setMailbox f { m with busy := true, sent := m.toFirmware } else s)
  else if o = 0xF0C0 ∧ bit v 0 then execMailboxAck f s
  else .next s

/-- The fields of an LNK_ROUTE entry: a port and a valid bit for each choice (R384). -/
def routeMask : W64 := 0x3F3F3F3F

/-- A write of a port's EN (R384): a port that is disabled goes down. -/
def writePort (s : State) (n : Nat) (v : W64) : State :=
  let p := s.port n
  if bit v 2 then s.setPort n { p with en := true }
  else (if p.up then portDown s n else s).setPort n { (if p.up then (portDown s n).port n else p) with en := false, train := false }

/-- A write of MCH_HASH (R322, R324). -/
def writeHash (s : State) (k : Nat) (v : W64) : Outcome :=
  let s1 := s.setChannel k { s.channel k with auto := bit v 7, tgt := bits v 10 8 }
  if bit v 11 then execRemapGo k (BitVec.ofNat 3 (bits v 10 8)) s1 else .next s1

/-- A write of a package register (R324, R329, R331, R384, R419). -/
def writePackage (s : State) (o : Nat) (v : W64) : Outcome :=
  let p := s.pkg
  if o = 0x10 then
    let floor := min 1750 (max 875 (bits v 27 16))
    .next { s with pkg := { p with floor := floor, aclk := max floor p.aclk } }
  else if o = 0x18 then .next { s with pkg := { p with twarn := BitVec.ofNat 12 (bits v 11 0) } }
  else if 0x600 ≤ o ∧ o < 0x680 then execVmonFlagClear ((o - 0x600) / 8) (bit v 16) (bit v 17) s
  else if o = 0x1000 then .next { s with pkg := { p with cthr := bits v 16 0 } }
  else if o = 0x1008 then .next { s with pkg := { p with lowq := bits v 5 0, deadline := bits v 23 8, scrubEn := bit v 24 } }
  else if 0x1100 ≤ o ∧ o < 0x1180 then
    if o % 16 = 0 then (if bit v 32 then execEccCounterClear ((o - 0x1100) / 16) s else .next s)
    else if bit v 63 then execEccAddressValidClear ((o - 0x1100) / 16) s else .next s
  else if 0x2000 ≤ o ∧ o < 0x4000 ∧ o % 32 = 0 then writeHash s ((o - 0x2000) / 32) v
  else if 0x4000 ≤ o ∧ o < 0x4090 then .next (writePort s ((o - 0x4000) / 8) v)
  else if 0x4100 ≤ o ∧ o < 0x4300 then .next { s with pkg := { p with routes := aput p.routes ((o - 0x4100) / 8) (v &&& routeMask) } }
  else .next s

/-- A response written to FLT_RESP (R347, R349). -/
def writeResponse (s : State) (part : Nat) (v : W64) : Outcome :=
  match bits v 33 32 with
  | 0 => execFltRespReplay part (v.setWidth 32) s
  | 1 => execFltRespRequeue part (v.setWidth 32) s
  | 2 => execFltRespAbort part (v.setWidth 32) s
  | _ => let p := s.part part; .next (s.setPart part { p with badResp := min 0xFFFF (p.badResp + 1) })

/-- A write of MEM_ACNT (R333). -/
def writeCounters (s : State) (part : Nat) (v : W64) : Outcome :=
  let s1 := s.setPart part { s.part part with nthr := bits v 15 0 }
  if bit v 16 then execAccessCounterClear part s1 else .next s1

/-- A write of a partition register (R333, R347, R354, R359, R384). SQ_CTL.RELEASE is accepted from Unfort only. -/
def writePart (s : State) (n o : Nat) (v : W64) : Outcome :=
  let p := s.part n
  let set (q : Part) : Outcome := .next (s.setPart n q)
  match o with
  | 0x000 => set { p with fltLog := bits v 3 0, fltBase := baseField 6 v.toNat }
  | 0x008 => set { p with fltCons := w32 (bits v 63 32) }
  | 0x010 => set { p with hqLog := bits v 3 0, hqBase := baseField 6 v.toNat }
  | 0x018 => set { p with hqCons := w32 (bits v 63 32) }
  | 0x020 => writeResponse s n v
  | 0x040 => set { p with sd := { p.sd with va := baseField 12 v.toNat } }
  | 0x048 => execShootdown n v s
  | 0x088 => if bit v 1 then execKill n (bits v 15 8) s else .next s
  | 0x090 => set { p with stopBase := baseField 12 v.toNat }
  | 0x098 => set { p with dumpBase := baseField 12 v.toNat }
  | 0x0A0 => set { p with dumpSize := bits v 39 0 }
  | 0x0C0 => writeCounters s n v
  | 0x0C8 => set { p with nqLog := bits v 3 0, nqBase := baseField 4 v.toNat }
  | 0x0D0 => set { p with nqCons := w32 (bits v 63 32) }
  | 0x100 => set { p with lnkAccept := v }
  | 0x108 => set { p with octCfg := v &&& 0xFFFFFFFFFFFFFF0F }
  | 0x110 => set { p with octTown := v &&& 0x01FFFFFFFFFFFFFF }
  | 0x118 => set { p with collGt := v &&& 0x01FFFFFFFFFF8000 }
  | _ => .next s

/-- A write of CTX_CTL (R289, R418): BECALM and SCHECK keep their values while a crew or task is placed. -/
def writeControl (s : State) (key : Nat) (v : W64) : State :=
  let c := { s.ctx key with en := bit v 0 }
  s.setCtx key (if workPlaced s key then c
    else { c with becalm := if bit v 1 && !bit (cap0 s (key / 256)) 5 then c.becalm else bit v 1, scheck := bit v 2 })

/-- A write of CTX_PRIV (R418): while work is placed, only one that keeps BASE and raises LOGSZ, by the size it
acts as (notes/assumptions/104.md). -/
def writePriv (s : State) (key : Nat) (v : W64) : State :=
  let c := s.ctx key
  let eff (n : Nat) : Nat := max 16 (min 40 n)
  if workPlaced s key && !(decide (baseField 12 v.toNat = c.privBase) && decide (eff c.privLog < eff (bits v 5 0))) then s
  else s.setCtx key { c with privLog := bits v 5 0, privBase := baseField 12 v.toNat }

/-- A write of the pre-emption register (R281). -/
def writePreempt (s : State) (key : Nat) (v : W64) : Outcome :=
  if bit v 0 && bit v 1 then .next s
  else if bit v 0 then execPreemptionRequest (key / 256) (key % 256) s
  else if bit v 1 then execPreemptionResume (key / 256) (key % 256) s
  else .next s

/-- A write of a launch queue's registers (R254, R418). -/
def writeQueue (s : State) (key cls o : Nat) (v : W64) : Outcome :=
  let c := s.ctx key
  let q := c.queue cls
  match o with
  | 0 => .next (s.setCtx key (c.setQueue cls { q with q := bits v 4 0, base := baseField 7 v.toNat }))
  | 8 => .next (s.setCtx key (c.setQueue cls { q with consAddr := baseField 3 v.toNat }))
  | 16 => execLaunchDoorbell (key / 256) (key % 256) cls (v.setWidth 32) s
  | _ => .next s

/-- A write of a context register (R281, R401, R418). -/
def writeCtx (s : State) (key o : Nat) (v : W64) : Outcome :=
  let c := s.ctx key
  let stash (c1 : Ctx) : Outcome := .next (if workPlaced s key then s else s.setCtx key c1)
  match o with
  | 0x000 => .next (writeControl s key v)
  | 0x008 => .next (s.setCtx key { c with root := bits v 51 12 * 4096 })
  | 0x010 => .next (s.setCtx key { c with pasid := bits v 19 0, pv := bit v 20 })
  | 0x018 => .next (writePriv s key v)
  | 0x040 => writePreempt s key v
  | 0x080 => stash { c with stashBase := v &&& 0x01FFFFFFFFFFF000 }
  | 0x088 => stash { c with stashCfg := v &&& 0xFFFF001F }
  | 0x090 => stash { c with stashOcc := v &&& 0x01FFFFFFFFFFFFFC }
  | 0x098 => stash { c with stashSpill := v &&& 0x01FFFFFFFFFFF001 }
  | _ => if 0x100 ≤ o ∧ o < 0x180 then writeQueue s key ((o - 0x100) / 32) (o % 32) v else .next s

/-- `REGISTER_WRITE`: an 8-byte write of a function's BAR0; an aligned one acts, and before phase 6 only the mailbox takes writes
(R13, R14, R411, R416). -/
def execRegisterWrite (function offset : Nat) (value : W64) (s : State) : Outcome :=
  if 16 ≤ function then .next s
  else match regSite s function offset with
    | .package o => if 0xF000 ≤ o ∧ o < 0xF0C8 then writeMailbox s function o value
      else if s.pkg.phase = 6 ∧ function = 0 then writePackage s o value else .next s
    | .part n o => if s.pkg.phase = 6 then writePart s n o value else .next s
    | .ctx key o => if s.pkg.phase = 6 then writeCtx s key o value else .next s
    | .none => .next s

/-- A write of `size` bytes of a function's BAR0: one of other than 8 bytes is ignored (R416). -/
def writeBar0 (function offset size : Nat) (value : W64) (s : State) : Outcome :=
  if size = 8 then execRegisterWrite function offset value s else .next s

end Sys2Proof.Machine
end

