-- ==== Sys2Proof/Machine/Flags.lean ====
section
/-! DEFINITION. The hardware has no flag register: comparisons and tests give values (R100, R104). -/

namespace Sys2Proof.Machine

/-- The 64-bit result of a scalar comparison (R100). -/
def flag64 (b : Bool) : W64 := if b then 1 else 0

/-- Order of 64-bit words as i64. -/
def ltI (a b : W64) : Bool := decide (a.toInt < b.toInt)
/-- Order of 64-bit words as n64. -/
def ltN (a b : W64) : Bool := decide (a.toNat < b.toNat)
/-- Less or equal as i64. -/
def leI (a b : W64) : Bool := decide (a.toInt ≤ b.toInt)
/-- Less or equal as n64. -/
def leN (a b : W64) : Bool := decide (a.toNat ≤ b.toNat)

end Sys2Proof.Machine
end

