-- ==== Sys2Proof/Machine/Scalar.lean ====
section
/-! DEFINITION. The scalar ALU (major `0x01`) and the scalar immediates (major `0x02`): R98 to R103. -/

namespace Sys2Proof.Machine

/-- A fixed-latency scalar result from the three values of an S3 form: old `sd`, A and B (R99, R100). -/
def scalar3 (latency : Nat) (f : W64 → W64 → W64 → W64) (g : Grp) (o : OpS3) (s : State) : Outcome :=
  execFixed g latency (fun _ _ _ => Uses.of (regsS3 o))
    (fun _ x i => [.scalar o.d.toNat (f (x.readS i.slotB o.d.toNat) (x.readS i.slotB o.a.toNat) (x.readS i.slotB o.b.toNat))]) s

/-- An interlocked scalar result from A and B (R63, R101). -/
def scalarDiv (f : W64 → W64 → W64) (g : Grp) (o : OpS3) (s : State) : Outcome :=
  execInterlocked g (fun _ _ _ => Uses.of (regsS3 o))
    (fun _ x i => [.scalar o.d.toNat (f (x.readS i.slotB o.a.toNat) (x.readS i.slotB o.b.toNat))]) s

/-- A fixed-latency scalar result from A (R99, R100). -/
def scalar2 (f : W64 → W64) (g : Grp) (o : OpS2) (s : State) : Outcome :=
  execFixed g 2 (fun _ _ _ => Uses.of (regsS2 o)) (fun _ x i => [.scalar o.d.toNat (f (x.readS i.slotB o.a.toNat))]) s

/-- A fixed-latency scalar result from old `sd` and the widened immediate (R103). -/
def scalarImm (f : W64 → W64) (g : Grp) (o : OpSI) (s : State) : Outcome :=
  execFixed g 2 (fun _ _ _ => Uses.of (regsSI o)) (fun _ x i => [.scalar o.d.toNat (f (x.readS i.slotB o.d.toNat))]) s

/-- Signed division truncated toward zero, with the results of R101. -/
def divI (a b : W64) : W64 := if b = 0 then BitVec.allOnes 64 else BitVec.ofInt 64 (a.toInt.tdiv b.toInt)
/-- Unsigned division, with the results of R101. -/
def divN (a b : W64) : W64 := if b = 0 then BitVec.allOnes 64 else w64 (a.toNat / b.toNat)
/-- Signed remainder, carrying the sign of A, with the results of R101. -/
def remI (a b : W64) : W64 := if b = 0 then a else BitVec.ofInt 64 (a.toInt.tmod b.toInt)
/-- Unsigned remainder, with the results of R101. -/
def remN (a b : W64) : W64 := if b = 0 then a else w64 (a.toNat % b.toNat)

/-- The position of a bit field (R102). -/
def fieldPos (b : W64) : Nat := bits b 5 0
/-- The length of a bit field (R102). -/
def fieldLen (b : W64) : Nat := min (bits b 14 8) (64 - fieldPos b)
/-- The field of A that B describes (R102). -/
def fieldOf (a b : W64) : Nat := a.toNat / 2 ^ fieldPos b % 2 ^ fieldLen b
/-- The field sign-extended from its bit len - 1; 0 for a length of 0 (R102). -/
def fieldSigned (a b : W64) : W64 :=
  if fieldLen b = 0 then 0 else BitVec.ofInt 64 (sext (fieldLen b) (fieldOf a b))
/-- Old `sd` with the field replaced from the low bits of A (R102). -/
def fieldInsert (d a b : W64) : W64 :=
  let m : W64 := w64 ((2 ^ fieldLen b - 1) * 2 ^ fieldPos b)
  (d &&& ~~~m) ||| ((a <<< fieldPos b) &&& m)

/-- The low `w` bits of A, sign-extended (R100). -/
def signExt (w : Nat) (a : W64) : W64 := BitVec.ofInt 64 (sext w a.toNat)
/-- The low `w` bits of A, zero-extended (R100). -/
def zeroExt (w : Nat) (a : W64) : W64 := w64 (a.toNat % 2 ^ w)

/-- `sadd`: A + B (R100, R63). -/
def execSadd (g : Grp) (o : OpS3) (s : State) : Outcome := scalar3 2 (fun _ a b => a + b) g o s

/-- `ssub`: A - B (R100, R63). -/
def execSsub (g : Grp) (o : OpS3) (s : State) : Outcome := scalar3 2 (fun _ a b => a - b) g o s

/-- `smul`: the low 64 bits of A * B (R100, R63). -/
def execSmul (g : Grp) (o : OpS3) (s : State) : Outcome := scalar3 4 (fun _ a b => a * b) g o s

/-- `smulh.i`: bits [127:64] of the signed product (R100, R63). -/
def execSmulhI (g : Grp) (o : OpS3) (s : State) : Outcome := scalar3 4 (fun _ a b => BitVec.ofInt 64 (a.toInt * b.toInt / 2 ^ 64)) g o s

/-- `smulh.n`: bits [127:64] of the unsigned product (R100, R63). -/
def execSmulhN (g : Grp) (o : OpS3) (s : State) : Outcome := scalar3 4 (fun _ a b => w64 (a.toNat * b.toNat / 2 ^ 64)) g o s

/-- `sand`: A AND B (R100, R63). -/
def execSand (g : Grp) (o : OpS3) (s : State) : Outcome := scalar3 2 (fun _ a b => a &&& b) g o s

/-- `sor`: A OR B (R100, R63). -/
def execSor (g : Grp) (o : OpS3) (s : State) : Outcome := scalar3 2 (fun _ a b => a ||| b) g o s

/-- `sxor`: A XOR B (R100, R63). -/
def execSxor (g : Grp) (o : OpS3) (s : State) : Outcome := scalar3 2 (fun _ a b => a ^^^ b) g o s

/-- `sandn`: A AND NOT B (R100, R63). -/
def execSandn (g : Grp) (o : OpS3) (s : State) : Outcome := scalar3 2 (fun _ a b => a &&& ~~~b) g o s

/-- `sshl`: A shifted left by B[5:0] (R100, R63). -/
def execSshl (g : Grp) (o : OpS3) (s : State) : Outcome := scalar3 2 (fun _ a b => a <<< bits b 5 0) g o s

/-- `sshr`: A shifted logically right by B[5:0] (R100, R63). -/
def execSshr (g : Grp) (o : OpS3) (s : State) : Outcome := scalar3 2 (fun _ a b => a >>> bits b 5 0) g o s

/-- `ssar`: A shifted arithmetically right by B[5:0] (R100, R63). -/
def execSsar (g : Grp) (o : OpS3) (s : State) : Outcome := scalar3 2 (fun _ a b => a.sshiftRight (bits b 5 0)) g o s

/-- `smin.i`: the lesser as i64 (R100, R63). -/
def execSminI (g : Grp) (o : OpS3) (s : State) : Outcome := scalar3 2 (fun _ a b => if ltI b a then b else a) g o s

/-- `smin.n`: the lesser as n64 (R100, R63). -/
def execSminN (g : Grp) (o : OpS3) (s : State) : Outcome := scalar3 2 (fun _ a b => if ltN b a then b else a) g o s

/-- `smax.i`: the greater as i64 (R100, R63). -/
def execSmaxI (g : Grp) (o : OpS3) (s : State) : Outcome := scalar3 2 (fun _ a b => if ltI a b then b else a) g o s

/-- `smax.n`: the greater as n64 (R100, R63). -/
def execSmaxN (g : Grp) (o : OpS3) (s : State) : Outcome := scalar3 2 (fun _ a b => if ltN a b then b else a) g o s

/-- `scmp.eq`: A = B (R100, R63). -/
def execScmpEq (g : Grp) (o : OpS3) (s : State) : Outcome := scalar3 2 (fun _ a b => flag64 (a == b)) g o s

/-- `scmp.ne`: A and B differ (R100, R63). -/
def execScmpNe (g : Grp) (o : OpS3) (s : State) : Outcome := scalar3 2 (fun _ a b => flag64 (a != b)) g o s

/-- `scmp.lt.i`: A < B as i64 (R100, R63). -/
def execScmpLtI (g : Grp) (o : OpS3) (s : State) : Outcome := scalar3 2 (fun _ a b => flag64 (ltI a b)) g o s

/-- `scmp.lt.n`: A < B as n64 (R100, R63). -/
def execScmpLtN (g : Grp) (o : OpS3) (s : State) : Outcome := scalar3 2 (fun _ a b => flag64 (ltN a b)) g o s

/-- `scmp.le.i`: A at most B as i64 (R100, R63). -/
def execScmpLeI (g : Grp) (o : OpS3) (s : State) : Outcome := scalar3 2 (fun _ a b => flag64 (leI a b)) g o s

/-- `scmp.le.n`: A at most B as n64 (R100, R63). -/
def execScmpLeN (g : Grp) (o : OpS3) (s : State) : Outcome := scalar3 2 (fun _ a b => flag64 (leN a b)) g o s

/-- `ssel`: A if old `sd` is not 0, else B (R100, R63). -/
def execSsel (g : Grp) (o : OpS3) (s : State) : Outcome := scalar3 2 (fun d a b => if d ≠ 0 then a else b) g o s

/-- `sbfe.i`: the field, sign-extended (R102, R63). -/
def execSbfeI (g : Grp) (o : OpS3) (s : State) : Outcome := scalar3 2 (fun _ a b => fieldSigned a b) g o s

/-- `sbfe.n`: the field (R102, R63). -/
def execSbfeN (g : Grp) (o : OpS3) (s : State) : Outcome := scalar3 2 (fun _ a b => w64 (fieldOf a b)) g o s

/-- `sbfi`: old `sd` with a field replaced (R102, R63). -/
def execSbfi (g : Grp) (o : OpS3) (s : State) : Outcome := scalar3 2 (fun d a b => fieldInsert d a b) g o s

/-- `sadr.1`: A + (B << 1) (R100, R63). -/
def execSadr1 (g : Grp) (o : OpS3) (s : State) : Outcome := scalar3 2 (fun _ a b => a + (b <<< 1)) g o s

/-- `sadr.2`: A + (B << 2) (R100, R63). -/
def execSadr2 (g : Grp) (o : OpS3) (s : State) : Outcome := scalar3 2 (fun _ a b => a + (b <<< 2)) g o s

/-- `sadr.3`: A + (B << 3) (R100, R63). -/
def execSadr3 (g : Grp) (o : OpS3) (s : State) : Outcome := scalar3 2 (fun _ a b => a + (b <<< 3)) g o s

/-- `sdiv.i` (R100, R101). -/
def execSdivI (g : Grp) (o : OpS3) (s : State) : Outcome := scalarDiv divI g o s

/-- `sdiv.n` (R100, R101). -/
def execSdivN (g : Grp) (o : OpS3) (s : State) : Outcome := scalarDiv divN g o s

/-- `srem.i` (R100, R101). -/
def execSremI (g : Grp) (o : OpS3) (s : State) : Outcome := scalarDiv remI g o s

/-- `srem.n` (R100, R101). -/
def execSremN (g : Grp) (o : OpS3) (s : State) : Outcome := scalarDiv remN g o s

/-- `smov`: A (R100, R63). -/
def execSmov (g : Grp) (o : OpS2) (s : State) : Outcome := scalar2 (fun a => a) g o s

/-- `sclz`: leading zeros of A (R100, R63). -/
def execSclz (g : Grp) (o : OpS2) (s : State) : Outcome := scalar2 (fun a => w64 (clz 64 a.toNat)) g o s

/-- `sctz`: trailing zeros of A (R100, R63). -/
def execSctz (g : Grp) (o : OpS2) (s : State) : Outcome := scalar2 (fun a => w64 (ctz 64 a.toNat)) g o s

/-- `spopc`: set bits of A (R100, R63). -/
def execSpopc (g : Grp) (o : OpS2) (s : State) : Outcome := scalar2 (fun a => w64 (popcount 64 a.toNat)) g o s

/-- `sbrev`: A with its bits reversed (R100, R63). -/
def execSbrev (g : Grp) (o : OpS2) (s : State) : Outcome := scalar2 (fun a => w64 (brev 64 a.toNat)) g o s

/-- `sxt.i8`: A[7:0], sign-extended (R100, R63). -/
def execSxtI8 (g : Grp) (o : OpS2) (s : State) : Outcome := scalar2 (fun a => signExt 8 a) g o s

/-- `sxt.i16`: A[15:0], sign-extended (R100, R63). -/
def execSxtI16 (g : Grp) (o : OpS2) (s : State) : Outcome := scalar2 (fun a => signExt 16 a) g o s

/-- `sxt.i32`: A[31:0], sign-extended (R100, R63). -/
def execSxtI32 (g : Grp) (o : OpS2) (s : State) : Outcome := scalar2 (fun a => signExt 32 a) g o s

/-- `sxt.n8`: A[7:0], zero-extended (R100, R63). -/
def execSxtN8 (g : Grp) (o : OpS2) (s : State) : Outcome := scalar2 (fun a => zeroExt 8 a) g o s

/-- `sxt.n16`: A[15:0], zero-extended (R100, R63). -/
def execSxtN16 (g : Grp) (o : OpS2) (s : State) : Outcome := scalar2 (fun a => zeroExt 16 a) g o s

/-- `sxt.n32`: A[31:0], zero-extended (R100, R63). -/
def execSxtN32 (g : Grp) (o : OpS2) (s : State) : Outcome := scalar2 (fun a => zeroExt 32 a) g o s

/-- `sli`: the sign-extended immediate (R103, R63). -/
def execSli (g : Grp) (o : OpSI) (s : State) : Outcome := scalarImm (fun _ => immX g o.imm) g o s

/-- `slui`: the zero-extended immediate (R103, R63). -/
def execSlui (g : Grp) (o : OpSI) (s : State) : Outcome := scalarImm (fun _ => immZ g o.imm) g o s

/-- `saddi`: old `sd` plus the sign-extended immediate (R103, R63). -/
def execSaddi (g : Grp) (o : OpSI) (s : State) : Outcome := scalarImm (fun d => d + immX g o.imm) g o s

/-- `sandi`: old `sd` AND the sign-extended immediate (R103, R63). -/
def execSandi (g : Grp) (o : OpSI) (s : State) : Outcome := scalarImm (fun d => d &&& immX g o.imm) g o s

end Sys2Proof.Machine
end

