-- ==== Sys2Proof/Machine/Special.lean ====
section
/-! DEFINITION. Special functions (major `0x11`): R147, R148. Roots and reciprocals are computed exactly; the
transcendental functions in fixed point with 768 fraction bits, then rounded once (notes/assumptions/9.md). -/

namespace Sys2Proof.Machine

/-- floor(sqrt x) for x below 4^n. -/
def isqrt : (n : Nat) → (x : Nat) → Nat
  | 0, _ => 0
  | n + 1, x => let r := 2 * isqrt n (x / 4); if (r + 1) * (r + 1) ≤ x then r + 1 else r

/-- A positive root known to a unit, with a last bit that is set when the root is not exact: it rounds as the root does. -/
def sticky (root : Nat) (exact : Bool) (e : Int) : FVal := .fin false (2 * root + (if exact then 0 else 1)) (e - 1)

/-- The square root of m * 2^e, m > 0. -/
def sqrtVal (m : Nat) (e : Int) : FVal :=
  let (m, e) := if e % 2 = 0 then (m, e) else (2 * m, e - 1)
  let x := m * 4 ^ 128
  let r := isqrt 256 x
  sticky r (r * r == x) (e / 2 - 128)

/-- The reciprocal square root of m * 2^e, m > 0. -/
def rsqrtVal (m : Nat) (e : Int) : FVal :=
  let (m, e) := if e % 2 = 0 then (m, e) else (2 * m, e - 1)
  let r := isqrt 256 (4 ^ 160 / m)
  sticky r (r * r * m == 4 ^ 160) (-(e / 2) - 160)

/-! Fixed point: a number x stands for x / 2^768. -/

/-- The fraction bits. -/
def fxBits : Nat := 768
/-- One. -/
def fxOne : Nat := 2 ^ fxBits
/-- A product. -/
def fxMul (a b : Nat) : Nat := a * b / fxOne
/-- The fixed-point number of m * 2^e. -/
def fxOf (m : Nat) (e : Int) : Nat := if 0 ≤ e + fxBits then m * 2 ^ (e + fxBits).toNat else m / 2 ^ (e + fxBits).natAbs

/-- The sum of term / (2k + 1) over odd powers: `n` terms of the series of atanh (`alt` false) or atan (`alt` true), from the
power `t` of the argument with square `z`. -/
def fxOdd (alt : Bool) (z : Nat) : (n k : Nat) → (t : Nat) → Int
  | 0, _, _ => 0
  | n + 1, k, t => (if alt && k % 2 == 1 then -((t / (2 * k + 1) : Nat) : Int) else ((t / (2 * k + 1) : Nat) : Int)) + fxOdd alt z n (k + 1) (fxMul t z)

/-- atanh z for 0 ≤ z ≤ 1/3, or atan z for small z. -/
def fxAtan (alt : Bool) (z : Nat) : Nat := (fxOdd alt (fxMul z z) 260 0 z).toNat

/-- ln 2 = 2 atanh(1/3). -/
def fxLn2 : Nat := 2 * fxAtan false (fxOne / 3)
/-- pi = 16 atan(1/5) - 4 atan(1/239). -/
def fxPi : Nat := 16 * fxAtan true (fxOne / 5) - 4 * fxAtan true (fxOne / 239)

/-- The terms of the series of exp from y^k / k!. -/
def fxExpFrom (y : Nat) : (n k : Nat) → (t : Nat) → Nat
  | 0, _, _ => 0
  | n + 1, k, t => t + fxExpFrom y n (k + 1) (fxMul t y / (k + 1))

/-- exp y for 0 ≤ y < 1. -/
def fxExp (y : Nat) : Nat := fxExpFrom y 180 0 fxOne

/-- The terms of the series of sin from y^(2k+1) / (2k+1)!. -/
def fxSinFrom (z : Nat) : (n k : Nat) → (t : Nat) → Int
  | 0, _, _ => 0
  | n + 1, k, t => (if k % 2 = 1 then -(t : Int) else (t : Int)) + fxSinFrom z n (k + 1) (fxMul t z / ((2 * k + 2) * (2 * k + 3)))

/-- sin(pi t) for 0 ≤ t ≤ 1/2. -/
def fxSinPi (t : Nat) : Nat := let y := fxMul fxPi t; (fxSinFrom (fxMul y y) 100 0 y).toNat

/-- A fixed-point magnitude as a value. -/
def fxVal (neg : Bool) (x : Nat) : FVal := if x = 0 then .zero neg else .fin neg x (-(fxBits : Int))

/-- One, with a sign. -/
def oneVal (neg : Bool) : FVal := .fin neg 1 0

/-- 2^a. Beyond the range of every format the value only overflows or underflows, whatever its digits. -/
def exp2Val (neg : Bool) (m : Nat) (e : Int) : FVal :=
  if 10 ≤ floorExp m e then .fin false 3 (if neg then -1200 else 1200)
  else
    let x := fxOf m e
    let n := x / fxOne
    let f := x % fxOne
    if f = 0 then .fin false 1 (if neg then -(n : Int) else n)
    else if neg then .fin false (fxExp (fxMul (fxOne - f) fxLn2)) (-(n : Int) - 1 - fxBits)
    else .fin false (fxExp (fxMul f fxLn2)) ((n : Int) - fxBits)

/-- log2 of m * 2^e, m > 0. -/
def log2Val (m : Nat) (e : Int) : FVal :=
  let k := Nat.log2 m
  let x := floorExp m e
  let c : Int := (m : Int) - 2 ^ k
  if c = 0 then FVal.ofInt x
  else
    let z := (m - 2 ^ k) * fxOne / (m + 2 ^ k)
    let l : Int := (2 * fxAtan false z * fxOne / fxLn2 : Nat)
    let y := x * (fxOne : Int) + l
    .fin (decide (y < 0)) y.natAbs (-(fxBits : Int))

/-- sin(pi a): the sign of zero is a's (R148). -/
def sinPiVal (neg : Bool) (m : Nat) (e : Int) : FVal :=
  let t := fxOf m e % (2 * fxOne)
  let (flip, t) := if fxOne ≤ t then (true, t - fxOne) else (false, t)
  let t := if fxOne < 2 * t then fxOne - t else t
  if t = 0 then .zero neg
  else if 2 * t = fxOne then oneVal (neg != flip)
  else fxVal (neg != flip) (fxSinPi t)

/-- cos(pi a): +0 at every half (R148). -/
def cosPiVal (m : Nat) (e : Int) : FVal :=
  let t := fxOf m e % (2 * fxOne)
  let t := if fxOne < t then 2 * fxOne - t else t
  let (flip, t) := if fxOne < 2 * t then (true, fxOne - t) else (false, t)
  if t = 0 then oneVal flip
  else if 2 * t = fxOne then .zero false
  else fxVal flip (fxSinPi (fxOne / 2 - t))

/-- tanh a. From 64 up it lies between 1 - 2^-128 and 1, where every rounding of every format agrees. -/
def tanhVal (neg : Bool) (m : Nat) (e : Int) : FVal :=
  if 6 ≤ floorExp m e then .fin neg (2 ^ 128 - 1) (-128)
  else
    let y := 2 * fxOf m e
    let n := y / fxLn2
    let r := y - n * fxLn2
    let x := fxOne * fxOne / (fxExp r * 2 ^ n)
    .fin neg ((fxOne - x) * fxOne / (fxOne + x)) (-(fxBits : Int))

/-- A special function of one element (R147, R148): NaN operands are quieted, `f` gives the other values exactly. -/
def vspecial (f : FVal → FVal) (grp : Grp) (o : OpV2) (s : State) : Outcome :=
  let t := fmtOf (typeOf grp 7)
  let p := grp.fields
  vecOp grp 12 o.d.toNat 1 [(o.a.toNat, 1)]
    (fun _ g _ l => outWords 1 (packElems t.width 32 (fun k =>
      match t.val (floatElem t p.abs p.nega (g.operand o.a.toNat 1 l) k) with
      | .nan n q => nanCode t n q
      | x => (f x).round t (rndOf grp) false 0))) s

/-- 1/a of m * 2^e: the quotient to 400 bits beyond the format, with a sticky bit. -/
def rcpVal (neg : Bool) (m : Nat) (e : Int) : FVal :=
  let q := 2 ^ 400 / m
  let x := sticky q (q * m == 2 ^ 400) (-e - 400)
  if neg then x.neg else x

/-- `vrcp` (R147, R148). -/
def execVrcp (g : Grp) (o : OpV2) (s : State) : Outcome :=
  vspecial (fun x => match x with
    | .zero n => .inf n | .inf n => .zero n | .fin n m e => rcpVal n m e | x => x) g o s
/-- `vrsq` (R147, R148). -/
def execVrsq (g : Grp) (o : OpV2) (s : State) : Outcome :=
  vspecial (fun x => match x with
    | .zero n => .inf n | .inf n => if n then .canonical else .zero false
    | .fin n m e => if n then .canonical else rsqrtVal m e | x => x) g o s
/-- `vsqrt` (R147, R148). -/
def execVsqrt (g : Grp) (o : OpV2) (s : State) : Outcome :=
  vspecial (fun x => match x with
    | .inf n => if n then .canonical else .inf false
    | .fin n m e => if n then .canonical else sqrtVal m e | x => x) g o s
/-- `vexp2` (R147, R148). -/
def execVexp2 (g : Grp) (o : OpV2) (s : State) : Outcome :=
  vspecial (fun x => match x with
    | .zero _ => oneVal false | .inf n => if n then .zero false else .inf false
    | .fin n m e => exp2Val n m e | x => x) g o s
/-- `vlog2` (R147, R148). -/
def execVlog2 (g : Grp) (o : OpV2) (s : State) : Outcome :=
  vspecial (fun x => match x with
    | .zero _ => .inf true | .inf n => if n then .canonical else .inf false
    | .fin n m e => if n then .canonical else log2Val m e | x => x) g o s
/-- `vsinp` (R147, R148). -/
def execVsinp (g : Grp) (o : OpV2) (s : State) : Outcome :=
  vspecial (fun x => match x with
    | .inf _ => .canonical | .fin n m e => sinPiVal n m e | x => x) g o s
/-- `vcosp` (R147, R148). -/
def execVcosp (g : Grp) (o : OpV2) (s : State) : Outcome :=
  vspecial (fun x => match x with
    | .zero _ => oneVal false | .inf _ => .canonical | .fin _ m e => cosPiVal m e | x => x) g o s
/-- `vtanh` (R147, R148). -/
def execVtanh (g : Grp) (o : OpV2) (s : State) : Outcome :=
  vspecial (fun x => match x with
    | .inf n => oneVal n | .fin n m e => tanhVal n m e | x => x) g o s

end Sys2Proof.Machine
end

