-- ==== Sys2Proof/Machine/Splat.lean ====
section
/-! DEFINITION. The hash grid (major `0x27`) and splat compositing (major `0x28`): R228 to R234. -/

namespace Sys2Proof.Machine

/-- A value rounded to f32. -/
def r32 (x : FVal) : FVal := valF32 (roundF32 x .rne 0)
/-- A rounded f32 product. -/
def mulR (a b : FVal) : FVal := r32 (a.mul b)
/-- A rounded f32 sum. -/
def addR (a b : FVal) : FVal := r32 (a.add .rne b)
/-- A rounded f32 difference. -/
def subR (a b : FVal) : FVal := match a with | .nan _ _ => r32 a | _ => (match b with | .nan _ _ => r32 b | _ => addR a b.neg)
/-- `RoundF32(c + a × b)`, rounded once; the first NaN of c, a and b wins (notes/assumptions/25.md). -/
def accR (c a b : FVal) : FVal :=
  match c with | .nan _ _ => r32 c | _ => r32 (a.fma .rne b c)
/-- The bits of an f32 value. -/
def bitsOf (x : FVal) : W32 := roundF32 x .rne 0
/-- The value 1. -/
def oneF : FVal := .fin false 1 0

/-! The hash grid (R228 to R231). -/

/-- The descriptor block of a hash-grid instruction (R228). -/
structure GridBlock where
  fbase : Nat
  levels : Nat
  logT : Nat
  gbase : Nat

/-- The register of the block. -/
def blockReg (g : Gang) (i : Issue) (o : OpVH) (j : Nat) : W64 := g.readS i.slotB (o.b.toNat + j)
/-- The block's fields. -/
def gridBlock (g : Gang) (i : Issue) (o : OpVH) : GridBlock :=
  { fbase := bits (blockReg g i o 0) 56 0, levels := bits (blockReg g i o 1) 4 0, logT := bits (blockReg g i o 1) 12 8,
    gbase := bits (blockReg g i o 6) 56 0 }
/-- RES of a level (R228). -/
def gridRes (g : Gang) (i : Issue) (o : OpVH) (l : Nat) : Nat := bits (blockReg g i o (2 + l / 4)) (16 * (l % 4) + 15) (16 * (l % 4))

/-- Grounds for `ILLEGAL_OP` of a descriptor block (R228). -/
def gridIllegal (g : Gang) (i : Issue) (o : OpVH) : Bool :=
  let b := gridBlock g i o
  decide (bits (blockReg g i o 0) 63 57 ≠ 0) || decide (bits (blockReg g i o 6) 63 57 ≠ 0) || decide (blockReg g i o 7 ≠ 0)
    || decide (bits (blockReg g i o 1) 7 5 ≠ 0) || decide (bits (blockReg g i o 1) 63 13 ≠ 0)
    || decide (b.levels = 0) || decide (16 < b.levels) || decide (24 < b.logT)
    || (List.range b.levels).any (fun l => decide (gridRes g i o l = 0))

/-- `Clamp01` (R229): the value below 1 as a magnitude and a power of two. -/
def clamp01 (x : FVal) : Nat × Int :=
  match x with
  | .nan _ _ => (0, 0) | .zero _ => (0, 0) | .inf true => (0, 0) | .inf false => (0xFFFFFF, -24)
  | .fin true _ _ => (0, 0)
  | .fin false m e => let (n, d) := fracOf m e; if d ≤ n then (0xFFFFFF, -24) else (m, e)

/-- Along one axis: the cell and the two weights, of the lower and the upper corner (R229). -/
def gridAxis (x : FVal) (n : Nat) : Nat × FVal × FVal :=
  let (m, e) := clamp01 x
  let (num, den) := fracOf (m * n) e
  let rem := num % den
  let f : FVal := if rem = 0 then .zero false else r32 (.fin false rem (min e 0))
  (num / den, subR oneF f, f)

/-- The corners of a lane at a level: weight and index (R229). -/
def gridCorners (xs : List FVal) (n logT : Nat) : List (FVal × Nat) :=
  let ax := xs.map (fun x => gridAxis x n)
  let at' (k : Nat) := tget (0, FVal.zero false, FVal.zero false) ax k
  (List.range 8).map (fun c =>
    let d (k : Nat) := c / 2 ^ k % 2
    let q (k : Nat) := (at' k).1 + d k
    let w (k : Nat) := if d k = 1 then (at' k).2.2 else (at' k).2.1
    let idx := if (n + 1) ^ 3 ≤ 2 ^ logT then q 0 + (n + 1) * (q 1 + (n + 1) * q 2)
      else Nat.xor (q 0) (Nat.xor (q 1 * 0x9C3B5A27 % 2 ^ 32) (q 2 * 0x6F1DE8C5 % 2 ^ 32)) % 2 ^ logT
    (mulR (mulR (w 0) (w 1)) (w 2), idx))

/-- The corners of a lane at a level of the gang's block. -/
def laneCorners (g : Gang) (i : Issue) (o : OpVH) (l level : Nat) : List (FVal × Nat) :=
  gridCorners ((List.range 3).map (fun a => valF32 (g.lane? (o.a.toNat + a) l))) (gridRes g i o level) (gridBlock g i o).logT

/-- The addresses a lane reaches, level by level and corner by corner: entries of `size` bytes from `base` (R229). -/
def gridAddresses (g : Gang) (i : Issue) (o : OpVH) (base size : Nat) (l : Nat) : List Nat :=
  let b := gridBlock g i o
  (List.range b.levels).flatMap (fun level => (laneCorners g i o l level).map (fun c => base + size * (level * 2 ^ b.logT + c.2)))

/-- What a hash-grid instruction names and needs (R228). -/
def gridUses (perLevel : Nat) (grad : Bool) (grp : Grp) (o : OpVH) (s : State) (g : Gang) (i : Issue) : Uses :=
  let b := o.b.toNat
  let blk := gridBlock g i o
  let bad := gridIllegal g i o
  { Uses.vec ((List.range (min 8 (64 - b))).map (fun j => .s (b + j)) ++ regGroup o.a.toNat 3 ++
      (if bad then [] else regGroup o.d.toNat (perLevel * blk.levels)) ++ [.m grp.fields.mask.toNat]) with
    illegal := decide (b = 56)
    noUnit := s.pkg.mini
    illegalState := b % 8 == 0 && bad
    misaligned := decide (b % 8 ≠ 0) || decide (blk.fbase % 4 ≠ 0) || (grad && decide (blk.gbase % 8 ≠ 0)) }

/-- A hash-grid lane's access fails at its home (R329, R375, R378): the access, the class, the detail, and whether it is an error of
main memory. -/
def gridBad (s : State) (g : Gang) (oks : List (Access × W64)) : Option (Access × FaultClass × Nat × Bool) :=
  oks.findSome? (fun (a, _) =>
    if s.unreachable a.pa then some (a, .eccUncorr, a.pa, false)
    else if s.refuses a.pa then some (a, .xlatPerm, 0, false)
    else if aperture a.pa = 0 && s.bad (memKey g.part a.pa) then some (a, .eccUncorr, a.pa / 32 * 32, true)
    else none)

/-- The f16 features of an entry with the gang's buffered stores applied (R162, R230). -/
def gridEntry (s : State) (g : Gang) (i : Issue) (a : Access) : Nat :=
  let stores := storesBefore g i.pos
  ofBytes ((mreadBytes s.mem (memKey g.part a.pa) 4).zipIdx.map (fun (b, j) => forward (a.pa + j) stores b))

/-- One feature of a level: the weighted sum of its corners (R230). -/
def gridFeature (k : Nat) (cs : List (FVal × Nat)) : Nat :=
  (cs.foldl (fun acc (w, e) => accR acc w (fF16.val (e / 2 ^ (16 * k) % 2 ^ 16))) (.zero false)).convert fF16 .rne false 0

/-- The lanes all of whose accesses are resident. -/
def wholeLanes (p : W32) (n : Nat) (oks : List (Access × W64)) : W32 :=
  maskOf ((lanesOf p).filter (fun l => decide ((oks.filter (fun a => decide (a.1.lane = l))).length = n)))

/-- The accesses of whole lanes. -/
def wholeAccesses (p : W32) (n : Nat) (oks : List (Access × W64)) : List (Access × W64) :=
  let whole := wholeLanes p n oks
  oks.filter (fun a => bit whole a.1.lane)

/-- The first access of a whole lane that fails at its home, if every lane has translated without another fault; nothing is sent for a
lane that missed (R334). -/
def gridFault (s : State) (g : Gang) (p : W32) (count : Nat) (r : LaneSet) : Option (Access × FaultClass × Nat × Bool) :=
  if r.torn || r.perm.isSome || r.ecc.isSome || r.wait.isSome then none else gridBad s g (wholeAccesses p count r.ok)

/-- The addresses that an `hgrid` reads. -/
def hgridAddresses (g : Gang) (i : Issue) (grp : Grp) (o : OpVH) : List (Nat × Nat) :=
  (lanesOf (partMask g i grp)).flatMap (fun l => (gridAddresses g i o (gridBlock g i o).fbase 4 l).map (fun va => (l, va)))

/-- The reads of an `hgrid` as one access, of whole lanes: they are performed as it issues (R230). -/
def hgridLoad (s : State) (g : Gang) (i : Issue) (grp : Grp) (o : OpVH) : Load :=
  { pos := i.pos, slotB := i.slotB, pc := i.pc, kind := .hash, size := 4, atHome := true, onChip := false, passed := none,
    accesses := (wholeAccesses (partMask g i grp) (8 * (gridBlock g i o).levels)
      (translateLanes g .read s (hgridAddresses g i grp o)).2.ok).map (·.1),
    dest := .vector o.d.toNat 0 false }

/-- What reading at its home leaves, for the accesses of an `hgrid`: what its gang may not find undone, corrected units, and counted
requests (R309, R328, R332). -/
def gridReads (g : Gang) (s : State) (as : List Access) : State :=
  as.foldl (fun s a =>
    let key := memKey g.part a.pa
    let s1 := observe s (s.partyOf g) none key 4 false
    let s2 := if aperture a.pa = 0 then correctUnits s1 g.part key 4 else s1
    (if a.ms then countAccess s2 g.part a.pa else s2).linkFor a.pa) s

/-- `hgrid vd, va, sb` (R230). -/
def execHgrid (g : Grp) (o : OpVH) (s : State) : Outcome :=
  issue g (fun s x i => { gridUses 1 false g o s x i with atOnce := some (hgridLoad s x i g o) })
    (fun s x i =>
      let p := partMask x i g
      let b := gridBlock x i o
      let (s1, r) := translateLanes x .read s (hgridAddresses x i g o)
      match gridFault s1 x p (8 * b.levels) r with
      | some (a, cls, detail, log) =>
        raiseFault (if log then logUncorr s1 x.part a.pa else s1) i.id i.slotB i.pc cls
          { FaultInfo.plain with kind := .hash, va := a.va, faulted := BitVec.twoPow 32 a.lane, detail := detail } i.pos false
      | none =>
        if r.ok.any (fun a => s1.trains a.1.pa) then stall s1 i x
        else accessSet s1 x i .hash false p r (fun _ => true) []
          (fun s y oks =>
            let whole := wholeLanes p (8 * b.levels) oks
            let s := gridReads y s ((wholeAccesses p (8 * b.levels) oks).map (·.1))
            let y := zeroGroup (y.passLoads (hgridLoad s y i g o)) o.d.toNat b.levels (zeroMask x i g)
            .ok (s, (List.range b.levels).foldl (fun (y : Gang) level =>
              y.writeV (o.d.toNat + level) whole ((List.range 32).map (fun l =>
                if bit whole l then
                  let mine := ((oks.filter (fun a => decide (a.1.lane = l))).drop (8 * level)).take 8
                  let cs := ((laneCorners x i o l level).map (·.1)).zip (mine.map (fun a => gridEntry s x i a.1))
                  w32 (gridFeature 1 cs * 2 ^ 16 + gridFeature 0 cs)
                else 0))) y))) s

/-- The contributions of a lane: their place in the order, address and value (R231). -/
def gradAdds (g : Gang) (i : Issue) (o : OpVH) (levels l : Nat) (at_ : List (Nat × Nat)) : List (Nat × Nat × Nat × W32) :=
  (List.range levels).flatMap (fun level => (laneCorners g i o l level).zipIdx.flatMap (fun (w, c) => (List.range 2).map (fun k =>
    (((level * 32 + l) * 8 + c) * 2 + k, (tget (0, 0) at_ (8 * level + c)).1 + 4 * k, (tget (0, 0) at_ (8 * level + c)).2 + 4 * k,
     bitsOf (w.1.mul (valF32 (g.lane? (o.d.toNat + 2 * level + k) l)))))))

/-- The gang with contributions added to the unit of the instruction at a position (R231). -/
def addUnit (g : Gang) (i : Issue) (adds : List (Nat × Nat × Nat × W32)) (e : Entry) : Gang :=
  if g.entries.any (fun x => x.pos == i.pos) then
    { g with entries := g.entries.map (fun x =>
        if x.pos == i.pos then { x with space := x.space + e.space, kind := match x.kind with | .hgrad old => .hgrad (old ++ adds) | k => k } else x) }
  else { g with entries := g.entries ++ [{ e with kind := .hgrad adds }] }

/-- `hgrad vg, va, sb` (R231); each contribution takes 24 bytes of the store buffer (notes/assumptions/102.md). -/
def execHgrad (g : Grp) (o : OpVH) (s : State) : Outcome :=
  issue g (gridUses 2 true g o)
    (fun s x i =>
      let p := partMask x i g
      let b := gridBlock x i o
      let as := (lanesOf p).flatMap (fun l => (gridAddresses x i o b.gbase 8 l).map (fun va => (l, va)))
      accessLanes s x i .write .hash false p as (fun a => decide (aperture a.1.pa ≠ 2)) []
        (fun s y oks =>
          let whole := wholeLanes p (8 * b.levels) oks
          let adds := (lanesOf whole).flatMap (fun l =>
            gradAdds x i o b.levels l ((oks.filter (fun a => decide (a.1.lane = l))).map (fun a => (a.1.va, a.1.pa))))
          match oks.find? (fun a => bit whole a.1.lane) with
          | none => .ok (s, y)
          | some (a, leaf) =>
            let space := 24 * adds.length
            let (key, lane) := y.commitKey y.lowLane
            let e := { mkEntry y i a leaf space (.hgrad []) with key := key, lane := lane }
            match buffer s i y [e] with
            | .error f => .error f
            | .ok _ => .ok (s, addUnit y i adds e))) s

/-! Splats (R232 to R234). -/

/-- An exact quotient rounded to f32. -/
def divR (a b : FVal) : FVal :=
  match a, b with
  | .nan _ _, _ => r32 a
  | _, .nan _ _ => r32 b
  | .inf _, .inf _ => .canonical
  | .zero _, .zero _ => .canonical
  | .inf s, x => .inf (s != x.sign)
  | x, .inf s => .zero (x.sign != s)
  | .zero s, x => .zero (s != x.sign)
  | x, .zero s => .inf (x.sign != s)
  | .fin s m e, .fin t n f =>
    let (n1, d1) := fracOf m (e - f)
    valF32 (w32 (roundMag fF32 .rne false 0 (s != t) n1 (d1 * n)))

/-- The exact exponential of a value, to the precision of the fixed point (R233; notes/assumptions/9.md). -/
def expVal (x : FVal) : FVal :=
  match x with
  | .nan _ _ => x
  | .zero _ => oneF
  | .inf neg => if neg then .zero false else .inf false
  | .fin neg m e =>
    if 8 ≤ floorExp m e then .fin false 3 (if neg then -1200 else 1200)
    else
      let y := fxOf m e
      let n := y / fxLn2
      let r := y % fxLn2
      if neg then .fin false (fxExp (fxLn2 - r)) (-(n : Int) - 1 - fxBits) else .fin false (fxExp r) ((n : Int) - fxBits)

/-- A value times a power of two, exactly. -/
def timesTwo (x : FVal) (k : Int) : FVal := match x with | .fin s m e => .fin s m (e + k) | x => x

/-- The splat record's word at byte `4 j` (R232). -/
def splatWord (s : State) (g : Gang) (sa j : Nat) : FVal :=
  valF32 (w32 (ofBytes ((List.range 4).map (fun k => mread (s.core g.core).scratch (scratchKey s g (sa + 4 * j + k))))))

/-- SA of a splat instruction (R232). -/
def splatSA (g : Gang) (i : Issue) (o : OpVH) : Nat := bits (g.readS i.slotB o.b.toNat) 19 0

/-- What a compositing instruction names and needs (R232). -/
def splatUses (regs named : List Reg) (align : Nat) (overlap : Bool) (grp : Grp) (o : OpVH) (s : State) (g : Gang) (i : Issue) : Uses :=
  let sa := splatSA g i o
  { Uses.vec (regs ++ [.s o.b.toNat, .m grp.fields.mask.toNat]) with
    named := named
    noUnit := s.pkg.mini
    illegal := overlap
    chip := chipRanges s g [(sa, 48)]
    misaligned := decide (align % 4 ≠ 0) || decide (sa % 16 ≠ 0)
    perm := decide (4096 * s.tcount g < sa + 48)
    owned := (List.range 12).any (fun j => bit (s.core g.core).scratchOwn (s.physTile g ((sa + 4 * j) / 4096)))
    site := if align % 4 ≠ 0 then (.none, 0) else (.scratch, sa) }

/-- The constants 0.99 and 1/255 (R233). -/
def alphaMax : FVal := valF32 0x3F7D70A4
/-- 1/255. -/
def alphaMin : FVal := valF32 0x3B808081

/-- The values that both compositing instructions compute first (R233). -/
structure SplatEval where
  (dx dy a1 b1 c1 d1 e ae alpha : FVal)
  clamped : Bool
  live : Bool

/-- The evaluation of a splat at a pixel centre (R233). -/
def splatEval (word : Nat → FVal) (px py : FVal) : SplatEval :=
  let dx := subR px (word 0)
  let dy := subR py (word 1)
  let qa := word 2
  let qb := word 3
  let qc := word 4
  let a1 := mulR qa dx
  let b1 := mulR qb dx
  let c1 := mulR qc dy
  let d1 := mulR qb dy
  let s := addR (addR (mulR a1 dx) (mulR c1 dy)) (timesTwo (mulR b1 dy) 1)
  let e := r32 (expVal (timesTwo (match s with | .nan _ _ => s | x => x.neg) (-1)))
  let ae := mulR (word 5) e
  let clamped := alphaMax.lt ae
  let alpha := if clamped then alphaMax else ae
  { dx := dx, dy := dy, a1 := a1, b1 := b1, c1 := c1, d1 := d1, e := e, ae := ae, alpha := alpha, clamped := clamped,
    live := !alpha.isNan && !alpha.lt alphaMin }

/-- A register's lane as an f32 value. -/
def laneF (g : Gang) (r l : Nat) : FVal := valF32 (g.lane? r l)

/-- A write of chosen lanes of a register from a function. -/
def laneWrite (r : Nat) (m : W32) (f : Nat → W32) : RegWrite :=
  .vector r m ((List.range 32).map (fun l => if bit m l then f l else 0))

/-- `cmps vs, vp, sb` (R233). -/
def execCmps (g : Grp) (o : OpVH) (s : State) : Outcome :=
  let d := o.d.toNat
  execInterlocked g (splatUses (regGroup d 4 ++ regGroup o.a.toNat 2) [] d false g o)
    (fun s x i =>
      let p := partMask x i g
      let word := splatWord s x (splatSA x i o)
      let ev (l : Nat) := splatEval word (laneF x o.a.toNat l) (laneF x (o.a.toNat + 1) l)
      let m := maskOf ((lanesOf p).filter (fun l => (ev l).live))
      let t (l : Nat) := laneF x (d + 3) l
      ((List.range 3).map (fun k => laneWrite (d + k) m (fun l => bitsOf (accR (laneF x (d + k) l) (mulR (t l) (ev l).alpha) (word (6 + k)))))) ++
        [laneWrite (d + 3) m (fun l => bitsOf (mulR (t l) (subR oneF (ev l).alpha)))]) s

/-- A lane of `cmpsb`: the nine outputs, and the new T, S0, S1, S2 (R234). -/
def splatBack (word : Nat → FVal) (state : Nat → FVal) : Bool × List FVal × List FVal :=
  let v := splatEval word (state 0) (state 1)
  if !v.live then (false, List.replicate 9 (.zero false), [])
  else
    let g (k : Nat) := state (2 + k)
    let sk (k : Nat) := state (6 + k)
    let ck (k : Nat) := word (6 + k)
    let om := subR oneF v.alpha
    let ti := divR (state 5) om
    let w := mulR ti v.alpha
    let da := (List.range 3).foldl (fun da k => accR da (g k) (subR (mulR ti (ck k)) (divR (sk k) om))) (.zero false)
    let (gop, gs) := if v.clamped then (FVal.zero false, FVal.zero false)
      else (mulR da v.e, r32 (timesTwo (match mulR da v.ae with | .nan s p => .nan s p | x => x.neg) (-1)))
    let gqa := mulR gs (mulR v.dx v.dx)
    let gqc := mulR gs (mulR v.dy v.dy)
    let gqb := r32 ((timesTwo gs 1).mul (mulR v.dx v.dy))
    let m2 := match gs with | .nan s p => FVal.nan s p | x => (timesTwo x 1).neg
    let gmx := r32 (m2.mul (addR v.a1 v.d1))
    let gmy := r32 (m2.mul (addR v.b1 v.c1))
    (true, [gmx, gmy, gqa, gqb, gqc, gop, mulR w (g 0), mulR w (g 1), mulR w (g 2)],
      ti :: (List.range 3).map (fun k => accR (sk k) w (ck k)))

/-- `cmpsb vo, vq, sb` (R234). -/
def execCmpsb (g : Grp) (o : OpVH) (s : State) : Outcome :=
  let q := o.a.toNat
  let d := o.d.toNat
  execInterlocked g (splatUses (regGroup q 9 ++ regGroup d 9) (regGroup (q + 9) 3) q (decide (q < d + 9) && decide (d < q + 12)) g o)
    (fun s x i =>
      let p := partMask x i g
      let word := splatWord s x (splatSA x i o)
      let r (l : Nat) := splatBack word (fun k => laneF x (q + k) l)
      let live := maskOf ((lanesOf p).filter (fun l => (r l).1))
      ((List.range 9).map (fun k => laneWrite (d + k) p (fun l => bitsOf (tget (.zero false) (r l).2.1 k)))) ++
        ((List.range 4).map (fun k => laneWrite (q + 5 + k) live (fun l => bitsOf (tget (.zero false) (r l).2.2 k))))) s

end Sys2Proof.Machine
end

