-- ==== Sys2Proof/Machine/VectorInt.lean ====
section
/-! DEFINITION. Vector integer and logical instructions (majors `0x08` to `0x0B` and `0x13`): R134 to R140. -/

namespace Sys2Proof.Machine

/-- A lane's result from its elements' numbers, over the registers of a TYPE code. -/
def typedResult (code w : Nat) (f : Nat → Nat) : List W32 :=
  outWords (typeRegs code) (packElems w (32 * typeRegs code) f)

/-- An integer instruction with two operands, whose exact element result is wrapped or clamped (R134). -/
def vint2 (latency default : Nat) (f : IntTy → Int → Int → Int) (grp : Grp) (o : OpV3) (s : State) : Outcome :=
  let code := typeOf grp default
  let n := typeRegs code
  let t := intTyOf code
  let p := grp.fields
  vecOp grp latency o.d.toNat n [(o.a.toNat, n), (o.b.toNat, n)]
    (fun _ g _ l => typedResult code t.w (fun k =>
      t.out p.sat (f t (t.pre p.abs p.nega (elem t.w (g.operand o.a.toNat n l) k))
        (t.pre p.abs p.negb (elem t.w (g.operand o.b.toNat n l) k))))) s

/-- An integer instruction with three operands (R130, R134). -/
def vint3 (latency default : Nat) (f : IntTy → Int → Int → Int → Int) (grp : Grp) (o : OpV3) (s : State) : Outcome :=
  let code := typeOf grp default
  let n := typeRegs code
  let t := intTyOf code
  let p := grp.fields
  let c := thirdReg grp o.d.toNat
  vecOp grp latency o.d.toNat n [(o.a.toNat, n), (o.b.toNat, n), (c, n)]
    (fun _ g _ l => typedResult code t.w (fun k =>
      t.out p.sat (f t (t.pre p.abs p.nega (elem t.w (g.operand o.a.toNat n l) k))
        (t.pre p.abs p.negb (elem t.w (g.operand o.b.toNat n l) k)) (t.val (elem t.w (g.operand c n l) k))))) s

/-- An instruction on the bits of elements of one operand (R134, R136, R139). -/
def vbits1 (default : Nat) (f : Grp → IntTy → Nat → Nat) (grp : Grp) (o : OpV2) (s : State) : Outcome :=
  let code := typeOf grp default
  let n := typeRegs code
  let t := intTyOf code
  vecOp grp 4 o.d.toNat n [(o.a.toNat, n)]
    (fun _ g _ l => typedResult code t.w (fun k => f grp t (elem t.w (g.operand o.a.toNat n l) k))) s

/-- An instruction on the bits of elements of two operands (R135). -/
def vbits2 (default : Nat) (f : IntTy → Nat → Nat → Nat) (grp : Grp) (o : OpV3) (s : State) : Outcome :=
  let code := typeOf grp default
  let n := typeRegs code
  let t := intTyOf code
  vecOp grp 4 o.d.toNat n [(o.a.toNat, n), (o.b.toNat, n)]
    (fun _ g _ l => typedResult code t.w (fun k =>
      f t (elem t.w (g.operand o.a.toNat n l) k) (elem t.w (g.operand o.b.toNat n l) k))) s

/-- An instruction on the bits of elements of three operands (R130, R135, R137). -/
def vbits3 (default : Nat) (f : IntTy → Nat → Nat → Nat → Nat) (grp : Grp) (o : OpV3) (s : State) : Outcome :=
  let code := typeOf grp default
  let n := typeRegs code
  let t := intTyOf code
  let c := thirdReg grp o.d.toNat
  vecOp grp 4 o.d.toNat n [(o.a.toNat, n), (o.b.toNat, n), (c, n)]
    (fun _ g _ l => typedResult code t.w (fun k =>
      f t (elem t.w (g.operand o.a.toNat n l) k) (elem t.w (g.operand o.b.toNat n l) k) (elem t.w (g.operand c n l) k))) s

/-- An instruction with an immediate on the 32 bits of a lane (R140). -/
def vimm (f : Grp → W32 → Nat) (grp : Grp) (d a : Nat) (s : State) : Outcome :=
  vecOp grp 4 d 1 [(a, 1)] (fun _ g _ l => [w32 (f grp (g.lane? a l))]) s

/-! Major `0x08` (R134). -/

/-- `vadd` (R134). -/
def execVadd (g : Grp) (o : OpV3) (s : State) : Outcome := vint2 4 1 (fun _ a b => a + b) g o s
/-- `vsub` (R134). -/
def execVsub (g : Grp) (o : OpV3) (s : State) : Outcome := vint2 4 1 (fun _ a b => a - b) g o s
/-- `vmul` (R134). -/
def execVmul (g : Grp) (o : OpV3) (s : State) : Outcome := vint2 5 1 (fun _ a b => a * b) g o s
/-- `vmulh`: bits [2w-1:w] of the exact product (R134). -/
def execVmulh (g : Grp) (o : OpV3) (s : State) : Outcome := vint2 5 1 (fun t a b => a * b / (2 ^ t.w : Nat)) g o s
/-- `vmad` (R134). -/
def execVmad (g : Grp) (o : OpV3) (s : State) : Outcome := vint3 5 1 (fun _ a b c => a * b + c) g o s
/-- `vmin` (R134). -/
def execVmin (g : Grp) (o : OpV3) (s : State) : Outcome := vint2 4 1 (fun _ a b => min a b) g o s
/-- `vmax` (R134). -/
def execVmax (g : Grp) (o : OpV3) (s : State) : Outcome := vint2 4 1 (fun _ a b => max a b) g o s
/-- `vabs`: the most negative value stays itself, or is clamped under SAT (R134). -/
def execVabs (g : Grp) (o : OpV2) (s : State) : Outcome :=
  vbits1 1 (fun grp t a => t.out grp.fields.sat ((t.val a).natAbs : Int)) g o s

/-! Major `0x09` (R135). -/

/-- `vand` (R135). -/
def execVand (g : Grp) (o : OpV3) (s : State) : Outcome := vbits2 2 (fun _ a b => Nat.land a b) g o s
/-- `vor` (R135). -/
def execVor (g : Grp) (o : OpV3) (s : State) : Outcome := vbits2 2 (fun _ a b => Nat.lor a b) g o s
/-- `vxor` (R135). -/
def execVxor (g : Grp) (o : OpV3) (s : State) : Outcome := vbits2 2 (fun _ a b => Nat.xor a b) g o s
/-- `vandn` (R135). -/
def execVandn (g : Grp) (o : OpV3) (s : State) : Outcome := vbits2 2 (fun t a b => Nat.land a (2 ^ t.w - 1 - b)) g o s
/-- `vshl` (R135). -/
def execVshl (g : Grp) (o : OpV3) (s : State) : Outcome := vbits2 2 (fun t a b => a * 2 ^ (b % t.w)) g o s
/-- `vshr` (R135). -/
def execVshr (g : Grp) (o : OpV3) (s : State) : Outcome := vbits2 2 (fun t a b => a / 2 ^ (b % t.w)) g o s
/-- `vsar` (R135). -/
def execVsar (g : Grp) (o : OpV3) (s : State) : Outcome :=
  vbits2 2 (fun t a b => wrapTo t.w (sext t.w a / (2 ^ (b % t.w) : Nat))) g o s
/-- `vsel` (R135). -/
def execVsel (g : Grp) (o : OpV3) (s : State) : Outcome := vbits3 2 (fun _ a b c => if c = 0 then b else a) g o s

/-! Major `0x0A` (R136 to R138). -/

/-- `vclz` (R136). -/
def execVclz (g : Grp) (o : OpV2) (s : State) : Outcome := vbits1 2 (fun _ t a => clz t.w a) g o s
/-- `vctz` (R136). -/
def execVctz (g : Grp) (o : OpV2) (s : State) : Outcome := vbits1 2 (fun _ t a => ctz t.w a) g o s
/-- `vffs` (R136). -/
def execVffs (g : Grp) (o : OpV2) (s : State) : Outcome := vbits1 2 (fun _ t a => if a = 0 then 0 else ctz t.w a + 1) g o s
/-- `vpopc` (R136). -/
def execVpopc (g : Grp) (o : OpV2) (s : State) : Outcome := vbits1 2 (fun _ t a => popcount t.w a) g o s
/-- `vbrev` (R136). -/
def execVbrev (g : Grp) (o : OpV2) (s : State) : Outcome := vbits1 2 (fun _ t a => brev t.w a) g o s

/-- The position of a vector bit field (R137). -/
def vfieldPos (b : Nat) : Nat := b % 32
/-- The length of a vector bit field (R137). -/
def vfieldLen (b : Nat) : Nat := min (b / 2 ^ 8 % 64) (32 - vfieldPos b)

/-- `vbfe` (R137). -/
def execVbfe (g : Grp) (o : OpV3) (s : State) : Outcome :=
  vbits2 2 (fun t a b =>
    let x := a / 2 ^ vfieldPos b % 2 ^ vfieldLen b
    if vfieldLen b = 0 then 0 else if t.signed then wrapTo 32 (sext (vfieldLen b) x) else x) g o s
/-- `vbfi` (R137). -/
def execVbfi (g : Grp) (o : OpV3) (s : State) : Outcome :=
  vbits3 2 (fun _ a b c =>
    let m := (2 ^ vfieldLen b - 1) * 2 ^ vfieldPos b
    Nat.lor (Nat.land c (2 ^ 32 - 1 - m)) (Nat.land (a * 2 ^ vfieldPos b) m)) g o s

/-- A dot product of packed elements into a 32-bit accumulator (R138). -/
def vdot (default : Nat) (grp : Grp) (o : OpV3) (s : State) : Outcome :=
  let t := intTyOf (typeOf grp default)
  let acc : IntTy := { w := 32, signed := t.signed }
  let c := thirdReg grp o.d.toNat
  vecOp grp 5 o.d.toNat 1 [(o.a.toNat, 1), (o.b.toNat, 1), (c, 1)]
    (fun _ g _ l =>
      let x := (List.range (32 / t.w)).foldl
        (fun x k => x + t.val (elem t.w (g.operand o.a.toNat 1 l) k) * t.val (elem t.w (g.operand o.b.toNat 1 l) k))
        (acc.val (g.operand c 1 l))
      [w32 (acc.out grp.fields.sat x)]) s

/-- `vdp4` (R138). -/
def execVdp4 (g : Grp) (o : OpV3) (s : State) : Outcome := vdot 5 g o s

/-! Major `0x0B` (R138, R139). -/

/-- A comparison: all ones where the relation holds in the type's order, else 0 (R139). -/
def vcmp (rel : Int → Int → Bool) (grp : Grp) (o : OpV3) (s : State) : Outcome :=
  vbits2 1 (fun t a b => if rel (t.val a) (t.val b) then 2 ^ t.w - 1 else 0) grp o s

/-- `vcmp.eq` (R139). -/
def execVcmpEq (g : Grp) (o : OpV3) (s : State) : Outcome := vcmp (fun a b => decide (a = b)) g o s
/-- `vcmp.ne` (R139). -/
def execVcmpNe (g : Grp) (o : OpV3) (s : State) : Outcome := vcmp (fun a b => decide (a ≠ b)) g o s
/-- `vcmp.lt` (R139). -/
def execVcmpLt (g : Grp) (o : OpV3) (s : State) : Outcome := vcmp (fun a b => decide (a < b)) g o s
/-- `vcmp.le` (R139). -/
def execVcmpLe (g : Grp) (o : OpV3) (s : State) : Outcome := vcmp (fun a b => decide (a ≤ b)) g o s
/-- `vcmp.gt` (R139). -/
def execVcmpGt (g : Grp) (o : OpV3) (s : State) : Outcome := vcmp (fun a b => decide (b < a)) g o s
/-- `vcmp.ge` (R139). -/
def execVcmpGe (g : Grp) (o : OpV3) (s : State) : Outcome := vcmp (fun a b => decide (b ≤ a)) g o s
/-- `vdp2` (R138). -/
def execVdp2 (g : Grp) (o : OpV3) (s : State) : Outcome := vdot 3 g o s
/-- `vmov`: copies a register, or a pair for the TYPE codes 12 to 14 (R139). -/
def execVmov (g : Grp) (o : OpV2) (s : State) : Outcome :=
  let n := typeRegs (typeOf g 1)
  vecOp g 4 o.d.toNat n [(o.a.toNat, n)] (fun _ x _ l => outWords n (x.operand o.a.toNat n l)) s

/-! Major `0x13` (R140). -/

/-- `vli` (R140). -/
def execVli (g : Grp) (o : OpVL) (s : State) : Outcome :=
  vecOp g 4 o.d.toNat 1 [] (fun _ _ _ _ => [(immX g o.imm).setWidth 32]) s
/-- `vaddi` (R140). -/
def execVaddi (g : Grp) (o : OpVI) (s : State) : Outcome :=
  let t := intTyOf (typeOf g 1)
  vimm (fun grp a => t.out grp.fields.sat (t.val a.toNat + (immX grp o.imm).toInt)) g o.d.toNat o.a.toNat s
/-- `vandi` (R140). -/
def execVandi (g : Grp) (o : OpVI) (s : State) : Outcome :=
  vimm (fun grp a => (a &&& (immX grp o.imm).setWidth 32).toNat) g o.d.toNat o.a.toNat s
/-- `vori` (R140). -/
def execVori (g : Grp) (o : OpVI) (s : State) : Outcome :=
  vimm (fun grp a => (a ||| (immX grp o.imm).setWidth 32).toNat) g o.d.toNat o.a.toNat s
/-- `vxori` (R140). -/
def execVxori (g : Grp) (o : OpVI) (s : State) : Outcome :=
  vimm (fun grp a => (a ^^^ (immX grp o.imm).setWidth 32).toNat) g o.d.toNat o.a.toNat s
/-- `vshli` (R140). -/
def execVshli (g : Grp) (o : OpVSh) (s : State) : Outcome := vimm (fun _ a => a.toNat * 2 ^ o.n.toNat) g o.d.toNat o.a.toNat s
/-- `vshri` (R140). -/
def execVshri (g : Grp) (o : OpVSh) (s : State) : Outcome := vimm (fun _ a => a.toNat / 2 ^ o.n.toNat) g o.d.toNat o.a.toNat s
/-- `vsari` (R140). -/
def execVsari (g : Grp) (o : OpVSh) (s : State) : Outcome :=
  vimm (fun _ a => wrapTo 32 (sext 32 a.toNat / (2 ^ o.n.toNat : Nat))) g o.d.toNat o.a.toNat s

end Sys2Proof.Machine
end

