-- ==== Sys2Proof/Machine/Dispatch.lean ====
section
/-! DEFINITION. One arm for each instruction and step of the machine. -/

namespace Sys2Proof.Machine

/-- The meaning of an instruction. -/
def exec (i : Instr) (s : State) : Host.Outcome State Fault Refusal :=
  match i with
  | .sadd g o => Sys2Proof.Machine.execSadd g o s
  | .ssub g o => Sys2Proof.Machine.execSsub g o s
  | .smul g o => Sys2Proof.Machine.execSmul g o s
  | .smulhI g o => Sys2Proof.Machine.execSmulhI g o s
  | .smulhN g o => Sys2Proof.Machine.execSmulhN g o s
  | .sdivI g o => Sys2Proof.Machine.execSdivI g o s
  | .sdivN g o => Sys2Proof.Machine.execSdivN g o s
  | .sremI g o => Sys2Proof.Machine.execSremI g o s
  | .sremN g o => Sys2Proof.Machine.execSremN g o s
  | .sand g o => Sys2Proof.Machine.execSand g o s
  | .sor g o => Sys2Proof.Machine.execSor g o s
  | .sxor g o => Sys2Proof.Machine.execSxor g o s
  | .sandn g o => Sys2Proof.Machine.execSandn g o s
  | .sshl g o => Sys2Proof.Machine.execSshl g o s
  | .sshr g o => Sys2Proof.Machine.execSshr g o s
  | .ssar g o => Sys2Proof.Machine.execSsar g o s
  | .sminI g o => Sys2Proof.Machine.execSminI g o s
  | .sminN g o => Sys2Proof.Machine.execSminN g o s
  | .smaxI g o => Sys2Proof.Machine.execSmaxI g o s
  | .smaxN g o => Sys2Proof.Machine.execSmaxN g o s
  | .scmpEq g o => Sys2Proof.Machine.execScmpEq g o s
  | .scmpNe g o => Sys2Proof.Machine.execScmpNe g o s
  | .scmpLtI g o => Sys2Proof.Machine.execScmpLtI g o s
  | .scmpLtN g o => Sys2Proof.Machine.execScmpLtN g o s
  | .scmpLeI g o => Sys2Proof.Machine.execScmpLeI g o s
  | .scmpLeN g o => Sys2Proof.Machine.execScmpLeN g o s
  | .ssel g o => Sys2Proof.Machine.execSsel g o s
  | .smov g o => Sys2Proof.Machine.execSmov g o s
  | .sclz g o => Sys2Proof.Machine.execSclz g o s
  | .sctz g o => Sys2Proof.Machine.execSctz g o s
  | .spopc g o => Sys2Proof.Machine.execSpopc g o s
  | .sbrev g o => Sys2Proof.Machine.execSbrev g o s
  | .sbfeI g o => Sys2Proof.Machine.execSbfeI g o s
  | .sbfeN g o => Sys2Proof.Machine.execSbfeN g o s
  | .sbfi g o => Sys2Proof.Machine.execSbfi g o s
  | .sadr1 g o => Sys2Proof.Machine.execSadr1 g o s
  | .sadr2 g o => Sys2Proof.Machine.execSadr2 g o s
  | .sadr3 g o => Sys2Proof.Machine.execSadr3 g o s
  | .sxtI8 g o => Sys2Proof.Machine.execSxtI8 g o s
  | .sxtI16 g o => Sys2Proof.Machine.execSxtI16 g o s
  | .sxtI32 g o => Sys2Proof.Machine.execSxtI32 g o s
  | .sxtN8 g o => Sys2Proof.Machine.execSxtN8 g o s
  | .sxtN16 g o => Sys2Proof.Machine.execSxtN16 g o s
  | .sxtN32 g o => Sys2Proof.Machine.execSxtN32 g o s
  | .sli g o => Sys2Proof.Machine.execSli g o s
  | .slui g o => Sys2Proof.Machine.execSlui g o s
  | .saddi g o => Sys2Proof.Machine.execSaddi g o s
  | .sandi g o => Sys2Proof.Machine.execSandi g o s
  | .sld8 g o => Sys2Proof.Machine.execSld8 g o s
  | .sld16 g o => Sys2Proof.Machine.execSld16 g o s
  | .sld32 g o => Sys2Proof.Machine.execSld32 g o s
  | .sld64 g o => Sys2Proof.Machine.execSld64 g o s
  | .sst8 g o => Sys2Proof.Machine.execSst8 g o s
  | .sst16 g o => Sys2Proof.Machine.execSst16 g o s
  | .sst32 g o => Sys2Proof.Machine.execSst32 g o s
  | .sst64 g o => Sys2Proof.Machine.execSst64 g o s
  | .samoAdd g o => Sys2Proof.Machine.execSamoAdd g o s
  | .samoMinI g o => Sys2Proof.Machine.execSamoMinI g o s
  | .samoMaxI g o => Sys2Proof.Machine.execSamoMaxI g o s
  | .samoMinN g o => Sys2Proof.Machine.execSamoMinN g o s
  | .samoMaxN g o => Sys2Proof.Machine.execSamoMaxN g o s
  | .samoAnd g o => Sys2Proof.Machine.execSamoAnd g o s
  | .samoOr g o => Sys2Proof.Machine.execSamoOr g o s
  | .samoXor g o => Sys2Proof.Machine.execSamoXor g o s
  | .samoXchg g o => Sys2Proof.Machine.execSamoXchg g o s
  | .samoCas g o => Sys2Proof.Machine.execSamoCas g o s
  | .samoIncw g o => Sys2Proof.Machine.execSamoIncw g o s
  | .samoFaddb g o => Sys2Proof.Machine.execSamoFaddb g o s
  | .srwlRacq g o => Sys2Proof.Machine.execSrwlRacq g o s
  | .srwlRrel g o => Sys2Proof.Machine.execSrwlRrel g o s
  | .srwlWacq g o => Sys2Proof.Machine.execSrwlWacq g o s
  | .srwlWrel g o => Sys2Proof.Machine.execSrwlWrel g o s
  | .sredAdd g o => Sys2Proof.Machine.execSredAdd g o s
  | .sredAddF32 g o => Sys2Proof.Machine.execSredAddF32 g o s
  | .br g o => Sys2Proof.Machine.execBr g o s
  | .call g o => Sys2Proof.Machine.execCall g o s
  | .brz g o => Sys2Proof.Machine.execBrz g o s
  | .brnz g o => Sys2Proof.Machine.execBrnz g o s
  | .brn g o => Sys2Proof.Machine.execBrn g o s
  | .brnn g o => Sys2Proof.Machine.execBrnn g o s
  | .ret g o => Sys2Proof.Machine.execRet g o s
  | .opEnd g => Sys2Proof.Machine.execOpEnd g s
  | .step g o => Sys2Proof.Machine.execStep g o s
  | .bar g o => Sys2Proof.Machine.execBar g o s
  | .trap g o => Sys2Proof.Machine.execTrap g o s
  | .spawn g o => Sys2Proof.Machine.execSpawn g o s
  | .launch g o => Sys2Proof.Machine.execLaunch g o s
  | .srd g o => Sys2Proof.Machine.execSrd g o s
  | .swr g o => Sys2Proof.Machine.execSwr g o s
  | .opIf g o => Sys2Proof.Machine.execOpIf g o s
  | .opElse g o => Sys2Proof.Machine.execOpElse g o s
  | .endif g => Sys2Proof.Machine.execEndif g s
  | .loop g o => Sys2Proof.Machine.execLoop g o s
  | .brk g o => Sys2Proof.Machine.execBrk g o s
  | .nxt g o => Sys2Proof.Machine.execNxt g o s
  | .endl g o => Sys2Proof.Machine.execEndl g o s
  | .vadd g o => Sys2Proof.Machine.execVadd g o s
  | .vsub g o => Sys2Proof.Machine.execVsub g o s
  | .vmul g o => Sys2Proof.Machine.execVmul g o s
  | .vmulh g o => Sys2Proof.Machine.execVmulh g o s
  | .vmad g o => Sys2Proof.Machine.execVmad g o s
  | .vmin g o => Sys2Proof.Machine.execVmin g o s
  | .vmax g o => Sys2Proof.Machine.execVmax g o s
  | .vabs g o => Sys2Proof.Machine.execVabs g o s
  | .vand g o => Sys2Proof.Machine.execVand g o s
  | .vor g o => Sys2Proof.Machine.execVor g o s
  | .vxor g o => Sys2Proof.Machine.execVxor g o s
  | .vandn g o => Sys2Proof.Machine.execVandn g o s
  | .vshl g o => Sys2Proof.Machine.execVshl g o s
  | .vshr g o => Sys2Proof.Machine.execVshr g o s
  | .vsar g o => Sys2Proof.Machine.execVsar g o s
  | .vsel g o => Sys2Proof.Machine.execVsel g o s
  | .vclz g o => Sys2Proof.Machine.execVclz g o s
  | .vctz g o => Sys2Proof.Machine.execVctz g o s
  | .vffs g o => Sys2Proof.Machine.execVffs g o s
  | .vpopc g o => Sys2Proof.Machine.execVpopc g o s
  | .vbrev g o => Sys2Proof.Machine.execVbrev g o s
  | .vbfe g o => Sys2Proof.Machine.execVbfe g o s
  | .vbfi g o => Sys2Proof.Machine.execVbfi g o s
  | .vdp4 g o => Sys2Proof.Machine.execVdp4 g o s
  | .vcmpEq g o => Sys2Proof.Machine.execVcmpEq g o s
  | .vcmpNe g o => Sys2Proof.Machine.execVcmpNe g o s
  | .vcmpLt g o => Sys2Proof.Machine.execVcmpLt g o s
  | .vcmpLe g o => Sys2Proof.Machine.execVcmpLe g o s
  | .vcmpGt g o => Sys2Proof.Machine.execVcmpGt g o s
  | .vcmpGe g o => Sys2Proof.Machine.execVcmpGe g o s
  | .vdp2 g o => Sys2Proof.Machine.execVdp2 g o s
  | .vmov g o => Sys2Proof.Machine.execVmov g o s
  | .vfadd g o => Sys2Proof.Machine.execVfadd g o s
  | .vfsub g o => Sys2Proof.Machine.execVfsub g o s
  | .vfmul g o => Sys2Proof.Machine.execVfmul g o s
  | .vfma g o => Sys2Proof.Machine.execVfma g o s
  | .vfnma g o => Sys2Proof.Machine.execVfnma g o s
  | .vfmin g o => Sys2Proof.Machine.execVfmin g o s
  | .vfmax g o => Sys2Proof.Machine.execVfmax g o s
  | .vfabs g o => Sys2Proof.Machine.execVfabs g o s
  | .vfcmpEq g o => Sys2Proof.Machine.execVfcmpEq g o s
  | .vfcmpLt g o => Sys2Proof.Machine.execVfcmpLt g o s
  | .vfcmpLe g o => Sys2Proof.Machine.execVfcmpLe g o s
  | .vfcmpUn g o => Sys2Proof.Machine.execVfcmpUn g o s
  | .vfclass g o => Sys2Proof.Machine.execVfclass g o s
  | .vfrnd g o => Sys2Proof.Machine.execVfrnd g o s
  | .vfneg g o => Sys2Proof.Machine.execVfneg g o s
  | .vfcpsgn g o => Sys2Proof.Machine.execVfcpsgn g o s
  | .vfminNan g o => Sys2Proof.Machine.execVfminNan g o s
  | .vfmaxNan g o => Sys2Proof.Machine.execVfmaxNan g o s
  | .vfdot2 g o => Sys2Proof.Machine.execVfdot2 g o s
  | .vfscl g o => Sys2Proof.Machine.execVfscl g o s
  | .vfexp g o => Sys2Proof.Machine.execVfexp g o s
  | .vfmant g o => Sys2Proof.Machine.execVfmant g o s
  | .vflerp g o => Sys2Proof.Machine.execVflerp g o s
  | .vcvtF g o => Sys2Proof.Machine.execVcvtF g o s
  | .vcvtI g o => Sys2Proof.Machine.execVcvtI g o s
  | .vcvtN g o => Sys2Proof.Machine.execVcvtN g o s
  | .vcvtPk16 g o => Sys2Proof.Machine.execVcvtPk16 g o s
  | .vcvtPk8 g o => Sys2Proof.Machine.execVcvtPk8 g o s
  | .vcvtUnpk g o => Sys2Proof.Machine.execVcvtUnpk g o s
  | .vcvtBs g o => Sys2Proof.Machine.execVcvtBs g o s
  | .vrcp g o => Sys2Proof.Machine.execVrcp g o s
  | .vrsq g o => Sys2Proof.Machine.execVrsq g o s
  | .vsqrt g o => Sys2Proof.Machine.execVsqrt g o s
  | .vexp2 g o => Sys2Proof.Machine.execVexp2 g o s
  | .vlog2 g o => Sys2Proof.Machine.execVlog2 g o s
  | .vsinp g o => Sys2Proof.Machine.execVsinp g o s
  | .vcosp g o => Sys2Proof.Machine.execVcosp g o s
  | .vtanh g o => Sys2Proof.Machine.execVtanh g o s
  | .vcmul g o => Sys2Proof.Machine.execVcmul g o s
  | .vcfma g o => Sys2Proof.Machine.execVcfma g o s
  | .vcconj g o => Sys2Proof.Machine.execVcconj g o s
  | .vcabs2 g o => Sys2Proof.Machine.execVcabs2 g o s
  | .vwelf g o => Sys2Proof.Machine.execVwelf g o s
  | .vwmrg g o => Sys2Proof.Machine.execVwmrg g o s
  | .vwfin g o => Sys2Proof.Machine.execVwfin g o s
  | .vli g o => Sys2Proof.Machine.execVli g o s
  | .vaddi g o => Sys2Proof.Machine.execVaddi g o s
  | .vandi g o => Sys2Proof.Machine.execVandi g o s
  | .vori g o => Sys2Proof.Machine.execVori g o s
  | .vxori g o => Sys2Proof.Machine.execVxori g o s
  | .vshli g o => Sys2Proof.Machine.execVshli g o s
  | .vshri g o => Sys2Proof.Machine.execVshri g o s
  | .vsari g o => Sys2Proof.Machine.execVsari g o s
  | .vshflIdx g o => Sys2Proof.Machine.execVshflIdx g o s
  | .vshflUp g o => Sys2Proof.Machine.execVshflUp g o s
  | .vshflDn g o => Sys2Proof.Machine.execVshflDn g o s
  | .vshflXor g o => Sys2Proof.Machine.execVshflXor g o s
  | .vxsel g o => Sys2Proof.Machine.execVxsel g o s
  | .vbcast g o => Sys2Proof.Machine.execVbcast g o s
  | .vlane g o => Sys2Proof.Machine.execVlane g o s
  | .vext g o => Sys2Proof.Machine.execVext g o s
  | .vvoteAny g o => Sys2Proof.Machine.execVvoteAny g o s
  | .vvoteAll g o => Sys2Proof.Machine.execVvoteAll g o s
  | .vvoteUni g o => Sys2Proof.Machine.execVvoteUni g o s
  | .vballot g o => Sys2Proof.Machine.execVballot g o s
  | .vballotMask g o => Sys2Proof.Machine.execVballotMask g o s
  | .vredux g o => Sys2Proof.Machine.execVredux g o s
  | .vscanIn g o => Sys2Proof.Machine.execVscanIn g o s
  | .vscanEx g o => Sys2Proof.Machine.execVscanEx g o s
  | .vmatch g o => Sys2Proof.Machine.execVmatch g o s
  | .vld8 g o => Sys2Proof.Machine.execVld8 g o s
  | .vld8s g o => Sys2Proof.Machine.execVld8s g o s
  | .vld16 g o => Sys2Proof.Machine.execVld16 g o s
  | .vld16s g o => Sys2Proof.Machine.execVld16s g o s
  | .vld32 g o => Sys2Proof.Machine.execVld32 g o s
  | .vld64 g o => Sys2Proof.Machine.execVld64 g o s
  | .vld128 g o => Sys2Proof.Machine.execVld128 g o s
  | .vst8 g o => Sys2Proof.Machine.execVst8 g o s
  | .vst16 g o => Sys2Proof.Machine.execVst16 g o s
  | .vst32 g o => Sys2Proof.Machine.execVst32 g o s
  | .vst64 g o => Sys2Proof.Machine.execVst64 g o s
  | .vst128 g o => Sys2Proof.Machine.execVst128 g o s
  | .vldl g o => Sys2Proof.Machine.execVldl g o s
  | .vldg g o => Sys2Proof.Machine.execVldg g o s
  | .prefL1 g o => Sys2Proof.Machine.execPrefL1 g o s
  | .prefL2 g o => Sys2Proof.Machine.execPrefL2 g o s
  | .vlsp8 g o => Sys2Proof.Machine.execVlsp8 g o s
  | .vlsp32 g o => Sys2Proof.Machine.execVlsp32 g o s
  | .vlsp64 g o => Sys2Proof.Machine.execVlsp64 g o s
  | .vlsp128 g o => Sys2Proof.Machine.execVlsp128 g o s
  | .vssp8 g o => Sys2Proof.Machine.execVssp8 g o s
  | .vssp32 g o => Sys2Proof.Machine.execVssp32 g o s
  | .vssp64 g o => Sys2Proof.Machine.execVssp64 g o s
  | .vssp128 g o => Sys2Proof.Machine.execVssp128 g o s
  | .vamoAdd g o => Sys2Proof.Machine.execVamoAdd g o s
  | .vamoMin g o => Sys2Proof.Machine.execVamoMin g o s
  | .vamoMax g o => Sys2Proof.Machine.execVamoMax g o s
  | .vamoAnd g o => Sys2Proof.Machine.execVamoAnd g o s
  | .vamoOr g o => Sys2Proof.Machine.execVamoOr g o s
  | .vamoXor g o => Sys2Proof.Machine.execVamoXor g o s
  | .vamoXchg g o => Sys2Proof.Machine.execVamoXchg g o s
  | .vamoCas g o => Sys2Proof.Machine.execVamoCas g o s
  | .vamoIncw g o => Sys2Proof.Machine.execVamoIncw g o s
  | .vamoFaddb g o => Sys2Proof.Machine.execVamoFaddb g o s
  | .vamoFaddF32 g o => Sys2Proof.Machine.execVamoFaddF32 g o s
  | .vredAdd g o => Sys2Proof.Machine.execVredAdd g o s
  | .vredAddF32 g o => Sys2Proof.Machine.execVredAddF32 g o s
  | .vredAddBf16x2 g o => Sys2Proof.Machine.execVredAddBf16x2 g o s
  | .vredMin g o => Sys2Proof.Machine.execVredMin g o s
  | .vredMax g o => Sys2Proof.Machine.execVredMax g o s
  | .vredAnd g o => Sys2Proof.Machine.execVredAnd g o s
  | .vredOr g o => Sys2Proof.Machine.execVredOr g o s
  | .vredXor g o => Sys2Proof.Machine.execVredXor g o s
  | .fence g o => Sys2Proof.Machine.execFence g o s
  | .trel g o => Sys2Proof.Machine.execTrel g o s
  | .tfeSet g o => Sys2Proof.Machine.execTfeSet g o s
  | .tfeClr g o => Sys2Proof.Machine.execTfeClr g o s
  | .tstat g o => Sys2Proof.Machine.execTstat g o s
  | .cbdef g o => Sys2Proof.Machine.execCbdef g o s
  | .cbrel g o => Sys2Proof.Machine.execCbrel g o s
  | .mbat g o => Sys2Proof.Machine.execMbat g o s
  | .mmaF16 g o => Sys2Proof.Machine.execMmaF16 g o s
  | .mmaBf16 g o => Sys2Proof.Machine.execMmaBf16 g o s
  | .mmaE4m3 g o => Sys2Proof.Machine.execMmaE4m3 g o s
  | .mmaE5m2 g o => Sys2Proof.Machine.execMmaE5m2 g o s
  | .mmaE2m1 g o => Sys2Proof.Machine.execMmaE2m1 g o s
  | .mmaI8 g o => Sys2Proof.Machine.execMmaI8 g o s
  | .mmaF32 g o => Sys2Proof.Machine.execMmaF32 g o s
  | .smmaF16 g o => Sys2Proof.Machine.execSmmaF16 g o s
  | .smmaBf16 g o => Sys2Proof.Machine.execSmmaBf16 g o s
  | .smmaE4m3 g o => Sys2Proof.Machine.execSmmaE4m3 g o s
  | .smmaI8 g o => Sys2Proof.Machine.execSmmaI8 g o s
  | .mld g o => Sys2Proof.Machine.execMld g o s
  | .mldt g o => Sys2Proof.Machine.execMldt g o s
  | .mrd g o => Sys2Proof.Machine.execMrd g o s
  | .mwr g o => Sys2Proof.Machine.execMwr g o s
  | .mzero g o => Sys2Proof.Machine.execMzero g o s
  | .cpy g o => Sys2Proof.Machine.execCpy g o s
  | .cpyg g o => Sys2Proof.Machine.execCpyg g o s
  | .cpyst g o => Sys2Proof.Machine.execCpyst g o s
  | .sort g o => Sys2Proof.Machine.execSort g o s
  | .sortr g o => Sys2Proof.Machine.execSortr g o s
  | .trace g o => Sys2Proof.Machine.execTrace g o s
  | .rast g o => Sys2Proof.Machine.execRast g o s
  | .callx g o => Sys2Proof.Machine.execCallx g o s
  | .retx g o => Sys2Proof.Machine.execRetx g o s
  | .hitret g o => Sys2Proof.Machine.execHitret g o s
  | .hgrid g o => Sys2Proof.Machine.execHgrid g o s
  | .hgrad g o => Sys2Proof.Machine.execHgrad g o s
  | .cmps g o => Sys2Proof.Machine.execCmps g o s
  | .cmpsb g o => Sys2Proof.Machine.execCmpsb g o s
  | .coll g o => Sys2Proof.Machine.execColl g o s
  | .hintNop => Sys2Proof.Machine.execHintNop s
  | .hintYield n => Sys2Proof.Machine.execHintYield n s
  | .hintBoost n => Sys2Proof.Machine.execHintBoost n s
  | .hintSlot slotB => Sys2Proof.Machine.execHintSlot slotB s
  | .yieldExpiry gang slotB => Sys2Proof.Machine.execYieldExpiry gang slotB s
  | .boostExpiry gang slotB => Sys2Proof.Machine.execBoostExpiry gang slotB s
  | .loadResponse gang index fromL1 => Sys2Proof.Machine.execLoadResponse gang index fromL1 s
  | .stepDispatch gang => Sys2Proof.Machine.execStepDispatch gang s
  | .watchPeriodicTest die => Sys2Proof.Machine.execWatchPeriodicTest die s
  | .quantumCommit launch crew => Sys2Proof.Machine.execQuantumCommit launch crew s
  | .crewPlacement launch crew => Sys2Proof.Machine.execCrewPlacement launch crew s
  | .crewRelease launch crew => Sys2Proof.Machine.execCrewRelease launch crew s
  | .spawnItemPlacement die core slot => Sys2Proof.Machine.execSpawnItemPlacement die core slot s
  | .regroupedGangIssue die index core slot => Sys2Proof.Machine.execRegroupedGangIssue die index core slot s
  | .regroupTimeout die index core slot => Sys2Proof.Machine.execRegroupTimeout die index core slot s
  | .slotAged gang slotB => Sys2Proof.Machine.execSlotAged gang slotB s
  | .matrixOperationStart core => Sys2Proof.Machine.execMatrixOperationStart core s
  | .matrixOperationCompletion core op => Sys2Proof.Machine.execMatrixOperationCompletion core op s
  | .preemptionPoint core op => Sys2Proof.Machine.execPreemptionPoint core op s
  | .copyCommandStart core command => Sys2Proof.Machine.execCopyCommandStart core command s
  | .stashOccupancyRetry core command => Sys2Proof.Machine.execStashOccupancyRetry core command s
  | .copyCompletion core command => Sys2Proof.Machine.execCopyCompletion core command s
  | .cpystCompletion core command => Sys2Proof.Machine.execCpystCompletion core command s
  | .sortCommandStart die => Sys2Proof.Machine.execSortCommandStart die s
  | .sortCommandCompletion die => Sys2Proof.Machine.execSortCommandCompletion die s
  | .traceCompletion command => Sys2Proof.Machine.execTraceCompletion command s
  | .rastCompletion command => Sys2Proof.Machine.execRastCompletion command s
  | .collInstanceStart part group seq peers => Sys2Proof.Machine.execCollInstanceStart part group seq peers s
  | .collCompletion part command => Sys2Proof.Machine.execCollCompletion part command s
  | .collWithdrawal part group seq => Sys2Proof.Machine.execCollWithdrawal part group seq s
  | .collRouteLost part command => Sys2Proof.Machine.execCollRouteLost part command s
  | .launchDoorbell part aspace cls prod => Sys2Proof.Machine.execLaunchDoorbell part aspace cls prod s
  | .launchRecordAcceptance part source => Sys2Proof.Machine.execLaunchRecordAcceptance part source s
  | .launchCompletion launch => Sys2Proof.Machine.execLaunchCompletion launch s
  | .preemptionRequest part aspace => Sys2Proof.Machine.execPreemptionRequest part aspace s
  | .preemptionResume part aspace => Sys2Proof.Machine.execPreemptionResume part aspace s
  | .discardGroupJudgement launch crew => Sys2Proof.Machine.execDiscardGroupJudgement launch crew s
  | .preemptionCompletion part aspace => Sys2Proof.Machine.execPreemptionCompletion part aspace s
  | .conflictWindowEnd channel conflicts => Sys2Proof.Machine.execConflictWindowEnd channel conflicts s
  | .remapGo channel target => Sys2Proof.Machine.execRemapGo channel target s
  | .remapStart channel => Sys2Proof.Machine.execRemapStart channel s
  | .rowSetMove channel => Sys2Proof.Machine.execRowSetMove channel s
  | .gatherPacket gang index packet => Sys2Proof.Machine.execGatherPacket gang index packet s
  | .homeAtomicOperation index => Sys2Proof.Machine.execHomeAtomicOperation index s
  | .eccCounterClear stack => Sys2Proof.Machine.execEccCounterClear stack s
  | .eccAddressValidClear stack => Sys2Proof.Machine.execEccAddressValidClear stack s
  | .scrubRead channel => Sys2Proof.Machine.execScrubRead channel s
  | .scrubDeadlineMissed channel => Sys2Proof.Machine.execScrubDeadlineMissed channel s
  | .accessCountNotification stack region => Sys2Proof.Machine.execAccessCountNotification stack region s
  | .accessCounterClear part => Sys2Proof.Machine.execAccessCounterClear part s
  | .pageWalk part die aspace va => Sys2Proof.Machine.execPageWalk part die aspace va s
  | .atsTranslationCompletion part index hostPage readOk writeOk => Sys2Proof.Machine.execAtsTranslationCompletion part index hostPage readOk writeOk s
  | .pageRequestResponse part index success => Sys2Proof.Machine.execPageRequestResponse part index success s
  | .invalidationRequest part pasid va logsz => Sys2Proof.Machine.execInvalidationRequest part pasid va logsz s
  | .faultHoldWrite part die => Sys2Proof.Machine.execFaultHoldWrite part die s
  | .fltRespReplay part seq => Sys2Proof.Machine.execFltRespReplay part seq s
  | .fltRespRequeue part seq => Sys2Proof.Machine.execFltRespRequeue part seq s
  | .fltRespAbort part seq => Sys2Proof.Machine.execFltRespAbort part seq s
  | .unfortFaultHandling part => Sys2Proof.Machine.execUnfortFaultHandling part s
  | .shootdown part value => Sys2Proof.Machine.execShootdown part value s
  | .shootdownCompletion part => Sys2Proof.Machine.execShootdownCompletion part s
  | .squallAssertion part => Sys2Proof.Machine.execSquallAssertion part s
  | .unitStop part die unit skid inflight => Sys2Proof.Machine.execUnitStop part die unit skid inflight s
  | .teardown part => Sys2Proof.Machine.execTeardown part s
  | .squallRelease part => Sys2Proof.Machine.execSquallRelease part s
  | .kill part aspace => Sys2Proof.Machine.execKill part aspace s
  | .torn gang => Sys2Proof.Machine.execTorn gang s
  | .peerRequest request => Sys2Proof.Machine.execPeerRequest request s
  | .peerRefusal gang index => Sys2Proof.Machine.execPeerRefusal gang index s
  | .flitReception port flit => Sys2Proof.Machine.execFlitReception port flit s
  | .flitReplay port place => Sys2Proof.Machine.execFlitReplay port place s
  | .portRetrain port success peer => Sys2Proof.Machine.execPortRetrain port success peer s
  | .portDown port => Sys2Proof.Machine.execPortDown port s
  | .rayDelegationRecord part die source record => Sys2Proof.Machine.execRayDelegationRecord part die source record s
  | .rayAnswerRecord part source record => Sys2Proof.Machine.execRayAnswerRecord part source record s
  | .rayCandidateRecord part source record => Sys2Proof.Machine.execRayCandidateRecord part source record s
  | .candidateAnswerRecord part record => Sys2Proof.Machine.execCandidateAnswerRecord part record s
  | .sceneInvalidation line => Sys2Proof.Machine.execSceneInvalidation line s
  | .sceneInvalidationAck index member => Sys2Proof.Machine.execSceneInvalidationAck index member s
  | .hostBar2Read function offset size => Sys2Proof.Machine.execHostBar2Read function offset size s
  | .hostBar2Write function offset data => Sys2Proof.Machine.execHostBar2Write function offset data s
  | .atomicopRequest function tag => Sys2Proof.Machine.execAtomicopRequest function tag s
  | .fundamentalReset => Sys2Proof.Machine.execFundamentalReset s
  | .functionLevelReset function => Sys2Proof.Machine.execFunctionLevelReset function s
  | .prepmap function => Sys2Proof.Machine.execPrepmap function s
  | .unmap function => Sys2Proof.Machine.execUnmap function s
  | .attest function => Sys2Proof.Machine.execAttest function s
  | .cert function => Sys2Proof.Machine.execCert function s
  | .recover function imageOk => Sys2Proof.Machine.execRecover function imageOk s
  | .partcfg function => Sys2Proof.Machine.execPartcfg function s
  | .partget function => Sys2Proof.Machine.execPartget function s
  | .mailboxAck function => Sys2Proof.Machine.execMailboxAck function s
  | .healthSample sample => Sys2Proof.Machine.execHealthSample sample s
  | .vmonFlagClear domain low high => Sys2Proof.Machine.execVmonFlagClear domain low high s
  | .clockThrottle reason => Sys2Proof.Machine.execClockThrottle reason s
  | .clockRestore => Sys2Proof.Machine.execClockRestore s
  | .thermalTrip => Sys2Proof.Machine.execThermalTrip s
  | .registerWrite function offset value => Sys2Proof.Machine.execRegisterWrite function offset value s
  | .illegalOp => Sys2Proof.Machine.execIllegalOp s
  | .resultLanding gang flight => Sys2Proof.Machine.execResultLanding gang flight s
  | .peerAcknowledgement launch crew package => Sys2Proof.Machine.execPeerAcknowledgement launch crew package s
  | .flushingReadCompletion launch crew => Sys2Proof.Machine.execFlushingReadCompletion launch crew s
  | .bootPhaseCompletion success code => Sys2Proof.Machine.execBootPhaseCompletion success code s

end Sys2Proof.Machine
end

