-- ==== Sys2Proof/Machine/Fetch.lean ====
section
/-! DEFINITION. Fetching a group (R45, R50 to R52, R68). -/

namespace Sys2Proof.Machine

/-- What fetching a group gives. -/
inductive Fetched where
  /-- The group's instruction. -/
  | group (i : Instr)
  /-- A malformed group: the fault `ILLEGAL_OP` (R51). -/
  | malformed
  /-- A fault of the fetch, with the address that faulted (R68). -/
  | stopped (x : Xlate) (va : Nat)
  /-- The word at a physical address cannot be delivered: an uncorrectable unit, or an unreachable package (R329, R378). -/
  | broken (pa va : Nat)
  | misaligned
  /-- The word lies in memory of another package, behind a port that retrains (R381). -/
  | waiting
  deriving DecidableEq, Repr

/-- Fetches one word: the core's instruction cache, of 64 KiB, may hold it, else it is read at its home (R2, R68, R375). The error is a fault of the
translation, or a physical address at which the word cannot be delivered, or, with none, not yet (R381). -/
def fetchWord (s : State) (g : Gang) (va : Nat) : State × Except (Xlate ⊕ Option Nat) W32 :=
  match s.gangXlate g va .fetch with
  | (s1, .ok pa _) =>
    let space := spaceKey g.part g.aspace
    match aget (s1.core g.core).icache (space, va) with
    | some w => (s1, .ok w)
    | none =>
      let key := memKey g.part pa
      if s1.unreachable pa then (s1, .error (.inr (some pa)))
      else if s1.refuses pa then (s1, .error (.inl .perm))
      else if s1.trains pa then (s1, .error (.inr none))
      else if s1.bad key then (logUncorr s1 g.part pa, .error (.inr (some (pa / 32 * 32))))
      else
        let w := w32 (mreadNat s1.mem key 4)
        let s2 := (correctUnits s1 g.part key 4).linkFor pa
        let c := s2.core g.core
        (s2.setCore g.core { c with icache := (((space, va), w) :: c.icache).take 16384 }, .ok w)
  | (s1, x) => (s1, .error (.inl x))

/-- Fetches a group's words until it is complete or malformed (R50, R51, R68); `fuel` bounds the words. -/
noncomputable def fetchFrom (gang : Gang) : (fuel : Nat) → State → (va : Nat) → Grp → State × Fetched
  | 0, s, _, _ => (s, .malformed)
  | fuel + 1, s, va, acc =>
    match fetchWord s gang va with
    | (s1, .error (.inl x)) => (s1, .stopped x va)
    | (s1, .error (.inr (some pa))) => (s1, .broken pa va)
    | (s1, .error (.inr none)) => (s1, .waiting)
    | (s1, .ok w) =>
      match readWord acc w with
      | .more acc' => fetchFrom gang fuel s1 (va + 4) acc'
      | .done i => (s1, .group i)
      | .bad _ => (s1, .malformed)

/-- Fetches the group at a slot's program counter (R45, R68). -/
noncomputable def fetchGroup (s : State) (g : Gang) (pc : W64) : State × Fetched :=
  if pc.toNat % 4 ≠ 0 then (s, .misaligned) else fetchFrom g 8 s pc.toNat Grp.start

/-- The fault of a fetch (R345, R346): reported at the group's first word, with no lanes; a replay that was to issue keeps
its lanes. -/
def fetchFault (s : State) (id : Nat) (slotB : Bool) (g : Gang) (pc : W64) (kind : AccessKind) (cls : FaultClass) (va detail : Nat) (host : Bool) : State :=
  let info := { FaultInfo.plain with kind := kind, va := va, detail := detail, host := host }
  match (g.slot slotB).parked with
  | some p =>
    (raiseFault s id slotB pc cls info p.pos p.byLane).modGang id (fun g =>
      match (g.slot slotB).parked with
      | some q => g.setSlot slotB { g.slot slotB with parked := some { q with faulted := p.faulted } }
      | none => g)
  | none => raiseFault s id slotB pc cls info ((g.slot slotB).path ++ [g.seq]) false

end Sys2Proof.Machine
end

