-- ==== Sys2Proof/Machine/Place.lean ====
section
/-! DEFINITION. Which slot issues when the schedule names none (R265, R271), what other agents' writes do, and the
placement of a program for the model's `withFetchWord`. -/

namespace Sys2Proof.Machine

/-- A fetch from host memory waits for the port's translation (R344). -/
def fetchWait (s : State) (id : Nat) (slotB : Bool) (g : Gang) (page : Nat) (write pri : Bool) : State :=
  hostPark s id slotB page write pri (match (g.slot slotB).parked with
    | some p => { p with released := false, hostWait := true }
    | none => { record := none, released := false, faulted := 0, byLane := false, hostWait := true,
                pos := (g.slot slotB).path ++ [g.seq] })

/-- A fetch that stopped: a page not resident parks the slot, with HOST = 1 for a host page whose request failed; other faults are
fatal (R68, R341, R344, R345, R346). -/
def fetchStop (s : State) (id : Nat) (slotB : Bool) (g : Gang) (pc : W64) (x : Xlate) (va : Nat) : State :=
  match x with
  | .miss failed => fetchFault s id slotB g pc .fetch .xlatMiss va 0 failed.isSome
  | .hostWait page write pri => fetchWait s id slotB g page write pri
  | .torn => endTorn s id
  | .ecc key => fetchFault (logUncorr s g.part (homePA g.part key)) id slotB g pc .walk .eccUncorr va (homePA g.part key / 32 * 32) false
  | _ => fetchFault s id slotB g pc .fetch .xlatPerm va 0 false

/-! Choosing what issues (R58, R265, R271, R272). -/

/-- The priority class of a gang's launch (R256). -/
def State.classOf (s : State) (g : Gang) : Nat :=
  match s.launch? g.launch with | some l => bits (l.word 0) 13 12 | none => 0

/-- The class of a slot's gang and whether it is under a boost hint, higher first: tests 2 and 3 (R271). -/
def classRank (s : State) (g : Gang) (slotB : Bool) : List Nat := [3 - s.classOf g, 1 - (if (g.slot slotB).boost ≤ 1 then 0 else 1)]

/-- A slot is aged, and of aged slots the one that has waited longest comes first: test 1 (R271). -/
def agedRank (g : Gang) (slotB : Bool) : List Nat :=
  let sl := g.slot slotB
  [1 - sl.aged.toNat, if sl.aged then sl.ready else 0]

/-- The slots of a gang rank by the preference hint, since both are ready and tests 1 to 3 leave them level (R58, R271). -/
def preferenceCounts (s : State) (g : Gang) : Bool :=
  g.prefersB.isSome && ready s g false && ready s g true && agedRank g false == agedRank g true && classRank s g false == classRank s g true

/-- The age of a slot and its place in its gang: the older first, then slot A (R271). Where a preference counts, the slot preferred has the
better place of the two, and the other slot the other (R58; notes/assumptions/95.md). -/
def ageRank (s : State) (g : Gang) (slotB : Bool) : List Nat :=
  if preferenceCounts s g then
    if g.prefersB = some slotB then [min g.a.since g.b.since, g.slotNo, 0] else [max g.a.since g.b.since, g.slotNo, 1]
  else [(g.slot slotB).since, g.slotNo, slotB.toNat]

/-- The rank of a ready slot by tests 2 to 4, higher first (R271): class, boost, age, the lower gang slot, and slot A. -/
def rankBelow (s : State) (g : Gang) (slotB : Bool) : List Nat := classRank s g slotB ++ ageRank s g slotB

/-- The rank of a ready slot, higher first (R271): an aged one, of those the longest-waiting, then the other tests. An aged slot comes before
slots of every class, since its test is the first (notes/assumptions/95.md). -/
def rank (s : State) (g : Gang) (slotB : Bool) : List Nat := agedRank g slotB ++ rankBelow s g slotB

/-- The ready slots of a bench, with their gangs. -/
def benchSlots (s : State) (core bench : Nat) : List ((Nat × Bool) × Gang) :=
  (s.gangs.filter (fun x => decide (x.2.core = core) && decide (benchOf x.2.slotNo = bench))).flatMap (fun (id, g) =>
    ([false, true].filter (ready s g)).map (fun b => ((id, b), g)))

/-- The major opcode of a slot's next word, if its instruction cache holds it; of a prefix, that of the word after it (R54, R69). -/
def nextMajor (s : State) (g : Gang) (slotB : Bool) : Option Nat :=
  let at_ (pc : Nat) := (aget (s.core g.core).icache (spaceKey g.part g.aspace, pc)).map (fun w => bits w 31 26)
  let pc := (g.slot slotB).pc.toNat
  match at_ pc with | some 0x3E => at_ (pc + 4) | m => m

/-- Units of a bench's last cycle, if it is `cycle`. -/
def unitsAt (s : State) (g : Gang) (cycle : Nat) : List UnitUse :=
  match aget (s.core g.core).benches (benchOf g.slotNo) with | some b => if b.cycle = cycle then b.units else [] | none => []

/-- A slot's next unit conflicts for certain with one of the bench's units: it uses the same pipe (R272). -/
def surelyConflicts (s : State) (g : Gang) (slotB : Bool) (us : List UnitUse) : Bool :=
  match nextMajor s g slotB with | some m => us.any (fun u => pipeOf m != 0 && u.pipe == pipeOf m) | none => false

/-- The cycle of its core in which a slot's next unit may issue at the earliest (R62, R272). -/
def issueCycle (s : State) (g : Gang) (slotB : Bool) : Nat :=
  let c := max (s.core g.core).cyc (g.slot slotB).ready
  if 2 ≤ (unitsAt s g c).length ∨ surelyConflicts s g slotB (unitsAt s g c) = true then c + 1 else c

/-- A unit of a pipe and another gang conflicts with none of the units, whatever vector registers it names: a hint word, or one of another
pipe where it or they name none (R272). -/
def surelyFits (id major : Nat) (us : List UnitUse) : Bool :=
  pipeOf major = 0 || us.all (fun u => u.gang != id && u.pipe != pipeOf major && (pipeOf major = 1 || u.banks.isEmpty))

/-- The cycle in which a slot's next unit is ready for certain: its word is at hand and is a hint or of a major that waits on nothing (scalar
arithmetic, branches, structured divergence but for `endif`s, or the vector pipes), no access of its gang and no new mask is
outstanding, and it conflicts with none of the bench's units of that cycle. -/
def sureCycle (s : State) (id : Nat) (g : Gang) (slotB : Bool) : Option Nat :=
  let c := issueCycle s g slotB
  match nextMajor s g slotB with
  | some m =>
    if g.loads.isEmpty && (g.slot slotB).parked.isNone && !(g.slot slotB).waits && decide (g.maskReady slotB ≤ c) && surelyFits id m (unitsAt s g c) &&
        (decide (m = 1) || decide (m = 2) || decide (m = 4) || decide (m = 5) || decide (m = 7) || (decide (8 ≤ m) && decide (m ≤ 0x15)) || decide (m = 0x3F)) then some c
    else none
  | none => none

/-- A yield hint of the slot is in force in a cycle (R58). -/
def Slot.yields (sl : Slot) (cycle : Nat) : Bool := decide (cycle < sl.yieldTo)

/-- The bench may not choose a slot: another is ready for certain in an earlier cycle, or in the same one with a higher rank; or the slot
has yielded, and another of its class or a higher one is ready for certain (R58, R271, R272; notes/assumptions/95.md). -/
def outranked (s : State) (id : Nat) (g : Gang) (slotB : Bool) : Bool :=
  let cycle := issueCycle s g slotB
  (benchSlots s g.core (benchOf g.slotNo)).any (fun ((k, b), h) =>
    (k != id || b != slotB) && (match sureCycle s k h b with
      | some c => !(h.slot b).yields c && decide (c ≤ cycle) &&
          (keyLt (c :: rank s h b) (cycle :: rank s g slotB) || ((g.slot slotB).yields cycle && decide (s.classOf g ≤ s.classOf h)))
      | none => false))

/-- The slots that are passed over when a slot issues: those of its bench and class that are ready and rank above it by tests 2 to 4
(R271). -/
def passedBy (s : State) (id : Nat) (g : Gang) (slotB : Bool) : List (Nat × Bool) :=
  let cycle := issueCycle s g slotB
  ((benchSlots s g.core (benchOf g.slotNo)).filter (fun ((k, b), h) =>
    (k != id || b != slotB) && decide (s.classOf h = s.classOf g) && decide ((h.slot b).ready ≤ cycle) &&
      keyLt (rankBelow s h b) (rankBelow s g slotB))).map (·.1)

/-- A slot of a gang issued, which the bench's record of its units shows: the slots it passed over have been (R271). -/
def notePassed (before : State) (id : Nat) (g : Gang) (slotB : Bool) (s : State) : State :=
  let units (s : State) := aget (s.core g.core).benches (benchOf g.slotNo)
  if units s = units before then s
  else (passedBy before id g slotB).foldl (fun s (k, b) => s.modGang k (fun x => x.setSlot b { x.slot b with passed := true })) s

/-- The best of slots, by the cycle of their issue and their rank. -/
def bestOf (s : State) : List ((Nat × Bool) × Gang) → Option (List Nat × Nat × Bool)
  | [] => none
  | ((id, b), g) :: rest =>
    let k := issueCycle s g b :: rank s g b
    match bestOf s rest with
    | some (j, y) => if keyLt j k then some (j, y) else some (k, id, b)
    | none => some (k, id, b)

/-- The slot that a bench issues next: a yielded slot only if no other of its class or a higher one is ready by its cycle (R58, R271). -/
def bestSlot (s : State) (core bench : Nat) : Option Action :=
  let all := benchSlots s core bench
  let yields (g : Gang) (b : Bool) := (g.slot b).yields (issueCycle s g b)
  let free := all.filter (fun ((_, b), g) => !yields g b ||
    !all.any (fun ((_, c), h) => !yields h c && decide (s.classOf g ≤ s.classOf h) && decide (issueCycle s h c ≤ issueCycle s g b)))
  (bestOf s free).map (fun x => .issue x.2.1 x.2.2)

/-- An entry leaves a cache, which may happen at any time (R68, R161, R343, R344; notes/assumptions/14.md): the next use reads its home again. -/
def evict (s : State) (cache : Cache) (unit index : Nat) : State :=
  match cache with
  | .instructions => let c := s.core unit; s.setCore unit { c with icache := c.icache.eraseIdx index }
  | .lines => let c := s.core unit; s.setCore unit { c with l1 := c.l1.eraseIdx index }
  | .coreTranslations => let c := s.core unit; s.setCore unit { c with tlb := c.tlb.eraseIdx index }
  | .translations => let d := s.die unit; s.setDie unit { d with tlb := d.tlb.eraseIdx index }
  | .hostPages =>
    let p := s.part unit
    match p.atc[index]? with
    | some (_, .page _ _ _) => s.setPart unit { p with atc := p.atc.eraseIdx index }
    | _ => s

/-- The host or another package writes its own memory; package-local HBM is not its to write this way (R303, R374, R396). -/
def outsideWrite (s : State) (address : Nat) (data : List Byte) : State :=
  if 2 ^ 50 ≤ address then
    let s1 := observe s (if address < 2 * 2 ^ 50 then .package else .host) none address data.length true
    { s1 with mem := mwriteBytes s1.mem address data }
  else s

/-- The launch that `placeProgram` places: one role of one gang with 128 registers, 16 scratchpad tiles and 16 accumulator
tiles (R256). -/
def programLaunch : Launch :=
  { part := 0, aspace := 0, die := 0,
    words := [0x0000000010100001, 1, 0, 0, 0, 0, 0x1001, 0, 0x1000, 0, 0, 0, 0, 0, 0, 0],
    consts := [], k := 1, placed := [0], released := [], again := [], started := true, quanta := [], created := [] }

/-- The gang that `placeProgram` places: slot 0 of core 0, slot A at `0x1000` (R21). -/
def programGang : Gang :=
  { core := 0, slotNo := 0, part := 0, aspace := 0, launch := 0, crewKey := some 0, kind := .launched, entry := 0x1000, role := 0, crew := 0,
    idCore := 0, gangIndex := 0, idSlot := 0, lane := 0xFFFFFFFF, entryS := [], entryV := [], vcount := 128, generation := 0, key := [0, 0],
    origins := [], spawned := 0, v := [], s := [], m := [], pendV := 0, pendS := 0, vtOwner := 0,
    a := { Slot.idle with live := true, pc := 0x1000, mask := 0xFFFFFFFF }, b := Slot.idle, bStart := 0, bCount := 0, cb := 0, cn := 0, joining := [],
    seq := 0, phase := .running, detstep := 0, replay := 0, traparg := 0, prefersB := none, sealed := false,
    unclean := false, rerun := false, restarting := false, flight := [], loads := [], order := [], entries := [], returns := [],
    rays := [], batch := 0, covered := [] }

/-- The crew that `placeProgram` places. -/
def programCrew : Crew :=
  { launch := 0, index := 0, core := 0, position := 0, tfirst := 0, tcount := 16, cfirst := 0, ccount := 16, bufs := [] }

/-- A program placed to run: context 0 of partition 0 with its code page mapped executable at VA 0 by a 1 GiB leaf, one
launch with one crew of one gang, and the program's bytes at the gang's program counter. -/
def placeProgram (s : State) (bytes : List Byte) : State :=
  let m0 := mwriteNat s.mem 0x40000000 8 0x40001001
  let m1 := mwriteNat m0 0x40001000 8 0x40002001
  let m2 := mwriteNat m1 0x40002000 8 0xB
  { s with
    todo := [.issue 0 false], cur := none, mem := mwriteBytes m2 0x1000 bytes,
    gangs := [(0, programGang)], crews := [(0, programCrew)], launches := [(0, programLaunch)],
    ctxs := [(0, { Ctx.empty with en := true, root := 0x40000000 })],
    pkg := { s.pkg with phase := 6, layout := some 0xFFFFFF0000 } }

end Sys2Proof.Machine
end

