-- ==== Sys2Proof/Machine/Moves.lean ====
section
/-! DEFINITION. One move of the machine: a slot's issue, a step that no word encodes, or what comes from outside; what
follows every move; and the move made when the schedule names none. -/

namespace Sys2Proof.Machine

/-- The lines that a gang's outstanding loads have asked for. -/
def Gang.asked (g : Gang) : Nat :=
  (g.loads.map (fun l => if l.onChip then 0 else (dedup (l.accesses.map (fun a => a.pa / 128))).length)).sum

/-- A core has at most 1,024 requests outstanding (R2): beyond them, earlier loads have been performed. `fuel` bounds the loads. -/
def capLoads (core : Nat) : (fuel : Nat) → State → State
  | 0, s => s
  | fuel + 1, s =>
    let gs := s.gangs.filter (fun x => decide (x.2.core = core))
    if (gs.map (fun x => x.2.asked)).sum ≤ 1024 then s
    else match gs.find? (fun x => x.2.loads.any (fun l => !l.onChip)) with
      | some (id, g) =>
        let first := (sortBy (fun (a b : Load) => keyLt a.pos b.pos) (g.loads.filter (fun l => !l.onChip))).take 1
        capLoads core fuel (settleIf (fun l => first.contains l) s id)
      | none => s

/-- Every core keeps to its requests. -/
def capAll (s : State) : State :=
  (s.gangs.filter (fun x => !x.2.loads.isEmpty)).foldl (fun s x => capLoads x.2.core 4096 s) s

/-- What follows every move: held accesses of other packages and of the host are tried again, what it sent to other packages enters the ports, waiting steps and STARTs are tested, and discarded tasks
restart (R2, R182, R262, R352, R383, R389). -/
def afterMove (s : State) : State :=
  retestAll (restartTasks (flushLinks (capAll (if s.pkg.held.isEmpty then s else serveHeld s))))

/-- An outcome with what follows the move. -/
def follow : Host.Outcome State Fault Refusal → Host.Outcome State Fault Refusal
  | .next s => .next (afterMove s)
  | x => x

/-- A slot issues its next group: it is fetched and executed (R45, R50, R68). In a torn context the gang ends (R361); a
slot that is not ready, or that its bench may not choose, does nothing (R271). -/
noncomputable def issueNext (id : Nat) (slotB : Bool) (s : State) : Host.Outcome State Fault Refusal :=
  match aget s.gangs id with
  | none => .next s
  | some g =>
    if !ready s g slotB then .next s
    else if (s.ctx (spaceKey g.part g.aspace)).torn then exec (.torn id) s
    else if outranked s id g slotB then .next s
    else
      let pc := (g.slot slotB).pc
      let cur : Cur := { gang := id, slotB := slotB, pc := pc }
      let done (t : State) : State := t.answered g.part (.slot id slotB)
      match fetchGroup { s with cur := some cur } g pc with
      | (s1, .group i) =>
        (match exec i { s1 with cur := some { cur with major := bits (encodeWord i) 31 26 } } with
         | .next t => .next (notePassed s id g slotB (done t))
         | x => x)
      | (s1, .malformed) => exec .illegalOp s1
      | (s1, .waiting) => .next (s1.modGang id (fun g => g.setSlot slotB ((g.slot slotB).readyFrom ((s.core g.core).cyc + 1))))
      | (s1, .misaligned) => .next (fetchFault s1 id slotB g pc .fetch .align pc.toNat 0 false)
      | (s1, .broken pa va) => .next (done (fetchFault s1 id slotB g pc .fetch .eccUncorr va pa false))
      | (s1, .stopped x va) => .next (done (fetchStop s1 id slotB g pc x va))

/-- A move may be made: after a thermal trip only a fundamental reset acts on the package (R420). -/
def allowed (s : State) : Action → Bool
  | .outside _ _ => true
  | .event i => !s.pkg.tripped || i == .fundamentalReset
  | _ => !s.pkg.tripped

/-- One move of the machine. -/
noncomputable def runAction (a : Action) (s : State) : Host.Outcome State Fault Refusal :=
  if !allowed s a then .next s
  else match a with
    | .issue id slotB => follow (issueNext id slotB s)
    | .event i => follow (exec i { s with cur := none })
    | .pass core n => .next (s.addCycles core n)
    | .outside address data => follow (.next (outsideWrite s address data))
    | .mclk channel n => .next (passMclk s channel n)
    | .request part pa => .next (countAccess s part pa)
    | .upset unit hard => .next (upset s unit hard)
    | .requester part on => .next (s.setPart part { s.part part with atomicOps := on })
    | .arrayError core op offset => follow (.next (arrayError s core op offset))
    | .evict cache unit index => .next (evict s cache unit index)
    | .loose on => .next { s with loose := on }
    | .perform commit index => follow (.next (performPiece s commit index))
    | .lane gang index k fromL1 => follow (.next (performLane s gang index k fromL1))
    | .split commit index n => .next (splitPiece s commit index n)
    | .array core op n => .next (arrayIssues s core op n)
    | .elements core command n => follow (.next (copyMoves s core command n))
    | .credit port cls n => .next (grantCredit s port cls n)
    | .acknowledge port cls => .next (ackFlit s port cls)
    | .cut package on => .next (cutRoute s package on)
    | .refusal page on => .next (refusePage s page on)
    | .collDone part group seq package member => follow (.next (collDone s part group seq package member))
    | .bar0Write function offset size value => follow (writeBar0 function offset size value { s with cur := none })

/-! The move made when the schedule names none (notes/assumptions/1.md). -/

/-- A step that no word encodes would change the state. -/
noncomputable def changes (s : State) (i : Instr) : Bool :=
  match exec i { s with cur := none } with
  | .next t => decide (t ≠ { s with cur := none })
  | _ => false

/-- The steps of the squall line, of Unfort and of shootdowns that a partition may have waiting. -/
noncomputable def partEvents (part : Nat) (p : Part) : List Instr :=
  [.squallAssertion part] ++ (p.unstopped.take 1).map (fun u => .unitStop part u.1 u.2 0 0) ++
    [.teardown part, .squallRelease part] ++ (p.dieList part).map (fun d => .faultHoldWrite part d) ++
    [.unfortFaultHandling part, .shootdownCompletion part]

/-- The steps that a command at an engine may have waiting. -/
noncomputable def commandEvents (n : Nat) (c : Command) : List Instr :=
  match c.kind with
  | .cpy | .cpyg => [.copyCommandStart c.core n, .stashOccupancyRetry c.core n, .copyCompletion c.core n]
  | .cpyst => [.cpystCompletion c.core n]
  | .sort | .sortr => [.sortCommandStart c.die, .sortCommandCompletion c.die]
  | .coll => [.collCompletion c.part n]
  | .trace => [.traceCompletion n]
  | .rast => [.rastCompletion n]

/-- The steps of a pre-emption that is in progress (R282 to R284): its groups are judged, and it completes. -/
noncomputable def preemptEvents (s : State) : List Instr :=
  s.ctxs.flatMap (fun (k, c) =>
    if c.preBusy then
      s.launches.flatMap (fun (n, l) => if spaceKey l.part l.aspace = k then
          (l.placed ++ (s.gangs.filter (fun x => decide (x.2.launch = n) && x.2.crewKey.isNone)).map (·.2.crew)).map (.discardGroupJudgement n)
        else []) ++ [.preemptionCompletion (k / 256) (k % 256)]
    else [])

/-- Steps that come before any issue: what is in hand is finished. -/
noncomputable def eventsFirst (s : State) : List Instr :=
  s.parts.flatMap (fun (n, p) => partEvents n p) ++ preemptEvents s ++
    s.gangs.map (fun (id, _) => .torn id) ++
    s.launches.flatMap (fun (n, l) => l.placed.map (fun c => .quantumCommit n c))

/-- What takes a ray record to the unit of this package that it is sent to (R386, R387). -/
noncomputable def rayEvents (s : State) (r : RayRecord) : List Instr :=
  if r.dest / 4 = s.pkg.number then
    s.parts.flatMap (fun (n, p) =>
      if p.hasDie n (r.dest % 4) then
        match r.kind with
        | 0 => [.rayDelegationRecord n (r.dest % 4) r.source r.words]
        | 1 => [.rayAnswerRecord n r.source r.words]
        | 2 => [.rayCandidateRecord n r.source r.words]
        | _ => [.candidateAnswerRecord n r.words]
      else [])
  else []

/-- Unfort's answer to a message in a mailbox (R414). -/
noncomputable def mailEvents (f : Nat) (m : Mailbox) : List Instr :=
  if m.busy then [.prepmap f, .unmap f, .attest f, .cert f, .recover f true, .partcfg f, .partget f] else []

/-- What other packages owe (R302, R392): acknowledgements of commits, and withdrawals that this package has sent to itself. -/
noncomputable def peerEvents (s : State) : List Instr :=
  s.acks.flatMap (fun a => a.packages.flatMap (fun p => match s.launch? a.launch with
    | some l => l.placed.map (fun c => Instr.peerAcknowledgement a.launch c p)
    | none => [])) ++
    (s.pkg.collOut.filter (fun x => decide (x.1 = s.pkg.number))).map (fun x => .collWithdrawal x.2.1 x.2.2.1 x.2.2.2)

/-- Steps of the matrix arrays, the engines, the homes and the firmware. -/
noncomputable def engineEvents (s : State) : List Instr :=
  s.pkg.rayOut.flatMap (rayEvents s) ++ s.pkg.mailboxes.flatMap (fun (f, m) => mailEvents f m) ++
    (if s.pkg.homeOps.isEmpty then [] else [.homeAtomicOperation 0]) ++
    s.launches.flatMap (fun (n, l) => l.placed.map (.flushingReadCompletion n)) ++ peerEvents s ++
  s.cores.flatMap (fun (n, c) => .matrixOperationStart n ::
      c.ops.zipIdx.flatMap (fun (o, j) => (if o.stopping then [.preemptionPoint n j] else []) ++ [.matrixOperationCompletion n j])) ++
    s.cmds.flatMap (fun (n, c) => commandEvents n c)

/-- The places where a detached task of a die could go. -/
def diePlaces (die : Nat) : List (Nat × Nat) := (List.range 40).flatMap (fun c => (List.range 64).map (fun k => (40 * die + c, k)))

/-- Steps that come after: bring-up, the acceptance of records, placement, release and completion. -/
noncomputable def eventsAfter (s : State) : List Instr :=
  (if s.pkg.phase < 6 then [.bootPhaseCompletion true 0] else []) ++
    s.launches.flatMap (fun (n, l) => l.placed.map (fun c => .crewRelease n c) ++ [.launchCompletion n] ++
      (List.range (min l.crews (l.k * coresOf s l.part * (l.released.length + 1)))).map (fun c => .crewPlacement n c)) ++
    s.dies.flatMap (fun (n, d) => (if d.spawns.isEmpty then [] else (diePlaces n).map (fun x => .spawnItemPlacement n x.1 x.2)) ++
      (List.range d.items.length).flatMap (fun j => (diePlaces n).map (fun x => .regroupTimeout n j x.1 x.2))) ++
    (List.range 4).map .watchPeriodicTest ++
    s.pkg.channels.flatMap (fun (n, _) => [.remapStart n, .rowSetMove n]) ++
    s.ctxs.flatMap (fun (k, _) => [3, 2, 1, 0].map (fun c => .launchRecordAcceptance (k / 256) (.host (k % 256) c))) ++
    s.dies.flatMap (fun (n, _) => s.parts.map (fun (p, _) => .launchRecordAcceptance p (.device n)))

/-- What the model's own agents do on the links and in commits, when the schedule names nothing: an unfinished commit goes on, a port
gets a credit that it waits for, and a flit is acknowledged (R303, R381, R382). -/
def wireMoves (s : State) : List Action :=
  (s.acks.zipIdx.filter (fun (a, _) => a.complete s ||
      (!commitHalts s a && (match a.pending.head? with | some x => !x.2.awaitsPort s | none => false)))).map (fun (_, k) => .perform k 0) ++
    s.pkg.ports.flatMap (fun (n, p) => if p.up && !p.train then
      (p.queue.map (fun f => .credit n f.cls.toNat 1)).take 1 ++ (p.buffer.map (fun f => .acknowledge n f.cls.toNat)).take 1 else [])

/-- The ready slot that issues: the benches with a ready slot take turns, and each issues its best; a slot that has waited too long ages
first, and a yield hint that has run out ends (R58, R271, R273). -/
noncomputable def nextIssue (s : State) : Option Action :=
  let live := s.gangs.filter (fun x => ready s x.2 false || ready s x.2 true)
  match live.findSome? (fun x => ([false, true].find? (slotAges s x.2)).map (fun b => (x.1, b))) with
  | some (id, b) => some (.event (.slotAged id b))
  | none => match live.findSome? (fun x => ([false, true].find? (fun b => (x.2.slot b).yieldTo != 0 &&
      decide ((x.2.slot b).yieldTo ≤ (s.core x.2.core).cyc))).map (fun b => (x.1, b))) with
  | some (id, b) => some (.event (.yieldExpiry id b))
  | none => match live[s.tick % max 1 live.length]? with
    | some x => bestSlot s x.2.core (benchOf x.2.slotNo)
    | none => none

/-- The move made when the schedule names none (notes/assumptions/1.md): what is in hand is finished first; then slots issue,
engines work, waiting steps are dispatched and new work begins. In one of every 16 moves the last of these comes first, and in
one the engines and the waiting steps do. -/
noncomputable def nextMove (s : State) : Option Action :=
  match (wireMoves s).head?.or (((eventsFirst s).find? (changes s)).map Action.event) with
  | some a => some a
  | none =>
    let engines := ((engineEvents s ++ s.gangs.map (fun ((id, _) : Nat × Gang) => Instr.stepDispatch id)).find? (changes s)).map Action.event
    let later := ((eventsAfter s).find? (changes s)).map Action.event
    match s.tick % 16 with
    | 0 => engines.or ((nextIssue s).or later)
    | 8 => later.or ((nextIssue s).or engines)
    | _ => (nextIssue s).or (engines.or later)

end Sys2Proof.Machine
end

