-- ==== Sys2Proof/Machine/Step.lean ====
section
/-! DEFINITION. The step: the move that the schedule names, or else the first that may happen; and the place where a word
is stored so that the next step fetches and runs it. -/

namespace Sys2Proof.Machine

/-- The step. The schedule's first move is made; with no move named, the machine makes the first that may happen; with
none, time passes. -/
noncomputable def step (s : State) : Host.Outcome State Fault Refusal :=
  let s1 := { s with tick := s.tick + 1 }
  match s1.todo with
  | a :: rest => runAction a { s1 with todo := rest }
  | [] => match nextMove s1 with
    | some a => runAction a s1
    | none => .next s1

/-- The state with an instruction's words stored where the next step fetches: a gang of the whole-package partition placed,
its code page mapped, the bytes at its program counter (notes/assumptions/8.md). -/
def State.withFetchWord (s : State) (nbits w : Nat) : State := placeProgram s (tableBytes nbits w)

end Sys2Proof.Machine
end

