-- ==== Sys2Proof/Safety.lean ====
section
/-! DEFINITION. The terms in which the claims speak: when a group issues with nothing in its way, what an issue leaves
alone, and the results a reader of the machine sees. -/

namespace Sys2Proof.Machine

/-- Memory holds addresses strictly rising and no byte that an unlisted address reads as: its one canonical form. -/
def Canonical (s : State) : Prop := s.mem.wf = true

/-- The package is in order: PHASE is a phase of bring-up, the clock lies between its floor and 1750 MHz and is throttled below that, the
layouts in force and stored are such as PARTCFG takes, and TORN stands only with STOPPED, STOPPED only with ASSERTED (R356,
R411, R415, R419, R420). -/
structure Orderly (s : State) : Prop where
  phase : s.pkg.phase ≤ 6 ∨ s.pkg.phase = 15
  clock : 875 ≤ s.pkg.floor ∧ s.pkg.floor ≤ s.pkg.aclk ∧ s.pkg.aclk ≤ 1750
  full : s.pkg.throttled = false → s.pkg.aclk = 1750 ∧ s.pkg.reason = 0
  layouts : (∀ w, s.pkg.layout = some w → layoutBad w = false) ∧ ∀ w, s.pkg.flash = some w → layoutBad w = false
  squalls : ∀ x ∈ s.parts, (x.2.stopped = true → x.2.asserted = true) ∧ (x.2.tornDown = true → x.2.stopped = true)

/-- The step names the slot `c` of gang `g` as issuing, and nothing is in its way: the slot is not parked, no result and no
load of the gang is on its way, no fixed-latency write of the slot's past is to be counted, and the bench has issued no unit in the
first cycle the slot may issue in (R62 to R64, R272). -/
structure Clear (s : State) (c : Cur) (g : Gang) : Prop where
  cur : s.cur = some c
  gang : aget s.gangs c.gang = some g
  parked : (g.slot c.slotB).parked = none
  flight : g.flight = []
  loads : g.loads = []
  haz : (g.slot c.slotB).haz = []
  room : ∀ b, aget (s.core g.core).benches (benchOf g.slotNo) = some b → b.cycle ≠ max (s.core g.core).cyc (g.slot c.slotB).ready

/-- A register that an instruction may name: of the gang's register count, not pending, in no engine-owned tile (R18, R22, R32). -/
def Gang.usable (g : Gang) (r : Reg) : Bool := !g.beyond r && !g.pending r && !g.owned r

/-- The address of the group after `grp` (R50). -/
def nextPc (c : Cur) (grp : Grp) : W64 := c.pc + w64 (bytesBefore grp) + 4

/-- The address of the group's instruction word (R49). -/
def wordPc (c : Cur) (grp : Grp) : W64 := c.pc + w64 (bytesBefore grp)

/-- The issue distance of a group's instruction word (R62). -/
def unitDist (c : Cur) (g : Gang) (grp : Grp) : Nat := (g.slot c.slotB).dist + hintWords grp

/-- The cycle of its core at which a group's instruction word issues: not before the core's cycle count nor the slot's next cycle, and
after the group's hint words (R6, R62). -/
def unitCycle (s : State) (c : Cur) (g : Gang) (grp : Grp) : Nat := max (s.core g.core).cyc (g.slot c.slotB).ready + hintWords grp

/-- The cycle from which the slot's next unit may issue (R62). -/
def unitReady (s : State) (c : Cur) (g : Gang) (grp : Grp) : Nat := unitCycle s c g grp + 1 + stallsOf grp

/-- The slot after a unit that retires to `target` with its mask `mask` and stack `stack`: one more instruction counted, its
issue distance past the unit and its stall count, its next unit not before `ready` (R27, R62). -/
def Slot.gone (sl : Slot) (grp : Grp) (ready : Nat) (target : W64) (mask : W32) (stack : List StackEntry) (haz : List (Nat × Nat)) : Slot :=
  { sl with
    pc := target, icnt := sl.icnt + 1, dist := sl.dist + hintWords grp + 1 + stallsOf grp, ready := ready, mask := mask, stack := stack, haz := haz,
    boost := if sl.boost = 0 then 0 else max 1 (sl.boost - 1), waits := false, aged := false, passed := false, pended := false }

/-- `t` is `s` with the issuing gang become `h`, and nothing else changed but the cycle count of the gang's core and what its bench has
issued: the unit, of the gang and the instruction's pipe (R6, R272). -/
structure OnlyGang (s : State) (c : Cur) (g : Gang) (grp : Grp) (h : Gang) (t : State) : Prop where
  state : t = { s with gangs := t.gangs, cores := t.cores }
  memory : ∀ a, mread t.mem a = mread s.mem a
  gang : aget t.gangs c.gang = some h
  others : ∀ id, id ≠ c.gang → aget t.gangs id = aget s.gangs id
  cores : ∃ regs, ∀ k, t.core k = if k = g.core then (s.core k).issued g (unitCycle s c g grp) (unitUse c.gang c.major regs) else s.core k

/-- In `r` the unit's slot has gone on to `target` with the mask `mask` and the mask stack `stack`, and the gang's other slot
is as it was. -/
structure Advances (s : State) (c : Cur) (g : Gang) (grp : Grp) (target : W64) (mask : W32) (stack : List StackEntry) (r : Gang) : Prop where
  slot : r.slot c.slotB = (g.slot c.slotB).gone grp (unitReady s c g grp) target mask stack (r.slot c.slotB).haz
  other : r.slot (!c.slotB) = g.slot (!c.slotB)
  seq : r.seq = g.seq + 1

/-- The unit goes on to `target` with the mask `mask` and the mask stack `stack`, and that is all it does. -/
def MasksTo (s : State) (c : Cur) (g : Gang) (grp : Grp) (target : W64) (mask : W32) (stack : List StackEntry) (out : Outcome) : Prop :=
  ∃ t h, out = .next t ∧ OnlyGang s c g grp h t ∧ Advances s c g grp target mask stack h ∧
    h = { g with a := h.a, b := h.b, seq := h.seq }

/-- The unit goes on to `target`, and that is all it does. -/
def GoesTo (s : State) (c : Cur) (g : Gang) (grp : Grp) (target : W64) (out : Outcome) : Prop :=
  MasksTo s c g grp target (g.slot c.slotB).mask (g.slot c.slotB).stack out

/-- An immediate field with the payloads of its `limm` words above it, first word highest, sign-extended to 64 bits (R59). -/
def longSigned {w : Nat} (limms : List (BitVec 24)) (field : BitVec w) : W64 :=
  match limms with
  | [] => field.signExtend 64
  | [a] => (a ++ field).signExtend 64
  | a :: b :: _ => (a ++ b ++ field).signExtend 64

/-- The same, zero-extended (R59). -/
def longUnsigned {w : Nat} (limms : List (BitVec 24)) (field : BitVec w) : W64 :=
  match limms with
  | [] => field.setWidth 64
  | [a] => (a ++ field).setWidth 64
  | a :: b :: _ => (a ++ b ++ field).setWidth 64

/-- The label of a branch: the address of the instruction word plus 4 times the offset (R49). -/
def labelOf {w : Nat} (c : Cur) (grp : Grp) (off : BitVec w) : W64 := wordPc c grp + (longSigned grp.limms off <<< 2)

/-- The results of a unit with a latency of `latency` are not there for a unit of the slot before that distance or as many cycles have
passed, and are there from then on (R63, R64). -/
def LandsAfter (s : State) (c : Cur) (g : Gang) (grp : Grp) (latency : Nat) (h : Gang) : Prop :=
  ∀ k cycle, h.landDue c.slotB k cycle =
    if unitDist c g grp + latency ≤ k ∨ unitCycle s c g grp + latency ≤ cycle then h.landSlot c.slotB else h

/-- The unit goes on to `target`; once its result has landed, scalar register `d` holds `v`, every other scalar register what
it held, and nothing else of the gang has changed but its slot's advance. `s63` reads 0 whatever is written to it (R19), and
`s62` is the slot's mask, cut to its lane domain (R25). -/
def ScalarResult (s : State) (c : Cur) (g : Gang) (grp : Grp) (target : W64) (latency d : Nat) (v : W64) (out : Outcome) : Prop :=
  ∃ t h, out = .next t ∧ OnlyGang s c g grp h t ∧ LandsAfter s c g grp latency h ∧
    let r := h.landSlot c.slotB
    (∀ n, r.readS c.slotB n =
      if n = d ∧ n ≠ 63 then (if n = 62 then (v.setWidth 32 &&& g.domain c.slotB).setWidth 64 else v) else g.readS c.slotB n) ∧
    Advances s c g grp target (r.slot c.slotB).mask (g.slot c.slotB).stack r ∧ r = { g with s := r.s, a := r.a, b := r.b, seq := r.seq }

/-- The unit goes on to the next group; once its result has landed, mask register `d` holds `v`, every other mask register
what it held, and nothing else of the gang has changed but its slot's advance. `m0` reads all ones (R20). -/
def MaskResult (s : State) (c : Cur) (g : Gang) (grp : Grp) (latency d : Nat) (v : W32) (out : Outcome) : Prop :=
  ∃ t h, out = .next t ∧ OnlyGang s c g grp h t ∧ LandsAfter s c g grp latency h ∧
    let r := h.landSlot c.slotB
    (∀ n, r.readM n = if n = d ∧ n ≠ 0 then v else g.readM n) ∧
    Advances s c g grp (nextPc c grp) (g.slot c.slotB).mask (g.slot c.slotB).stack r ∧ r = { g with m := r.m, a := r.a, b := r.b, seq := r.seq }

/-- Lane `l` takes part in a group: it is in the slot's mask and in the prefix's mask register (R55). -/
def participates (c : Cur) (g : Gang) (grp : Grp) (l : Nat) : Bool :=
  bit (g.slot c.slotB).mask l && bit (g.readM grp.fields.mask.toNat) l

/-- Lane `l` is in the slot's mask but not in the prefix's mask register of a group that zeroes such lanes (R55). -/
def zeroed (c : Cur) (g : Gang) (grp : Grp) (l : Nat) : Bool :=
  grp.fields.zero && bit (g.slot c.slotB).mask l && !bit (g.readM grp.fields.mask.toNat) l

/-- The unit goes on to the next group; once its result has landed, the `n` vector registers from `d` hold, in each lane that
takes part, what `f` gives for the register's place and the lane; 0 in each lane that the group zeroes; every other lane of
every register holds what it held, and nothing else of the gang has changed but its slot's advance (R55, R129). -/
def VectorResult (s : State) (c : Cur) (g : Gang) (grp : Grp) (latency d n : Nat) (f : Nat → Nat → W32) (out : Outcome) : Prop :=
  ∃ t h, out = .next t ∧ OnlyGang s c g grp h t ∧ LandsAfter s c g grp latency h ∧
    let r := h.landSlot c.slotB
    (∀ j l, l < 32 → r.lane? j l =
      if d ≤ j ∧ j < d + n ∧ participates c g grp l then f (j - d) l
      else if d ≤ j ∧ j < d + n ∧ zeroed c g grp l then 0 else g.lane? j l) ∧
    Advances s c g grp (nextPc c grp) (g.slot c.slotB).mask (g.slot c.slotB).stack r ∧ r = { g with v := r.v, a := r.a, b := r.b, seq := r.seq }

/-- A vector result given by its elements of `w` bits: element `k` of a lane that takes part is `f` of the lane and `k`, modulo
`2 ^ w`; elements lie in the `n` registers from `d`, low register and low bits first (R79). -/
def ElemResult (s : State) (c : Cur) (g : Gang) (grp : Grp) (latency d n w : Nat) (f : Nat → Nat → Nat) (out : Outcome) : Prop :=
  ∃ F : Nat → Nat → W32, VectorResult s c g grp latency d n F out ∧
    ∀ l k, k < 32 * n / w → elem w ((F 0 l).toNat + (if n = 2 then (F 1 l).toNat * 2 ^ 32 else 0)) k = f l k % 2 ^ w

/-- Groups of registers, as first register and size, that an instruction may name: aligned to their size and usable (R131). -/
def Gang.groupsReady (g : Gang) (groups : List (Nat × Nat)) : Bool :=
  groups.all (fun x => x.1 % x.2 == 0 && (regGroup x.1 x.2).all g.usable)

/-- The draw of a lane's result element `k` for a group that rounds stochastically (R87). -/
def drawAt (s : State) (c : Cur) (g : Gang) (grp : Grp) (l k : Nat) : Nat :=
  if grp.fields.rnd = 5 then rsrBits (s.seedOf g) (g.globalLane l) ((g.slot c.slotB).icnt.setWidth 64) (w64 k) else 0

/-! Memory accesses. -/

/-- The lanes that take part in a group, each with its address: the scalar base plus the sign-extended 32-bit offset (R156). -/
def laneVas (c : Cur) (g : Gang) (grp : Grp) (sb : BitVec 6) (vo : BitVec 7) : List (Nat × Nat) :=
  ((List.range 32).filter (fun l => participates c g grp l)).map (fun l =>
    (l, (g.readS c.slotB sb.toNat + (g.lane? vo.toNat l).signExtend 64).toNat))

/-- Every lane of `as` translates for the access: `oks` are the accesses with their leaves, and `t` is the state with what the translation
buffers of dies and cores have taken in (R158, R342). -/
structure Resident (s : State) (g : Gang) (need : Need) (as : List (Nat × Nat)) (oks : List (Access × W64)) (t : State) : Prop where
  lanes : translateLanes g need s as = (t, { LaneSet.empty with ok := oks })
  frame : t = { s with dies := t.dies, cores := t.cores, pkg := t.pkg }

/-- Every address is a multiple of the access's size (R122, R156). -/
def alignedTo (size : Nat) (as : List (Nat × Nat)) : Bool := as.all (fun a => a.2 % size == 0)

/-- The load that a group issues. -/
def loadOf (c : Cur) (g : Gang) (kind : AccessKind) (size : Nat) (atHome : Bool) (oks : List (Access × W64)) (dest : LoadDest) : Load :=
  { pos := (g.slot c.slotB).path ++ [g.seq], slotB := c.slotB, pc := c.pc, kind := kind, size := size, atHome := atHome,
    onChip := false, passed := none, accesses := oks.map (·.1), dest := dest }

/-- The accesses of a scratchpad instruction that is not yet performed (R168, R169, R299). -/
def chipOf (s : State) (c : Cur) (g : Gang) (size : Nat) (as : List (Nat × Nat)) (dest : LoadDest) : Load :=
  { pos := (g.slot c.slotB).path ++ [g.seq], slotB := c.slotB, pc := c.pc, kind := .scratch, size := size, atHome := false, onChip := true,
    passed := none, accesses := as.map (fun x => { lane := x.1, va := x.2, pa := scratchKey s g x.2, ms := false, uncached := true }), dest := dest }

/-- The store-buffer entry that a group makes for an access (R167, R267, R303). -/
def entryOf (c : Cur) (g : Gang) (space : Nat) (kind : Access → EntryKind) (x : Access × W64) : Entry :=
  { pos := (g.slot c.slotB).path ++ [g.seq], lane := (g.commitKey x.1.lane).2, key := (g.commitKey x.1.lane).1, va := x.1.va, pa := x.1.pa,
    ms := leafMS x.2 || leafNC x.2, scene := leafScene x.2, pc := c.pc, slotB := c.slotB, space := space, kind := kind x.1 }

/-- The unit goes on with the loads `lds` outstanding; no memory and no register has changed, but those lanes of the `n`
registers from `d` that the group zeroes (R55, R63, R160). -/
def IssuesLoads (s : State) (c : Cur) (g : Gang) (grp : Grp) (d n : Nat) (lds : List Load) (out : Outcome) : Prop :=
  ∃ t h, out = .next t ∧ OnlyGang s c g grp h t ∧ h.loads = lds ∧
    (∀ j l, l < 32 → h.lane? j l = if d ≤ j ∧ j < d + n ∧ zeroed c g grp l then 0 else g.lane? j l) ∧
    Advances s c g grp (nextPc c grp) (g.slot c.slotB).mask (g.slot c.slotB).stack h ∧
    h = { g with v := h.v, a := h.a, b := h.b, seq := h.seq, loads := lds }

/-- The lanes that a group zeroes, as a mask (R55). -/
def zeroLanes (c : Cur) (g : Gang) (grp : Grp) : W32 :=
  if grp.fields.zero then (g.slot c.slotB).mask &&& ~~~g.readM grp.fields.mask.toNat else 0

/-- The unit goes on with the entries `es` added to the store buffer, the registers `pend` pending and the values `rets` to
return at the step's end; memory and registers are as they were (R22, R166, R167, R171). -/
def BuffersAnd (s : State) (c : Cur) (g : Gang) (grp : Grp) (es : List Entry) (pend : List Reg) (rets : List RegWrite) (out : Outcome) : Prop :=
  ∃ t h, out = .next t ∧ OnlyGang s c g grp h t ∧ h.entries = g.entries ++ es ∧ h.returns = g.returns ++ rets ∧
    (∀ n, n < 64 → bit h.pendS n = (bit g.pendS n || pend.contains (.s n))) ∧
    (∀ n, n < 128 → bit h.pendV n = (bit g.pendV n || pend.contains (.v n))) ∧
    Advances s c g grp (nextPc c grp) (g.slot c.slotB).mask (g.slot c.slotB).stack h ∧
    h = { g with a := h.a, b := h.b, seq := h.seq, entries := h.entries, returns := h.returns, pendS := h.pendS, pendV := h.pendV }

/-- The same, with nothing to return. -/
def Buffers (s : State) (c : Cur) (g : Gang) (grp : Grp) (es : List Entry) (pend : List Reg) (out : Outcome) : Prop :=
  BuffersAnd s c g grp es pend [] out

/-- The operations that a host page admits (R379): an add, an exchange or a compare and swap, with AtomicOps enabled. -/
def Admits (s : State) (g : Gang) (op : AmoOp) (oks : List (Access × W64)) : Prop :=
  ∀ x ∈ oks, aperture x.1.pa ≠ 2 ∨ ((op = .add ∨ op = .xchg ∨ op = .cas) ∧ (s.part g.part).atomicOps = true)

/-- The unit goes on, and each lane of each vector register holds what `f` gives for the register and the lane, or what it held
where `f` gives nothing; nothing else of the gang has changed but its slot's advance. -/
def LaneResult (s : State) (c : Cur) (g : Gang) (grp : Grp) (f : Nat → Nat → Option W32) (out : Outcome) : Prop :=
  ∃ t h, out = .next t ∧ OnlyGang s c g grp h t ∧
    (∀ j l, l < 32 → h.lane? j l = (f j l).getD (g.lane? j l)) ∧
    Advances s c g grp (nextPc c grp) (g.slot c.slotB).mask (g.slot c.slotB).stack h ∧ h = { g with v := h.v, a := h.a, b := h.b, seq := h.seq }

/-- Every lane of the `n` vector registers from `d` holds what `f` gives for the register's place and the lane, whatever the
masks (R184). -/
def WholeResult (s : State) (c : Cur) (g : Gang) (grp : Grp) (d n : Nat) (f : Nat → Nat → W32) (out : Outcome) : Prop :=
  LaneResult s c g grp (fun j l => if d ≤ j ∧ j < d + n then some (f (j - d) l) else none) out

/-! Tiles and tasks. -/

/-- The tile, buffer or barrier that a tile code names: the code itself, or the value of the scalar register it names (R173). -/
def namedTile (c : Cur) (g : Gang) (t : BitVec 12) : Option (TileKind × Nat) :=
  match tileIndirect t with
  | some r => if (g.readS c.slotB r).toNat < 2 ^ 12 then tileCode ((g.readS c.slotB r).setWidth 12) else none
  | none => tileCode t

/-- A tile code names `x`, which is inside the crew's allocation, through a register that may be read (R23, R173). -/
structure NamesTile (s : State) (c : Cur) (g : Gang) (t : BitVec 12) (x : TileKind × Nat) : Prop where
  named : namedTile c g t = some x
  register : ∀ r, tileIndirect t = some r → g.usable (.s r) = true
  inside : tileBeyond s g x = false
  held : ∀ n, x = (.reg, n) → 8 * n + 7 < g.vcount

/-- The gang has issued an instruction that keeps its task from being clean (R351). -/
def marked (g : Gang) : Gang := { g with unclean := true }

/-- The state with the issuing gang become `h`. -/
def State.withGang (s : State) (c : Cur) (h : Gang) : State := s.setGang c.gang h

/-- The entry of a group of the gang's own, which acts at no address: at its lowest launched lane (R122, R267). -/
def ownEntryOf (c : Cur) (g : Gang) (space : Nat) (kind : EntryKind) : Entry :=
  { pos := (g.slot c.slotB).path ++ [g.seq], lane := (g.commitKey g.lowLane).2, key := (g.commitKey g.lowLane).1, va := 0, pa := 0,
    ms := false, scene := false, pc := c.pc, slotB := c.slotB, space := space, kind := kind }

/-- The issuing gang once its step has ended at slot A: the group retired to `target`, `REPLAY` cleared, no result, no fixed-latency
write and no fence of its unbuffered accesses on its way (R65, R114, R299). -/
def stepDone (s : State) (c : Cur) (g : Gang) (grp : Grp) (target : W64) : Gang :=
  { g with a := g.a.gone grp (unitReady s c g grp) target g.a.mask g.a.stack [], b := { g.b with haz := [] }, seq := g.seq + 1, replay := 0, prefersB := none,
           order := [] }

/-- The unit ends its gang's step or task: the gang becomes `h`, and then it commits alone if it is one that does (R114, R305). -/
def EndsStep (s : State) (c : Cur) (g : Gang) (grp : Grp) (h : Gang) (out : Outcome) : Prop :=
  ∃ t, out = .next (commitAlone t c.gang) ∧ OnlyGang s c g grp h t

/-- The gang waits for its successor (R114). -/
def waits (h : Gang) (w : Waiting) : Gang := { h with phase := .waiting w, detstep := h.detstep + 1 }

/-- The gang's task has ended (R116). -/
def finished (h : Gang) : Gang := { h with phase := .ended, a := { h.a with live := false }, b := Slot.idle }

/-- What waits has been found to hold and watches no word, and every launch has started: the tests that follow a write find nothing (R182,
R262). -/
structure Settled (s : State) : Prop where
  steps : ∀ x ∈ s.gangs, ∀ w, x.2.phase = .waiting w → w.held = true ∧ ((parseDeps w.descriptors).getD []).filterMap Dep.site = []
  starts : ∀ x ∈ s.launches, x.2.started = true
  tested : s.past = []

/-- The words at `sites` may be read where they are: their pages are resident, and what they hold can be delivered (R183). -/
def Watchable (s : State) (g : Gang) (sites : List (Nat × Nat)) (t : State) : Prop :=
  ∃ xs : List (Nat × Nat × Nat × W64), xlateSites g s sites = (t, xs.map (fun x => (x.1, x.2.1, .ok x.2.2.1 x.2.2.2))) ∧
    t = { s with dies := t.dies, cores := t.cores, pkg := t.pkg } ∧ t.pkg.softUnits = [] ∧
    ∀ x ∈ xs, t.unreachable x.2.2.1 = false ∧ t.refuses x.2.2.1 = false ∧ t.trains x.2.2.1 = false ∧ (aperture x.2.2.1 = 0 → t.bad (memKey g.part x.2.2.1) = false)

/-! Faults. -/

/-- The partition's fault queue takes a record: its ring is in memory and not full, and the die holds none back (R347, R348). -/
def QueueOpen (s : State) (g : Gang) : Prop :=
  ringReachable (s.part g.part) (s.part g.part).fltBase = true ∧ queueFull (s.part g.part) = false ∧ (s.die g.die).hold = []

/-- Where the next fault record goes (R347). -/
def recordAt (s : State) (g : Gang) : Nat :=
  memKey g.part ((s.part g.part).fltBase + 64 * ((s.part g.part).fltProd.toNat % ringSize (s.part g.part).fltLog))

/-- In `t`, slot `slotB` of gang `g`, whose name is `id`, has taken a fault in state `s`: it is parked at position `pos`, no
register has changed, the record, with its SEQ, stands in the partition's queue, and a fatal class has queued the cause of a
squall (R345 to R349, R355, R357). -/
structure FaultTaken (s : State) (id : Nat) (g : Gang) (slotB : Bool) (pc : W64) (cls : FaultClass) (f : FaultInfo) (pos : Pos)
    (byLane : Bool) (t : State) : Prop where
  gang : aget t.gangs id = some (g.setSlot slotB { g.slot slotB with
    parked := some (Park.mk (some (s.part g.part).fltProd.toNat) false f.lanes byLane false pos) })
  others : ∀ k, k ≠ id → aget t.gangs k = aget s.gangs k
  record : mreadBytes t.mem (recordAt s g) 64 = wordBytes (gangRecord s g slotB pc cls f ++ [w64 (s.part g.part).fltProd.toNat])
  memory : ∀ a, a < recordAt s g ∨ recordAt s g + 64 ≤ a → mread t.mem a = mread s.mem a
  prod : (t.part g.part).fltProd = (s.part g.part).fltProd + 1
  opened : (t.part g.part).openRecords.map (·.1) =
    (s.part g.part).openRecords.map (·.1) ++ (if cls.recoverable then [(s.part g.part).fltProd.toNat] else [])
  count : (t.part g.part).heldFaults.length = (s.part g.part).heldFaults.length + (if cls.recoverable then 0 else 1)
  cause : cls.recoverable = false → (t.part g.part).heldFaults.getLast? = some
    { cls := cls, aspace := g.aspace, words := gangRecord s g slotB pc cls f ++ [w64 (s.part g.part).fltProd.toNat], gang := some id }
  rest : t.cores = s.cores ∧ t.crews = s.crews ∧ t.launches = s.launches ∧ t.barriers = s.barriers ∧ t.cmds = s.cmds

/-- The gang as its slot has come to issue and does not retire. -/
def tried (c : Cur) (g : Gang) : Gang :=
  { g.setSlot c.slotB { g.slot c.slotB with parked := none, waits := false, aged := false, passed := false } with seq := g.seq + 1 }

/-- The group has no effect but to take a fault. -/
def TakesFault (s : State) (c : Cur) (g : Gang) (cls : FaultClass) (f : FaultInfo) (byLane : Bool) (out : Outcome) : Prop :=
  ∃ t, out = .next t ∧
    FaultTaken (s.withGang c (tried c g)) c.gang (tried c g) c.slotB c.pc cls f ((g.slot c.slotB).path ++ [g.seq]) byLane t

/-! Engines and front ends. -/

/-- A unit of a die finds the `n` bytes at a virtual address at once, in local memory at physical address `pa`: the die holds the page's
translation, the page admits the access and is not MS or NC, an access to which is counted as well (R332), the units can be read, and
no octet member holds a copy (R212, R329, R342, R389). -/
structure AtHome (s : State) (w : Access.Who) (va n : Nat) (need : Need) (pa : Nat) : Prop where
  low : va < 2 ^ 57
  whole : (s.ctx (spaceKey w.part w.aspace)).torn = false
  held : ∃ t, tlbFind (spaceKey w.part w.aspace) va (s.die w.die).tlb = some t ∧ leafAdmits need t.leaf = true ∧
    leafCounted t.leaf = false ∧ pa = entryPA t.leaf + va % 2 ^ t.log ∧ (leafScene t.leaf = true → octetOthers s w.part = [])
  near : memKey w.part pa < 2 ^ 50
  sound : s.badUnit (memKey w.part pa) n = none

/-- A unit of a die finds at once that the page of a virtual address refuses the access (R41, R158). -/
structure Refused (s : State) (w : Access.Who) (va : Nat) (need : Need) : Prop where
  low : va < 2 ^ 57
  whole : (s.ctx (spaceKey w.part w.aspace)).torn = false
  held : ∃ t, tlbFind (spaceKey w.part w.aspace) va (s.die w.die).tlb = some t ∧ leafAdmits need t.leaf = false

/-- A unit of a die finds that the page of a virtual address is not resident: no buffer holds its translation, the walk ends at an
entry that is not valid, and no answer of the host is kept (R340, R344). -/
structure Absent (s : State) (w : Access.Who) (va : Nat) : Prop where
  low : va < 2 ^ 57
  whole : (s.ctx (spaceKey w.part w.aspace)).torn = false
  notHeld : tlbFind (spaceKey w.part w.aspace) va (s.die w.die).tlb = none
  walk : s.walk w.part w.aspace va = .miss
  fresh : (s.part w.part).atsFailed = []

/-- A status record by its fields: TAG, result, engine, count and the last eight bytes (R214, R258). -/
def statusWords (tag result engine count aux : Nat) : List Byte :=
  toBytes 2 tag ++ toBytes 1 result ++ toBytes 1 engine ++ toBytes 4 count ++ toBytes 8 aux

/-- An engine's access at a virtual address is served at once at a site: a window byte that its command may reach, or local memory (R38,
R212). -/
def Served (s : State) (w : Access.Who) (va n : Nat) (need : Need) (x : Site) : Prop :=
  (isWindow va = true ∧ w.windows = true ∧ windowSite s w va = some x) ∨ ∃ pa, x = .home w.part pa false ∧ AtHome s w va n need pa

/-- The bytes at a site. -/
def bytesAt (s : State) (x : Site) (n : Nat) : List Byte := match readSite s x n with | .ok bs => bs | .error _ => []
/-- The state with bytes at a site replaced. -/
def putAt (s : State) (x : Site) (data : List Byte) : State := match writeSite s x data with | .ok t => t | .error _ => s

/-- In `t`, command `n` is parked, as `c`, for a page that is not resident: the record stands in the partition's fault queue, to be
answered (R215, R345, R347). -/
structure CommandParks (s : State) (n : Nat) (c : Command) (kind : AccessKind) (va : Nat) (t : State) : Prop where
  command : aget t.cmds n = some { c with parked := true }
  record : mreadBytes t.mem (memKey c.part ((s.part c.part).fltBase + 64 * ((s.part c.part).fltProd.toNat % ringSize (s.part c.part).fltLog))) 64 =
    wordBytes (commandRecord s c .xlatMiss kind va 0 false ++ [w64 (s.part c.part).fltProd.toNat])
  opened : ∃ r, (t.part c.part).openRecords = (s.part c.part).openRecords ++ [((s.part c.part).fltProd.toNat, r)] ∧ r.owner = .command n
  cores : t.cores = s.cores
  fatal : (t.part c.part).heldFaults.length = (s.part c.part).heldFaults.length

/-- A command's status record can be written at once, at physical address `pa`, or is not wanted (R214). -/
def StatusAt (s : State) (c : Command) (pa : Nat) : Prop := c.field 7 63 16 = 0 ∨ AtHome s c.who (c.field 7 63 16 * 16) 16 .write pa

/-- Memory with a command's status record written, if it is wanted (R214). -/
def withStatus (s : State) (c : Command) (pa code done aux : Nat) : Memory :=
  if c.field 7 63 16 = 0 then s.mem
  else mwriteBytes s.mem (memKey c.part pa) (statusWords (c.field 7 15 0) code c.kind.unit done aux)

/-- A copy ends (R212, R214, R215, R220, R179): its status record is written, then, unless it failed with CODE 2, the full bit is set, the
slot completes, and the tile of FLIPT is the threads' again; with a CODE other than 0 no full bit is set, and a marker will count it. -/
structure CopyEnds (s : State) (n : Nat) (c : Command) (code done pa : Nat) (out : Outcome) : Prop where
  ends : ∃ t, out = .next t ∧ t.mem = withStatus s c pa code done (if c.stash = .second then 1 else 0) ∧ aget t.cmds n = none ∧
    (∀ m, m ≠ n → aget t.cmds m = aget s.cmds m) ∧ t.failed = s.failed ++ (if code = 0 then [] else [n]) ∧
    (∀ core k, k < 192 → bit (t.core core).scratchFull k =
      (decide (c.fullEn = true ∧ code = 0 ∧ core = c.tileCore ∧ k = c.fullT) || bit (s.core core).scratchFull k)) ∧
    (code = 2 ∨ (c.adv = false ∧ c.flipEn = false) → t.crews = s.crews ∧ t.gangs = s.gangs ∧ ∀ core, (t.core core).scratchOwn = (s.core core).scratchOwn ∧
      (t.core core).accOwn = (s.core core).accOwn) ∧
    (∀ w, code ≠ 2 → c.adv = false → c.flipEn = true → c.window = some w →
      (windowKind w = 1 → ∀ k, k < 192 → bit (t.core c.tileCore).scratchOwn k = (decide (k ≠ c.flipT) && bit (s.core c.tileCore).scratchOwn k)) ∧
      (windowKind w = 2 → ∀ k, k < 256 → bit (t.core c.tileCore).accOwn k = (decide (k ≠ c.flipT) && bit (s.core c.tileCore).accOwn k)) ∧
      (∀ id g, windowKind w = 0 → crewGangAt s c.who c.tileCore (windowOffset w / 2 ^ 14) = some (id, g) → aget s.gangs id = some g →
        ∃ h, aget t.gangs id = some h ∧ ∀ k, k < 16 → bit h.vtOwner k = (decide (k ≠ c.flipT) && bit g.vtOwner k))) ∧
    (∀ key x v, code ≠ 2 → c.adv = true → c.flipEn = false → c.crewKey = some key → aget s.crews key = some x → c.slot = some v →
      let b := x.buf c.buf
      let next := (b.ridx + b.filled) % b.slots
      (v ≠ next → b.held.contains next = false → aget t.crews key = some (x.setBuf c.buf { b with held := v :: b.held }) ∧
        ∀ core, (t.core core).scratchOwn = (s.core core).scratchOwn) ∧
      (v = next → b.held = [] → 0 < b.slots → aget t.crews key = some (x.setBuf c.buf { b with filled := b.filled + 1 }) ∧
        ∀ k, k < 192 → bit (t.core x.core).scratchOwn k =
          (!decide (x.tfirst + b.first + v * b.span ≤ k ∧ k < x.tfirst + b.first + v * b.span + b.span) && bit (s.core x.core).scratchOwn k)))

/-- A command of an engine that sets at most one full bit, `full` of its core, ends: memory is `mem`, and the command is gone (R214, R223,
R225). -/
structure CommandEnds (s : State) (n : Nat) (c : Command) (full : Option Nat) (mem : Memory → Prop) (out : Outcome) : Prop where
  ends : ∃ t, out = .next t ∧ mem t.mem ∧ aget t.cmds n = none ∧ (∀ m, m ≠ n → aget t.cmds m = aget s.cmds m) ∧ t.gangs = s.gangs ∧ t.crews = s.crews ∧
    ∀ core k, k < 192 → bit (t.core core).scratchFull k = (decide (core = c.core ∧ full = some k) || bit (s.core core).scratchFull k)

/-- Ranges of bytes, each an address and a length, have no byte in common. -/
def Apart (l : List (Nat × Nat)) : Prop := l.Pairwise (fun a b => a.1 + a.2 ≤ b.1 ∨ b.1 + b.2 ≤ a.1)

/-- Every byte outside ranges is as it was. -/
def OnlyAt (l : List (Nat × Nat)) (m n : Memory) : Prop := ∀ a, (∀ r ∈ l, a < r.1 ∨ r.1 + r.2 ≤ a) → mread n a = mread m a

/-! Exact values. -/

/-- The values of words that are finite f32 numbers, as multiples of 2^-149 (R239, R245). -/
def Scaled (words : Nat → W32) (n : Nat) (x : Nat → Int) : Prop := ∀ k, k < n → scaled (words k) = some (x k)

/-- The words of a 128-byte or shorter record that a unit reads in pieces of 16 bytes, at the physical addresses of its pieces. -/
def recordWords (s : State) (w : Access.Who) (pa : Nat → Nat) (n : Nat) : List W32 :=
  (List.range n).map (fun k => w32 (mreadNat s.mem (memKey w.part (pa (k / 4)) + 4 * (k % 4)) 4))

/-! Engine commands. -/

/-- The command that a group's instruction makes of its record words (R210, R213). -/
def commandOf (s : State) (c : Cur) (g : Gang) (kind : CmdKind) (words : List W64) : Command :=
  { kind := kind, gang := some c.gang, launch := g.launch, crewKey := g.crewKey, sealed := g.sealed, ni := s.nonidem g, part := g.part, aspace := g.aspace, core := g.core,
    num := s.serial, slotNo := g.slotNo, tfirst := s.physTile g 0, words := words, icnt := (g.slot c.slotB).icnt.setWidth 64, seed := s.seedOf g,
    batch := g.batch + 1, started := false, parked := false, discarded := false, landed := false, slot := none, rays := [], stash := .none,
    progress := 0, code := 0, data := [], entry := [], index := [], covered := [] }

/-- The unit goes on, its command sent to its engine with the next number; or, where a fence of the step holds commands back,
held in the store buffer for the commit (R211). The gang counts the command among those a marker will cover as `cover` says. -/
def SendsCommand (s : State) (c : Cur) (g : Gang) (grp : Grp) (held : Bool) (cmd : Command) (cover : List Nat) (out : Outcome) : Prop :=
  let h := { g with covered := cover }
  let base := ({ s with serial := s.serial + 1 } : State).withGang c h
  if held then Buffers base c h grp [ownEntryOf c g 160 (.command s.serial cmd)] [] out
  else GoesTo { base with cmds := s.cmds ++ [(s.serial, cmd)] } c h grp (nextPc c grp) out

end Sys2Proof.Machine
end

