-- ==== Sys2Proof/Certificates/Slice0/Obligations.lean ====
section
/-! DEFINITION. The statements about the machine, for the provers. -/

open Sys2Proof Sys2Proof.Machine

/-! Scalar registers: R98 to R103. -/

/-- R100: sums, differences, products and scaled addresses, modulo 2^64, at the latencies of R63 (2, and 4 for products).
R100, R101: quotients truncated toward zero and remainders with the sign of A; all ones and A for B = 0. -/
def Obligations.ScalarArithmeticAndDivision : Prop :=
   (∀ (s : State) (c : Cur) (g : Gang) (grp : Grp) (o : OpS3), Clear s c g → (regsS3 o).all g.usable = true →
      let A := g.readS c.slotB o.a.toNat
      let B := g.readS c.slotB o.b.toNat
      let R := fun (latency : Nat) => ScalarResult s c g grp (nextPc c grp) latency o.d.toNat
      R 2 (A + B) (exec (.sadd grp o) s) ∧
      R 2 (A - B) (exec (.ssub grp o) s) ∧
      R 4 (A * B) (exec (.smul grp o) s) ∧
      R 4 (((A.signExtend 128 * B.signExtend 128) >>> 64).setWidth 64) (exec (.smulhI grp o) s) ∧
      R 4 (((A.setWidth 128 * B.setWidth 128) >>> 64).setWidth 64) (exec (.smulhN grp o) s) ∧
      R 2 (A + (B <<< 1)) (exec (.sadr1 grp o) s) ∧
      R 2 (A + (B <<< 2)) (exec (.sadr2 grp o) s) ∧
      R 2 (A + (B <<< 3)) (exec (.sadr3 grp o) s)) ∧
   (∀ (s : State) (c : Cur) (g : Gang) (grp : Grp) (o : OpS3), Clear s c g → (regsS3 o).all g.usable = true →
      let A := g.readS c.slotB o.a.toNat
      let B := g.readS c.slotB o.b.toNat
      let R := ScalarResult s c g grp (nextPc c grp) 0 o.d.toNat
      R (if B = 0 then BitVec.allOnes 64 else A.sdiv B) (exec (.sdivI grp o) s) ∧
      R (if B = 0 then BitVec.allOnes 64 else A.udiv B) (exec (.sdivN grp o) s) ∧
      R (if B = 0 then A else A.srem B) (exec (.sremI grp o) s) ∧
      R (if B = 0 then A else A.umod B) (exec (.sremN grp o) s))

/-- R100: bitwise operations, and shifts by B[5:0].
R100: the lesser and greater, comparisons giving 1 or 0, and the selection by old `sd`. -/
def Obligations.ScalarLogicShiftsAndCompares : Prop :=
   (∀ (s : State) (c : Cur) (g : Gang) (grp : Grp) (o : OpS3), Clear s c g → (regsS3 o).all g.usable = true →
      let A := g.readS c.slotB o.a.toNat
      let B := g.readS c.slotB o.b.toNat
      let R := ScalarResult s c g grp (nextPc c grp) 2 o.d.toNat
      R (A &&& B) (exec (.sand grp o) s) ∧
      R (A ||| B) (exec (.sor grp o) s) ∧
      R (A ^^^ B) (exec (.sxor grp o) s) ∧
      R (A &&& ~~~B) (exec (.sandn grp o) s) ∧
      R (A <<< (B.toNat % 64)) (exec (.sshl grp o) s) ∧
      R (A >>> (B.toNat % 64)) (exec (.sshr grp o) s) ∧
      R (A.sshiftRight (B.toNat % 64)) (exec (.ssar grp o) s)) ∧
   (∀ (s : State) (c : Cur) (g : Gang) (grp : Grp) (o : OpS3), Clear s c g → (regsS3 o).all g.usable = true →
      let D := g.readS c.slotB o.d.toNat
      let A := g.readS c.slotB o.a.toNat
      let B := g.readS c.slotB o.b.toNat
      let R := ScalarResult s c g grp (nextPc c grp) 2 o.d.toNat
      R (if A.slt B then A else B) (exec (.sminI grp o) s) ∧
      R (if A.ult B then A else B) (exec (.sminN grp o) s) ∧
      R (if A.slt B then B else A) (exec (.smaxI grp o) s) ∧
      R (if A.ult B then B else A) (exec (.smaxN grp o) s) ∧
      R (if A = B then 1 else 0) (exec (.scmpEq grp o) s) ∧
      R (if A = B then 0 else 1) (exec (.scmpNe grp o) s) ∧
      R (if A.slt B then 1 else 0) (exec (.scmpLtI grp o) s) ∧
      R (if A.ult B then 1 else 0) (exec (.scmpLtN grp o) s) ∧
      R (if A.sle B then 1 else 0) (exec (.scmpLeI grp o) s) ∧
      R (if A.ule B then 1 else 0) (exec (.scmpLeN grp o) s) ∧
      R (if D = 0 then B else A) (exec (.ssel grp o) s))

/-- R102: the field at pos = B[5:0] of len = min(B[14:8], 64 - pos) bits, read, sign-extended from its bit len - 1, and
replaced.
R100: the unary forms: the copy, counts of bits, the reversal of bits, and the extensions of the low bits. -/
def Obligations.ScalarBitFieldsAndUnary : Prop :=
   (∀ (s : State) (c : Cur) (g : Gang) (grp : Grp) (o : OpS3), Clear s c g → (regsS3 o).all g.usable = true →
      let D := g.readS c.slotB o.d.toNat
      let A := g.readS c.slotB o.a.toNat
      let B := g.readS c.slotB o.b.toNat
      let pos := (B.extractLsb' 0 6).toNat
      let len := min (B.extractLsb' 8 7).toNat (64 - pos)
      let mask : W64 := ((BitVec.allOnes 64) >>> (64 - len)) <<< pos
      let R := ScalarResult s c g grp (nextPc c grp) 2 o.d.toNat
      R ((A &&& mask) >>> pos) (exec (.sbfeN grp o) s) ∧
      R (if len = 0 then 0 else (A <<< (64 - pos - len)).sshiftRight (64 - len)) (exec (.sbfeI grp o) s) ∧
      R ((D &&& ~~~mask) ||| ((A <<< pos) &&& mask)) (exec (.sbfi grp o) s)) ∧
   (∀ (s : State) (c : Cur) (g : Gang) (grp : Grp) (o : OpS2), Clear s c g → (regsS2 o).all g.usable = true →
      let A := g.readS c.slotB o.a.toNat
      let R := ScalarResult s c g grp (nextPc c grp) 2 o.d.toNat
      R A (exec (.smov grp o) s) ∧
      (∃ n : Nat, n ≤ 64 ∧ (∀ i, i < n → A.getLsbD (63 - i) = false) ∧ (n < 64 → A.getLsbD (63 - n) = true) ∧
        R (w64 n) (exec (.sclz grp o) s)) ∧
      (∃ n : Nat, n ≤ 64 ∧ (∀ i, i < n → A.getLsbD i = false) ∧ (n < 64 → A.getLsbD n = true) ∧
        R (w64 n) (exec (.sctz grp o) s)) ∧
      R (w64 ((List.range 64).countP A.getLsbD)) (exec (.spopc grp o) s) ∧
      R A.reverse (exec (.sbrev grp o) s) ∧
      R ((A.setWidth 8).signExtend 64) (exec (.sxtI8 grp o) s) ∧
      R ((A.setWidth 16).signExtend 64) (exec (.sxtI16 grp o) s) ∧
      R ((A.setWidth 32).signExtend 64) (exec (.sxtI32 grp o) s) ∧
      R ((A.setWidth 8).setWidth 64) (exec (.sxtN8 grp o) s) ∧
      R ((A.setWidth 16).setWidth 64) (exec (.sxtN16 grp o) s) ∧
      R ((A.setWidth 32).setWidth 64) (exec (.sxtN32 grp o) s))

/-- R59, R103: the 16-bit immediate below its `limm` payloads, sign- or zero-extended. -/
def Obligations.ScalarImmediates : Prop :=
  ∀ (s : State) (c : Cur) (g : Gang) (grp : Grp) (o : OpSI), Clear s c g → (regsSI o).all g.usable = true →
    let D := g.readS c.slotB o.d.toNat
    let R := ScalarResult s c g grp (nextPc c grp) 2 o.d.toNat
    R (longSigned grp.limms o.imm) (exec (.sli grp o) s) ∧
    R (longUnsigned grp.limms o.imm) (exec (.slui grp o) s) ∧
    R (D + longSigned grp.limms o.imm) (exec (.saddi grp o) s) ∧
    R (D &&& longSigned grp.limms o.imm) (exec (.sandi grp o) s)

/-! Control flow: R49, R104, R105, R108 to R110. -/

/-- R49, R104, R105: a branch goes to its label or to the next group, `call` also links, and `ret` goes to A[56:2] * 4. -/
def Obligations.BranchTargets : Prop :=
  ∀ (s : State) (c : Cur) (g : Gang) (grp : Grp), Clear s c g →
    (∀ o : OpFB,
      GoesTo s c g grp (labelOf c grp o.off) (exec (.br grp o) s) ∧
      ([Reg.s 61].all g.usable = true →
        ScalarResult s c g grp (labelOf c grp o.off) 0 61 (wordPc c grp + 4) (exec (.call grp o) s))) ∧
    (∀ o : OpFBS, [Reg.s o.a.toNat].all g.usable = true →
      let A := g.readS c.slotB o.a.toNat
      let target := fun (taken : Bool) => if taken then labelOf c grp o.off else nextPc c grp
      GoesTo s c g grp (target (A == 0)) (exec (.brz grp o) s) ∧
      GoesTo s c g grp (target (A != 0)) (exec (.brnz grp o) s) ∧
      GoesTo s c g grp (target (A.getLsbD 63)) (exec (.brn grp o) s) ∧
      GoesTo s c g grp (target (!A.getLsbD 63)) (exec (.brnn grp o) s)) ∧
    (∀ o : OpCA, [Reg.s o.a.toNat].all g.usable = true →
      GoesTo s c g grp (((g.readS c.slotB o.a.toNat).extractLsb' 2 55).setWidth 64 <<< 2) (exec (.ret grp o) s))

/-- R108, R109: `if` splits a slot A whose slot B is idle when both sides have lanes: slot A goes on with the lanes of the
condition mask, and slot B starts at the label with the others.
R109: the serialised `if`, `else` outside a split, and the `endif` that closes either: masks and stack of the slot, with the
reconvergence fence of R300.
The model's readings and choices in it: the carry masks belong to each split, innermost first
(notes/assumptions/19.md). -/
def Obligations.IfForms : Prop :=
   (∀ (s : State) (c : Cur) (g : Gang) (grp : Grp) (o : OpFIf), Clear s c g → g.a.stack.length < 8 →
      c.slotB = false → g.b.live = false →
      let T := g.a.mask &&& g.readM o.m.toNat
      let E := g.a.mask &&& ~~~g.readM o.m.toNat
      T ≠ 0 → E ≠ 0 →
      ∃ t h, exec (.opIf grp o) s = .next t ∧ OnlyGang s c g grp h t ∧
        h.a.pc = nextPc c grp ∧ h.a.mask = T ∧ h.a.stack = .ifE g.a.mask 0 T .split :: g.a.stack ∧ h.a.icnt = g.a.icnt + 1 ∧
        h.b.live = true ∧ h.b.pc = labelOf c grp o.off ∧ h.b.mask = E ∧ h.b.stack = [] ∧ h.b.icnt = g.a.icnt + 1 ∧
        h.b.parked = none ∧ h.bStart = E ∧ h.cb = 0 ∧ h.cn = 0 ∧
        h = { g with a := h.a, b := h.b, bStart := h.bStart, bCount := h.bCount, cb := h.cb, cn := h.cn, seq := g.seq + 1 }) ∧
   (∀ (s : State) (c : Cur) (g : Gang) (grp : Grp), Clear s c g →
      let M := (g.slot c.slotB).mask
      let S := (g.slot c.slotB).stack
      (∀ o : OpFIf, S.length < 8 →
        let T := M &&& g.readM o.m.toNat
        let E := M &&& ~~~g.readM o.m.toNat
        (c.slotB = true ∨ g.b.live = true ∨ T = 0 ∨ E = 0) →
        MasksTo s c g grp (if T = 0 then labelOf c grp o.off else nextPc c grp) T (.ifE M E T .thenSide :: S) (exec (.opIf grp o) s)) ∧
      (∀ (o : OpFLab) (sv el cur : W32) (rest : List StackEntry),
        (S = .ifE sv el cur .thenSide :: rest →
          MasksTo s c g grp (if el = 0 then labelOf c grp o.off else nextPc c grp) el (.ifE sv el el .elseSide :: rest)
            (exec (.opElse grp o) s)) ∧
        (S = .ifE sv el cur .split :: rest → GoesTo s c g grp (labelOf c grp o.off) (exec (.opElse grp o) s)) ∧
        (S = [] → c.slotB = true → GoesTo s c g grp (nextPc c grp) (exec (.opElse grp o) s))) ∧
      (∀ (sv el cur : W32) (st : SideState) (rest : List StackEntry), S = .ifE sv el cur st :: rest → st ≠ .split →
        MasksTo s c (g.reconverge ((g.slot c.slotB).path ++ [g.seq])) grp (nextPc c grp) sv rest (exec (.endif grp) s)))

/-- R300: an `endif`, and the `endl` that closes a loop, leave a fence of kind `ar` and scope `.core` for the gang's unbuffered accesses.
R109: slot B retires at the `endif` that finds its stack empty, and slot A, which has waited for that, then leaves the
lanes that slot B removed from its loop.
R109, R110: `loop` opens a loop over the slot's lanes; `brk` takes lanes out of it and `nxt` holds them for its next
iteration, in slot B without a loop of its own through the carry masks; `endl` begins the next iteration or closes the loop.
The model's readings and choices in it: the carry masks belong to each split, innermost first
(notes/assumptions/19.md). -/
def Obligations.JoinsAndLoops : Prop :=
   (∀ (s : State) (c : Cur) (g : Gang) (grp : Grp), Clear s c g →
      (c.slotB = true → g.b.stack = [] →
        ∃ t h, exec (.endif grp) s = .next t ∧ OnlyGang s c g grp h t ∧ h.b.live = false ∧
          h.joining = (g.cb, g.cn, g.b.icnt + 1 - g.bCount) :: g.joining ∧ h.order = g.order ++ [(g.b.path ++ [g.seq], 0, 0)] ∧
          h = { g with b := h.b, order := h.order, joining := h.joining, bStart := 0, bCount := 0, cb := 0, cn := 0, seq := g.seq + 1 }) ∧
      (∀ (sv el cur : W32) (rest : List StackEntry), c.slotB = false → g.a.stack = .ifE sv el cur .split :: rest →
        (g.b.live = true →
          ∃ t h, exec (.endif grp) s = .next t ∧ aget t.gangs c.gang = some h ∧ h.a.waits = true ∧ h.a.pc = g.a.pc ∧
            h.a.mask = g.a.mask ∧ h.a.stack = g.a.stack ∧ h.a.icnt = g.a.icnt ∧ h.b = g.b) ∧
        (∀ (cb cn : W32) (count : BitVec 48) (older : List (W32 × W32 × BitVec 48)), g.b.live = false →
          g.joining = (cb, cn, count) :: older →
          ∃ t h, exec (.endif grp) s = .next t ∧ OnlyGang s c g grp h t ∧ h.a.pc = nextPc c grp ∧
            h.a.mask = sv &&& ~~~(cb ||| cn) ∧ h.a.stack = addWaiting cn (cutStack (cb ||| cn) rest) ∧
            h.a.icnt = g.a.icnt + count + 1 ∧ h.joining = older ∧ h.order = g.order ++ [(g.a.path.dropLast ++ [2], 0, 0)] ∧
            h = { g with a := h.a, order := h.order, joining := older, seq := g.seq + 1 }))) ∧
   (∀ (s : State) (c : Cur) (g : Gang) (grp : Grp), Clear s c g →
      let M := (g.slot c.slotB).mask
      let S := (g.slot c.slotB).stack
      (∀ o : OpFLab, S.length < 8 →
        MasksTo s c g grp (if M = 0 then labelOf c grp o.off else nextPc c grp) M (.loopE M M 0 :: S) (exec (.loop grp o) s)) ∧
      (∀ o : OpFM,
        let L := M &&& g.readM o.m.toNat
        (inLoop S = true →
          MasksTo s c g grp (nextPc c grp) (M &&& ~~~L) (cutStack L S) (exec (.brk grp o) s) ∧
          MasksTo s c g grp (nextPc c grp) (topCur 0 (addWaiting L (cutStack L S))) (addWaiting L (cutStack L S)) (exec (.nxt grp o) s)) ∧
        (inLoop S = false → c.slotB = true → inLoop (belowSplit g.a.stack) = true →
          (∃ t h, exec (.brk grp o) s = .next t ∧ OnlyGang s c g grp h t ∧ h.cb = g.cb ||| L ∧ h.cn = g.cn ∧
            Advances s c g grp (nextPc c grp) (M &&& ~~~L) (cutStack L S) h ∧ h = { g with a := h.a, b := h.b, cb := h.cb, seq := h.seq }) ∧
          (∃ t h, exec (.nxt grp o) s = .next t ∧ OnlyGang s c g grp h t ∧ h.cb = g.cb ∧ h.cn = g.cn ||| L ∧
            Advances s c g grp (nextPc c grp) (topCur (g.bStart &&& ~~~g.cb &&& ~~~(g.cn ||| L)) (cutStack L S)) (cutStack L S) h ∧
            h = { g with a := h.a, b := h.b, cn := h.cn, seq := h.seq }))) ∧
      (∀ (o : OpFLab) (sv cur ct : W32) (rest : List StackEntry), S = .loopE sv cur ct :: rest →
        (cur ||| ct ≠ 0 →
          MasksTo s c g grp (labelOf c grp o.off) (cur ||| ct) (.loopE sv (cur ||| ct) 0 :: rest) (exec (.endl grp o) s)) ∧
        (cur ||| ct = 0 →
          MasksTo s c (g.reconverge ((g.slot c.slotB).path ++ [g.seq])) grp (nextPc c grp) sv rest (exec (.endl grp o) s))))

/-! Vector integers: R55, R70, R129 to R140. -/

/-- R134: element sums, differences, products, high products, extremes, multiply-adds and absolute values, of every integer type,
wrapped or, under SAT, clamped to the type.
The model's readings and choices in it: the absolute value of an unsigned element is the element
(notes/assumptions/24.md). -/
def Obligations.VectorIntegerArithmetic : Prop :=
  (∀ (s : State) (c : Cur) (g : Gang) (grp : Grp) (o : OpV3), Clear s c g →
      let code := typeOf grp 1
      let n := typeRegs code
      let t := intTyOf code
      let p := grp.fields
      let z := thirdReg grp o.d.toNat
      let X := fun l k => t.pre p.abs p.nega (elem t.w (g.operand o.a.toNat n l) k)
      let Y := fun l k => t.pre p.abs p.negb (elem t.w (g.operand o.b.toNat n l) k)
      let Z := fun l k => t.val (elem t.w (g.operand z n l) k)
      let R := fun (latency : Nat) (f : Nat → Nat → Int) => ElemResult s c g grp latency o.d.toNat n t.w (fun l k => t.out p.sat (f l k))
      g.groupsReady [(o.d.toNat, n), (o.a.toNat, n), (o.b.toNat, n)] = true →
      R 4 (fun l k => X l k + Y l k) (exec (.vadd grp o) s) ∧
      R 4 (fun l k => X l k - Y l k) (exec (.vsub grp o) s) ∧
      R 5 (fun l k => X l k * Y l k) (exec (.vmul grp o) s) ∧
      R 5 (fun l k => X l k * Y l k / 2 ^ t.w) (exec (.vmulh grp o) s) ∧
      R 4 (fun l k => if X l k ≤ Y l k then X l k else Y l k) (exec (.vmin grp o) s) ∧
      R 4 (fun l k => if X l k ≤ Y l k then Y l k else X l k) (exec (.vmax grp o) s) ∧
      (g.groupsReady [(z, n)] = true → R 5 (fun l k => X l k * Y l k + Z l k) (exec (.vmad grp o) s))) ∧
  (∀ (s : State) (c : Cur) (g : Gang) (grp : Grp) (o : OpV2), Clear s c g →
    let code := typeOf grp 1
    let n := typeRegs code
    let t := intTyOf code
    g.groupsReady [(o.d.toNat, n), (o.a.toNat, n)] = true →
    ElemResult s c g grp 4 o.d.toNat n t.w
      (fun l k => t.out grp.fields.sat |t.val (elem t.w (g.operand o.a.toNat n l) k)|) (exec (.vabs grp o) s))

/-- R136: the one-operand forms on elements: bit counts and the reversal.
R135, R137: bitwise operations, shifts by the element's low bits, selection, and 32-bit bit fields. -/
def Obligations.VectorUnaryAndBitwise : Prop :=
   (∀ (s : State) (c : Cur) (g : Gang) (grp : Grp) (o : OpV2), Clear s c g →
      (let code := typeOf grp 2
       let n := typeRegs code
       let w := (intTyOf code).w
       let X := fun l k => elem w (g.operand o.a.toNat n l) k
       let R := ElemResult s c g grp 4 o.d.toNat n w
       g.groupsReady [(o.d.toNat, n), (o.a.toNat, n)] = true →
        R (fun l k => clz w (X l k)) (exec (.vclz grp o) s) ∧
        R (fun l k => ctz w (X l k)) (exec (.vctz grp o) s) ∧
        R (fun l k => if X l k = 0 then 0 else ctz w (X l k) + 1) (exec (.vffs grp o) s) ∧
        R (fun l k => (List.range w).countP (fun i => (X l k).testBit i)) (exec (.vpopc grp o) s) ∧
        (∃ f : Nat → Nat → Nat, (∀ l k i, i < w → (f l k).testBit i = (X l k).testBit (w - 1 - i)) ∧ R f (exec (.vbrev grp o) s)))) ∧
   (∀ (s : State) (c : Cur) (g : Gang) (grp : Grp) (o : OpV3), Clear s c g →
      let code := typeOf grp 2
      let n := typeRegs code
      let t := intTyOf code
      let z := thirdReg grp o.d.toNat
      let X := fun l k => elem t.w (g.operand o.a.toNat n l) k
      let Y := fun l k => elem t.w (g.operand o.b.toNat n l) k
      let Z := fun l k => elem t.w (g.operand z n l) k
      let R := ElemResult s c g grp 4 o.d.toNat n t.w
      g.groupsReady [(o.d.toNat, n), (o.a.toNat, n), (o.b.toNat, n)] = true →
      R (fun l k => X l k &&& Y l k) (exec (.vand grp o) s) ∧
      R (fun l k => X l k ||| Y l k) (exec (.vor grp o) s) ∧
      R (fun l k => X l k ^^^ Y l k) (exec (.vxor grp o) s) ∧
      R (fun l k => X l k &&& (2 ^ t.w - 1 - Y l k)) (exec (.vandn grp o) s) ∧
      R (fun l k => X l k <<< (Y l k % t.w)) (exec (.vshl grp o) s) ∧
      R (fun l k => X l k >>> (Y l k % t.w)) (exec (.vshr grp o) s) ∧
      R (fun l k => (sext t.w (X l k) / 2 ^ (Y l k % t.w) % 2 ^ t.w).toNat) (exec (.vsar grp o) s) ∧
      (g.groupsReady [(z, n)] = true → R (fun l k => if Z l k ≠ 0 then X l k else Y l k) (exec (.vsel grp o) s)) ∧
      (n = 1 → t.w = 32 →
        let pos := fun l => Y l 0 % 32
        let len := fun l => min (Y l 0 / 256 % 64) (32 - pos l)
        let field := fun l => X l 0 / 2 ^ pos l % 2 ^ len l
        R (fun l _ => if len l = 0 then 0
            else if t.signed = true ∧ (field l).testBit (len l - 1) = true then 2 ^ 32 - 2 ^ len l + field l else field l)
          (exec (.vbfe grp o) s) ∧
        (g.groupsReady [(z, n)] = true →
          R (fun l _ => (Z l 0 &&& (2 ^ 32 - 1 - (2 ^ len l - 1) * 2 ^ pos l)) ||| (X l 0 * 2 ^ pos l &&& (2 ^ len l - 1) * 2 ^ pos l))
            (exec (.vbfi grp o) s))))

/-- R138, R139: dot products of packed elements added to a 32-bit word of the same sign, comparisons giving all ones, and the
copy of a register or pair.
R59, R140: the forms with an immediate. -/
def Obligations.VectorCompareDotAndImmediates : Prop :=
   (∀ (s : State) (c : Cur) (g : Gang) (grp : Grp) (o : OpV3), Clear s c g →
      (let code := typeOf grp 1
       let n := typeRegs code
       let t := intTyOf code
       let X := fun l k => t.val (elem t.w (g.operand o.a.toNat n l) k)
       let Y := fun l k => t.val (elem t.w (g.operand o.b.toNat n l) k)
       let R := fun (rel : Int → Int → Bool) => ElemResult s c g grp 4 o.d.toNat n t.w (fun l k => if rel (X l k) (Y l k) then 2 ^ t.w - 1 else 0)
       g.groupsReady [(o.d.toNat, n), (o.a.toNat, n), (o.b.toNat, n)] = true →
        R (fun x y => x = y) (exec (.vcmpEq grp o) s) ∧
        R (fun x y => x ≠ y) (exec (.vcmpNe grp o) s) ∧
        R (fun x y => x < y) (exec (.vcmpLt grp o) s) ∧
        R (fun x y => x ≤ y) (exec (.vcmpLe grp o) s) ∧
        R (fun x y => y < x) (exec (.vcmpGt grp o) s) ∧
        R (fun x y => y ≤ x) (exec (.vcmpGe grp o) s)) ∧
      (let n := typeRegs (typeOf grp 1)
       g.groupsReady [(o.d.toNat, n), (o.a.toNat, n)] = true →
        VectorResult s c g grp 4 o.d.toNat n (fun j l => g.lane? (o.a.toNat + j) l) (exec (.vmov grp { d := o.d, a := o.a }) s)) ∧
      (let z := thirdReg grp o.d.toNat
       let Dot := fun (t : IntTy) (m : Nat) (out : Outcome) =>
         let acc : IntTy := { w := 32, signed := t.signed }
         let X := fun l k => t.val (elem t.w (g.lane? o.a.toNat l).toNat k)
         let Y := fun l k => t.val (elem t.w (g.lane? o.b.toNat l).toNat k)
         t.w * m = 32 → ElemResult s c g grp 5 o.d.toNat 1 32
           (fun l _ => acc.out grp.fields.sat (acc.val (g.lane? z l).toNat + ((List.range m).map (fun k => X l k * Y l k)).sum)) out
       g.groupsReady [(o.d.toNat, 1), (o.a.toNat, 1), (o.b.toNat, 1), (z, 1)] = true →
        Dot (intTyOf (typeOf grp 5)) 4 (exec (.vdp4 grp o) s) ∧ Dot (intTyOf (typeOf grp 3)) 2 (exec (.vdp2 grp o) s))) ∧
   (∀ (s : State) (c : Cur) (g : Gang) (grp : Grp), Clear s c g →
      (∀ o : OpVL, g.groupsReady [(o.d.toNat, 1)] = true →
        VectorResult s c g grp 4 o.d.toNat 1 (fun _ _ => (longSigned grp.limms o.imm).setWidth 32) (exec (.vli grp o) s)) ∧
      (∀ o : OpVI, g.groupsReady [(o.d.toNat, 1), (o.a.toNat, 1)] = true →
        let X := fun l => g.lane? o.a.toNat l
        let v := longSigned grp.limms o.imm
        let R := fun (f : Nat → W32) => VectorResult s c g grp 4 o.d.toNat 1 (fun _ l => f l)
        (typeOf grp 1 ≤ 2 → grp.fields.sat = false → R (fun l => X l + v.setWidth 32) (exec (.vaddi grp o) s)) ∧
        (typeOf grp 1 = 1 → grp.fields.sat = true →
          R (fun l => BitVec.ofInt 32 (max (-2 ^ 31) (min (2 ^ 31 - 1) ((X l).toInt + v.toInt)))) (exec (.vaddi grp o) s)) ∧
        (typeOf grp 1 = 2 → grp.fields.sat = true →
          R (fun l => BitVec.ofInt 32 (max 0 (min (2 ^ 32 - 1) ((X l).toNat + v.toInt)))) (exec (.vaddi grp o) s)) ∧
        R (fun l => X l &&& v.setWidth 32) (exec (.vandi grp o) s) ∧
        R (fun l => X l ||| v.setWidth 32) (exec (.vori grp o) s) ∧
        R (fun l => X l ^^^ v.setWidth 32) (exec (.vxori grp o) s)) ∧
      (∀ o : OpVSh, g.groupsReady [(o.d.toNat, 1), (o.a.toNat, 1)] = true →
        let X := fun l => g.lane? o.a.toNat l
        let R := fun (f : Nat → W32) => VectorResult s c g grp 4 o.d.toNat 1 (fun _ l => f l)
        R (fun l => X l <<< o.n.toNat) (exec (.vshli grp o) s) ∧
        R (fun l => X l >>> o.n.toNat) (exec (.vshri grp o) s) ∧
        R (fun l => (X l).sshiftRight o.n.toNat) (exec (.vsari grp o) s)))

/-! Floating point: R55, R85 to R89, R141 to R150. -/

/-- R141: sums, differences, products and multiply-adds are exact values rounded once by the group's rounding code.
R144: the dot product of two elements with an f32 addend, the scaling by a power of two, and the interpolation.
The model's readings and choices in it: the sign of an exact zero that a fused operation gives
(notes/assumptions/10.md); SAT on vfdot2, vfscl and vflerp makes an infinite result the largest finite value
(notes/assumptions/23.md). -/
def Obligations.FloatArithmeticAndDots : Prop :=
   (∀ (s : State) (c : Cur) (g : Gang) (grp : Grp) (o : OpV3), Clear s c g →
      let t := fmtOf (typeOf grp 7)
      let p := grp.fields
      let rm := rndOf grp
      let z := thirdReg grp o.d.toNat
      let X := fun l k => t.val (floatElem t p.abs p.nega (g.lane? o.a.toNat l).toNat k)
      let Y := fun l k => t.val (floatElem t p.abs p.negb (g.lane? o.b.toNat l).toNat k)
      let Z := fun l k => t.val (elem t.width (g.lane? z l).toNat k)
      let R := fun (f : Nat → Nat → FVal) => ElemResult s c g grp 5 o.d.toNat 1 t.width (fun l k => roundTo grp t (drawAt s c g grp l k) (f l k))
      g.groupsReady [(o.d.toNat, 1), (o.a.toNat, 1), (o.b.toNat, 1)] = true →
      R (fun l k => (X l k).add rm (Y l k)) (exec (.vfadd grp o) s) ∧
      R (fun l k => if (Y l k).isNan then (X l k).add rm (Y l k) else (X l k).add rm (Y l k).neg) (exec (.vfsub grp o) s) ∧
      R (fun l k => (X l k).mul (Y l k)) (exec (.vfmul grp o) s) ∧
      (g.groupsReady [(z, 1)] = true →
        R (fun l k => FVal.fma rm (X l k) (Y l k) (Z l k)) (exec (.vfma grp o) s) ∧
        R (fun l k => if (X l k).isNan then FVal.fma rm (X l k) (Y l k) (Z l k) else FVal.fma rm (X l k).neg (Y l k) (Z l k))
          (exec (.vfnma grp o) s))) ∧
   (∀ (s : State) (c : Cur) (g : Gang) (grp : Grp) (o : OpV3), Clear s c g →
      let p := grp.fields
      let rm := rndOf grp
      let z := thirdReg grp o.d.toNat
      g.groupsReady [(o.d.toNat, 1), (o.a.toNat, 1), (o.b.toNat, 1)] = true →
      (let t := fmtOf (typeOf grp 8)
       let X := fun l k => t.val (floatElem t p.abs p.nega (g.lane? o.a.toNat l).toNat k)
       let Y := fun l k => t.val (floatElem t p.abs p.negb (g.lane? o.b.toNat l).toNat k)
       g.groupsReady [(z, 1)] = true →
        VectorResult s c g grp 5 o.d.toNat 1
          (fun _ l => w32 (roundTo grp fF32 (drawAt s c g grp l 0) (dot2 rm (X l 0) (Y l 0) (X l 1) (Y l 1) (fF32.val (g.lane? z l).toNat))))
          (exec (.vfdot2 grp o) s)) ∧
      (let t := fmtOf (typeOf grp 7)
       ElemResult s c g grp 5 o.d.toNat 1 t.width
        (fun l k => roundTo grp t (drawAt s c g grp l k)
          ((t.val (floatElem t p.abs p.nega (g.lane? o.a.toNat l).toNat k)).scale
            (max (-1024) (min 1024 (sext t.width (elem t.width (g.lane? o.b.toNat l).toNat k))))))
        (exec (.vfscl grp o) s)) ∧
      (g.groupsReady [(z, 1)] = true →
        VectorResult s c g grp 5 o.d.toNat 1
          (fun _ l => w32 (roundTo grp fF32 (drawAt s c g grp l 0)
            (lerp rm (fF32.val (g.lane? o.a.toNat l).toNat) (fF32.val (g.lane? o.b.toNat l).toNat) (fF32.val (g.lane? z l).toNat))))
          (exec (.vflerp grp o) s)))

/-- R142, R143: the lesser and greater with and without NaN operands, comparisons giving all ones, and the copied sign.
R141, R143, R144: the one-operand forms: signs, class bits, rounding to an integral value, exponent and significand. -/
def Obligations.FloatCompareAndUnary : Prop :=
   (∀ (s : State) (c : Cur) (g : Gang) (grp : Grp) (o : OpV3), Clear s c g →
      let t := fmtOf (typeOf grp 7)
      let p := grp.fields
      let X := fun l k => floatElem t p.abs p.nega (g.lane? o.a.toNat l).toNat k
      let Y := fun l k => floatElem t p.abs p.negb (g.lane? o.b.toNat l).toNat k
      let R := fun (f : Nat → Nat → Nat) => ElemResult s c g grp 5 o.d.toNat 1 t.width (fun l k => f (X l k) (Y l k))
      let Less := fun x y => if (t.val y).ltZ (t.val x) then y else x
      let More := fun x y => if (t.val x).ltZ (t.val y) then y else x
      let Numbers := fun (pick : Nat → Nat → Nat) x y =>
        if (t.val x).isNan then (if (t.val y).isNan then quiet t x else y) else if (t.val y).isNan then x else pick x y
      let Nans := fun (pick : Nat → Nat → Nat) x y =>
        if (t.val x).isNan then quiet t x else if (t.val y).isNan then quiet t y else pick x y
      let Rel := fun (b : Bool) => if b then 2 ^ t.width - 1 else 0
      g.groupsReady [(o.d.toNat, 1), (o.a.toNat, 1), (o.b.toNat, 1)] = true →
      R (Numbers Less) (exec (.vfmin grp o) s) ∧
      R (Numbers More) (exec (.vfmax grp o) s) ∧
      R (Nans Less) (exec (.vfminNan grp o) s) ∧
      R (Nans More) (exec (.vfmaxNan grp o) s) ∧
      R (fun x y => Rel ((t.val x).eqV (t.val y))) (exec (.vfcmpEq grp o) s) ∧
      R (fun x y => Rel ((t.val x).lt (t.val y))) (exec (.vfcmpLt grp o) s) ∧
      R (fun x y => Rel ((t.val x).lt (t.val y) || (t.val x).eqV (t.val y))) (exec (.vfcmpLe grp o) s) ∧
      R (fun x y => Rel ((t.val x).isNan || (t.val y).isNan)) (exec (.vfcmpUn grp o) s) ∧
      R (fun x y => x % t.signBit + y / t.signBit * t.signBit) (exec (.vfcpsgn grp o) s)) ∧
   (∀ (s : State) (c : Cur) (g : Gang) (grp : Grp) (o : OpV2), Clear s c g →
      let t := fmtOf (typeOf grp 7)
      let p := grp.fields
      let X := fun l k => floatElem t p.abs p.nega (g.lane? o.a.toNat l).toNat k
      let R := fun (f : Nat → Nat → Nat) => ElemResult s c g grp 5 o.d.toNat 1 t.width f
      g.groupsReady [(o.d.toNat, 1), (o.a.toNat, 1)] = true →
      R (fun l k => X l k % t.signBit) (exec (.vfabs grp o) s) ∧
      R (fun l k => if X l k < t.signBit then X l k + t.signBit else X l k - t.signBit) (exec (.vfneg grp o) s) ∧
      R (fun l k => classBits t (X l k)) (exec (.vfclass grp o) s) ∧
      R (fun l k => roundIntegral (rndOf grp) (drawAt s c g grp l k) t (X l k)) (exec (.vfrnd grp o) s) ∧
      (∃ E M : Nat → Nat, R (fun l k => E (X l k)) (exec (.vfexp grp o) s) ∧ R (fun l k => M (X l k)) (exec (.vfmant grp o) s) ∧
        ∀ x, (∀ n m e, t.val x = .fin n m e →
            E x = wrapTo t.width (floorExp m e) ∧ M x = (FVal.fin n m (e - floorExp m e)).round t .rtz false 0) ∧
          (∀ n, t.val x = .zero n → E x = 2 ^ (t.width - 1) ∧ M x = x) ∧
          (∀ n, t.val x = .inf n → E x = 2 ^ (t.width - 1) - 1 ∧ M x = x) ∧
          (∀ n q, t.val x = .nan n q → E x = 2 ^ (t.width - 1) - 1 ∧ M x = nanCode t n q)))

/-- R91, R145, R146: conversions of one element to 32 bits, of words to packed elements, of packed elements to a wider pair, and
of the lanes to a block of e2m1 codes with their scale.
R147, R148: the special functions: the table's values at zeros, infinities and NaNs, and the function's value rounded once
elsewhere; the value before rounding is the model's, computed to 768 fraction bits for the transcendental ones
(notes/assumptions/9.md). Reciprocals and roots are exact, or lie strictly between two neighbours whose even one is not the value, so
that the one rounding is that of the exact value; powers of two, integers and halves give the exact values of the others.
The model's readings and choices in it: the special functions are rounded once from their exact value
(notes/assumptions/9.md); the conversion of an infinity to a float no wider than its own is an overflow, under the rounding code
and saturation (notes/assumptions/22.md). -/
def Obligations.ConversionsAndSpecialFunctions : Prop :=
   (∀ (s : State) (c : Cur) (g : Gang) (grp : Grp), Clear s c g →
      let sat := grp.fields.sat
      let rm := rndOf grp
      (∀ o : OpVC, g.groupsReady [(o.d.toNat, 1), (o.a.toNat, 1)] = true →
        let ty := o.ty.toNat
        let X := fun l => elem (codeWidth ty) (g.lane? o.a.toNat l).toNat o.sel.toNat
        let Bits := fun (w : Nat) (signed : Bool) (l : Nat) =>
          match codeVal ty (X l) with
          | .int n => wrapTo w (if sat then clampInt w signed n else n)
          | .float _ v => wrapTo w (v.toInt rm (drawAt s c g grp l 0) w signed)
        let R := fun (f : Nat → Nat) => VectorResult s c g grp 5 o.d.toNat 1 (fun _ l => w32 (f l))
        R (fun l => if ty = 0x12 then X l else match codeVal ty (X l) with
            | .int n => (FVal.ofInt n).round fF32 rm false (drawAt s c g grp l 0)
            | .float _ v => v.round fF32 rm false (drawAt s c g grp l 0)) (exec (.vcvtF grp o) s) ∧
        R (Bits 32 true) (exec (.vcvtI grp o) s) ∧
        R (Bits 32 false) (exec (.vcvtN grp o) s) ∧
        ElemResult s c g grp 5 o.d.toNat 1 16
          (fun l k => match codeVal ty (elem (codeWidth ty) (g.lane? o.a.toNat l).toNat (2 * o.sel.toNat + k)) with
            | .int n => wrapTo 16 n
            | .float _ v => v.round (fmtOf grp.fields.typ.toNat) .rne false 0) (exec (.vcvtUnpk grp o) s)) ∧
      (∀ o : OpV3,
        (g.groupsReady [(o.d.toNat, 1), (o.a.toNat, 1), (o.b.toNat, 1)] = true →
          ElemResult s c g grp 5 o.d.toNat 1 16
            (fun l k => packTo grp (drawAt s c g grp l k) grp.fields.typ.toNat (g.lane? (if k = 0 then o.a.toNat else o.b.toNat) l).toNat)
            (exec (.vcvtPk16 grp o) s)) ∧
        (g.groupsReady [(o.d.toNat, 1), (o.a.toNat, 2), (o.b.toNat, 2)] = true →
          ElemResult s c g grp 5 o.d.toNat 1 8
            (fun l k => packTo grp (drawAt s c g grp l k) grp.fields.typ.toNat
              (g.lane? ((if k < 2 then o.a.toNat else o.b.toNat) + k % 2) l).toNat)
            (exec (.vcvtPk8 grp o) s))) ∧
      (∀ o : OpV2, g.groupsReady [(o.d.toNat, 1), (o.a.toNat, 1)] = true →
        let block := blockE2M1
          ((List.range 32).map (fun l => if participates c g grp l then fF32.val (g.lane? o.a.toNat l).toNat else .zero false)) rm
          ((List.range 32).map (fun l => drawAt s c g grp l 0))
        VectorResult s c g grp 5 o.d.toNat 1 (fun _ l => w32 (tget 0 block.2 l + block.1 * 2 ^ 8)) (exec (.vcvtBs grp o) s))) ∧
   (∀ (s : State) (c : Cur) (g : Gang) (grp : Grp) (o : OpV2), Clear s c g →
      let t := fmtOf (typeOf grp 7)
      let p := grp.fields
      let R := fun (out : Outcome) (zeroPos zeroNeg infPos infNeg : FVal) (f : Bool → Nat → Int → FVal) =>
        ∃ F : FVal → Nat, F (.zero false) = zeroPos.round t (rndOf grp) false 0 ∧ F (.zero true) = zeroNeg.round t (rndOf grp) false 0 ∧
          F (.inf false) = infPos.round t (rndOf grp) false 0 ∧ F (.inf true) = infNeg.round t (rndOf grp) false 0 ∧
          (∀ n q, F (.nan n q) = nanCode t n q) ∧ (∀ n m e, F (.fin n m e) = (f n m e).round t (rndOf grp) false 0) ∧
          ElemResult s c g grp 12 o.d.toNat 1 t.width
            (fun l k => F (t.val (floatElem t p.abs p.nega (g.lane? o.a.toNat l).toNat k))) out
      let Nan := FVal.canonical
      let One := fun (n : Bool) => FVal.fin n 1 0
      g.groupsReady [(o.d.toNat, 1), (o.a.toNat, 1)] = true →
      R (exec (.vrcp grp o) s) (.inf false) (.inf true) (.zero false) (.zero true) rcpVal ∧
      R (exec (.vrsq grp o) s) (.inf false) (.inf true) (.zero false) Nan (fun n m e => if n then Nan else rsqrtVal m e) ∧
      R (exec (.vsqrt grp o) s) (.zero false) (.zero true) (.inf false) Nan (fun n m e => if n then Nan else sqrtVal m e) ∧
      R (exec (.vexp2 grp o) s) (One false) (One false) (.inf false) (.zero false) exp2Val ∧
      R (exec (.vlog2 grp o) s) (.inf true) (.inf true) (.inf false) Nan (fun n m e => if n then Nan else log2Val m e) ∧
      R (exec (.vsinp grp o) s) (.zero false) (.zero true) Nan Nan sinPiVal ∧
      R (exec (.vcosp grp o) s) (One false) (One false) Nan Nan (fun _ m e => cosPiVal m e) ∧
      R (exec (.vtanh grp o) s) (.zero false) (.zero true) (One false) (One true) tanhVal) ∧
   (∀ (n : Bool) (m : Nat) (e : Int), 0 < m → m < 2 ^ 24 →
      let x : ℚ := (m : ℚ) * 2 ^ e
      (∃ (p : Nat) (k : Int), rcpVal n m e = .fin n p k ∧ 2 ^ 100 ≤ p ∧
        (if p % 2 = 0 then (p : ℚ) * 2 ^ k * x = 1 else ((p : ℚ) - 1) * 2 ^ k * x < 1 ∧ 1 < ((p : ℚ) + 1) * 2 ^ k * x)) ∧
      (∃ (p : Nat) (k : Int), sqrtVal m e = .fin false p k ∧ 2 ^ 100 ≤ p ∧
        (if p % 2 = 0 then ((p : ℚ) * 2 ^ k) ^ 2 = x else (((p : ℚ) - 1) * 2 ^ k) ^ 2 < x ∧ x < (((p : ℚ) + 1) * 2 ^ k) ^ 2)) ∧
      (∃ (p : Nat) (k : Int), rsqrtVal m e = .fin false p k ∧ 2 ^ 100 ≤ p ∧
        (if p % 2 = 0 then ((p : ℚ) * 2 ^ k) ^ 2 * x = 1 else (((p : ℚ) - 1) * 2 ^ k) ^ 2 * x < 1 ∧ 1 < (((p : ℚ) + 1) * 2 ^ k) ^ 2 * x))) ∧
   (∀ (n : Bool) (k : Nat) (e : Int),
      (0 < k → k < 1024 → exp2Val n k 0 = .fin false 1 (if n then -(k : Int) else k)) ∧
      log2Val (2 ^ k) e = FVal.ofInt (k + e) ∧
      sinPiVal n k 0 = .zero n ∧
      sinPiVal n (2 * k + 1) (-1) = .fin (n != decide (k % 2 = 1)) 1 0 ∧
      cosPiVal k 0 = .fin (decide (k % 2 = 1)) 1 0 ∧
      cosPiVal (2 * k + 1) (-1) = .zero false ∧
      (64 ≤ k → tanhVal n k 0 = .fin n (2 ^ 128 - 1) (-128)))

/-- R149: complex products, multiply-adds, conjugates and squared magnitudes, each component rounded once.
R150: a Welford state takes a sample, takes another state in, and gives a variance; a count of 2^32 - 1 stays as it is.
The model's readings and choices in it: the sign of an exact zero that a fused operation gives
(notes/assumptions/10.md); a NaN result of the Welford operations comes from the operands in the order of the
expression, and an invalid component of vcfma is canonical whatever its other operands are
(notes/assumptions/25.md); vcconj and vcabs2 do not read vb (notes/assumptions/26.md); vwfin reads its whole block
(notes/assumptions/100.md). -/
def Obligations.ComplexAndWelford : Prop :=
   (∀ (s : State) (c : Cur) (g : Gang) (grp : Grp) (o : OpV3), Clear s c g →
      let p := grp.fields
      let rm := rndOf grp
      let z := thirdReg grp o.d.toNat
      let val := fun (r l : Nat) (neg : Bool) => fF32.val (preFloat fF32 false neg (g.lane? r l).toNat)
      let ar := fun l => val o.a.toNat l p.nega
      let ai := fun l => val (o.a.toNat + 1) l p.nega
      let br := fun l => val o.b.toNat l p.negb
      let bi := fun l => val (o.b.toNat + 1) l p.negb
      let cr := fun l => val z l false
      let ci := fun l => val (z + 1) l false
      let R := fun (n : Nat) (re im : Nat → FVal) => VectorResult s c g grp 7 o.d.toNat n
        (fun j l => w32 ((if j = 0 then re l else im l).round fF32 rm false (drawAt s c g grp l (4 * j))))
      (g.groupsReady [(o.d.toNat, 2), (o.a.toNat, 2), (o.b.toNat, 2)] = true →
        let all := fun l => [ar l, ai l, br l, bi l]
        let sum := fun x y => if x.isNan || y.isNan then FVal.canonical else FVal.add rm x y
        R 2 (fun l => component rm (all l) (all l) (sum ((ar l).mul (br l)) ((ai l).mul (bi l)).neg))
          (fun l => component rm (all l) (all l) (sum ((ar l).mul (bi l)) ((ai l).mul (br l)))) (exec (.vcmul grp o) s)) ∧
      (g.groupsReady [(o.d.toNat, 2), (o.a.toNat, 2), (o.b.toNat, 2), (z, 2)] = true →
        let all := fun l => [ar l, ai l, br l, bi l, cr l, ci l]
        R 2 (fun l => component rm (all l) [ar l, ai l, br l, bi l, cr l] (sumTerms rm (cr l) ((ar l).mul (br l)) ((ai l).mul (bi l)).neg))
          (fun l => component rm (all l) [ar l, ai l, br l, bi l, ci l] (sumTerms rm (ci l) ((ar l).mul (bi l)) ((ai l).mul (br l))))
          (exec (.vcfma grp o) s)) ∧
      (g.groupsReady [(o.d.toNat, 2), (o.a.toNat, 2)] = true →
        VectorResult s c g grp 7 o.d.toNat 2
          (fun j l => w32 (preFloat fF32 false (p.nega != decide (j = 1)) (g.lane? (o.a.toNat + j) l).toNat)) (exec (.vcconj grp o) s)) ∧
      (g.groupsReady [(o.d.toNat, 1), (o.a.toNat, 2)] = true →
        R 1 (fun l => component rm [ar l, ai l] [ar l, ai l] (((ar l).mul (ar l)).add rm ((ai l).mul (ai l)))) (fun _ => .zero false)
          (exec (.vcabs2 grp o) s))) ∧
   (∀ (s : State) (c : Cur) (g : Gang) (grp : Grp), Clear s c g →
      (∀ o : OpV2, g.groupsReady [(o.d.toNat, 4), (o.a.toNat, 1)] = true →
        VectorResult s c g grp 7 o.d.toNat 3 (fun j l => tget 0 ((welfordOf g o.d.toNat l).feed (g.lane? o.a.toNat l)).words j)
          (exec (.vwelf grp o) s)) ∧
      (∀ o : OpV2, g.groupsReady [(o.d.toNat, 4), (o.a.toNat, 4)] = true →
        VectorResult s c g grp 7 o.d.toNat 3 (fun j l => tget 0 ((welfordOf g o.d.toNat l).merge (welfordOf g o.a.toNat l)).words j)
          (exec (.vwmrg grp o) s)) ∧
      (∀ o : OpVW, g.groupsReady [(o.d.toNat, 1), (o.a.toNat, 4)] = true →
        VectorResult s c g grp 7 o.d.toNat 1
          (fun _ l => if (g.lane? o.a.toNat l).toNat ≤ o.k.toNat then roundF32 .canonical .rne 0
            else roundDiv (fF32.val (g.lane? (o.a.toNat + 2) l).toNat) ((g.lane? o.a.toNat l).toNat - o.k.toNat))
          (exec (.vwfin grp o) s)) ∧
      (∀ (w : Welford) (x : W32), w.n = 0xFFFFFFFF → w.feed x = w) ∧
      (∀ a b : Welford, (b.n = 0 → a.merge b = a) ∧ (b.n ≠ 0 → a.n = 0 → a.merge b = b)))

/-! Between lanes: R132, R151 to R155. -/

/-- R132, R151: shuffles read the lane they name, 0 where it is clear in `LANE`; a lane selects a register; broadcasts, lane
numbers and the extraction of one lane. -/
def Obligations.Shuffles : Prop :=
  ∀ (s : State) (c : Cur) (g : Gang) (grp : Grp), Clear s c g →
    let Peek := fun (r l : Nat) => if bit g.lane l then g.lane? r l else 0
    (∀ o : OpV3,
      (g.groupsReady [(o.d.toNat, 1), (o.a.toNat, 1), (o.b.toNat, 1)] = true →
        VectorResult s c g grp 6 o.d.toNat 1 (fun _ l => Peek o.a.toNat ((g.lane? o.b.toNat l).toNat % 32)) (exec (.vshflIdx grp o) s)) ∧
      (g.groupsReady [(o.d.toNat, 1), (o.b.toNat, 1)] = true →
        (∀ l, l < 32 → participates c g grp l = true → o.a.toNat + (g.lane? o.b.toNat l).toNat % 128 < g.vcount →
          g.usable (.v (o.a.toNat + (g.lane? o.b.toNat l).toNat % 128)) = true) →
        VectorResult s c g grp 6 o.d.toNat 1
          (fun _ l => if o.a.toNat + (g.lane? o.b.toNat l).toNat % 128 < g.vcount then g.lane? (o.a.toNat + (g.lane? o.b.toNat l).toNat % 128) l else 0)
          (exec (.vxsel grp o) s))) ∧
    (∀ o : OpVSh, g.groupsReady [(o.d.toNat, 1), (o.a.toNat, 1)] = true →
      let n := o.n.toNat
      let R := fun (f : Nat → Nat) => VectorResult s c g grp 6 o.d.toNat 1 (fun _ l => Peek o.a.toNat (f l))
      R (fun l => if n ≤ l then l - n else l) (exec (.vshflUp grp o) s) ∧
      R (fun l => if l + n ≤ 31 then l + n else l) (exec (.vshflDn grp o) s) ∧
      R (fun l => l ^^^ n) (exec (.vshflXor grp o) s)) ∧
    (∀ o : OpVB, [Reg.v o.d.toNat, .s o.a.toNat].all g.usable = true →
      VectorResult s c g grp 6 o.d.toNat 1 (fun _ _ => (g.readS c.slotB o.a.toNat).setWidth 32) (exec (.vbcast grp o) s)) ∧
    (∀ o : OpV1, g.groupsReady [(o.d.toNat, 1)] = true →
      VectorResult s c g grp 6 o.d.toNat 1 (fun _ l => w32 l) (exec (.vlane grp o) s)) ∧
    (∀ o : OpVE, [Reg.s o.d.toNat, .v o.a.toNat].all g.usable = true →
      ScalarResult s c g grp (nextPc c grp) 6 o.d.toNat
        (if typeOf grp 2 = 1 then (Peek o.a.toNat o.n.toNat).signExtend 64 else (Peek o.a.toNat o.n.toNat).setWidth 64)
        (exec (.vext grp o) s))

/-- R152, R155: votes and ballots over the lanes that take part, to a scalar or a mask register, and the lanes of equal bits.
R153, R154: a reduction gives every lane the tree's result over the lanes that take part, which for integer addition is the
sum; a scan gives each lane the combination of the lanes below it, itself included or not. -/
def Obligations.VotesReductionsAndScans : Prop :=
   (∀ (s : State) (c : Cur) (g : Gang) (grp : Grp), Clear s c g →
      let P := fun l => participates c g grp l
      let lanes := (List.range 32).filter P
      (∀ o : OpVS, [Reg.s o.d.toNat, .v o.a.toNat].all g.usable = true →
        let R := ScalarResult s c g grp (nextPc c grp) 6 o.d.toNat
        R (if lanes.any (fun l => g.lane? o.a.toNat l != 0) then 1 else 0) (exec (.vvoteAny grp o) s) ∧
        R (if lanes.all (fun l => g.lane? o.a.toNat l != 0) then 1 else 0) (exec (.vvoteAll grp o) s) ∧
        R (if lanes.all (fun l => lanes.all (fun j => g.lane? o.a.toNat l == g.lane? o.a.toNat j)) then 1 else 0) (exec (.vvoteUni grp o) s) ∧
        (∃ m : W32, (∀ l, l < 32 → bit m l = (P l && g.lane? o.a.toNat l != 0)) ∧ R (m.setWidth 64) (exec (.vballot grp o) s))) ∧
      (∀ o : OpVBM, [Reg.m o.k.toNat, .v o.a.toNat].all g.usable = true →
        ∃ m : W32, (∀ l, l < 32 → bit m l = (P l && g.lane? o.a.toNat l != 0)) ∧
          MaskResult s c g grp 6 o.k.toNat m (exec (.vballotMask grp o) s)) ∧
      (∀ o : OpV2, g.groupsReady [(o.d.toNat, 1), (o.a.toNat, 1)] = true →
        ∃ m : Nat → W32, (∀ l j, l < 32 → j < 32 → bit (m l) j = (P j && g.lane? o.a.toNat j == g.lane? o.a.toNat l)) ∧
          VectorResult s c g grp 6 o.d.toNat 1 (fun _ l => m l) (exec (.vmatch grp o) s))) ∧
   (∀ (s : State) (c : Cur) (g : Gang) (grp : Grp) (o : OpVR), Clear s c g →
      let t := redTy grp
      let P := fun l => participates c g grp l
      let X := fun (k : Nat) (lanes : List Nat) => (lanes.filter P).map (fun l => elem t.w (g.lane? o.a.toNat l).toNat k)
      let R := ElemResult s c g grp 6 o.d.toNat 1 t.w
      g.groupsReady [(o.d.toNat, 1), (o.a.toNat, 1)] = true →
      R (fun _ k => reduxElem grp t o.op.toNat
          ((List.range 32).map (fun l => if P l then some (elem t.w (g.lane? o.a.toNat l).toNat k) else none))) (exec (.vredux grp o) s) ∧
      (∀ y, t = .int y → o.op.toNat = 0 → grp.fields.sat = false → R (fun _ k => (X k (List.range 32)).sum) (exec (.vredux grp o) s)) ∧
      R (fun l k => scanOf grp t o.op.toNat (X k (List.range (l + 1)))) (exec (.vscanIn grp o) s) ∧
      R (fun l k => scanOf grp t o.op.toNat (X k (List.range l))) (exec (.vscanEx grp o) s))

/-! Memory: R122 to R126, R156 to R172. -/

/-- R122, R123: a scalar load of 1, 2, 4 or 8 bytes reads A + B, aligned to its size, for the lowest lane of `LANE`.
R122, R123, R167: a scalar store buffers the low bytes of `sd` for the address A + B; memory is unchanged. -/
def Obligations.ScalarLoadsAndStores : Prop :=
   (∀ (s : State) (c : Cur) (g : Gang) (grp : Grp) (o : OpS3) (x : Access × W64) (t : State), Clear s c g →
      (regsS3 o).all g.usable = true →
      let A := (g.readS c.slotB o.a.toNat + g.readS c.slotB o.b.toNat).toNat
      let as := [(g.lowLane, A)]
      let R := fun (size : Nat) (out : Outcome) => A % size = 0 → requestRoom s g as = true →
        IssuesLoads t c g grp 0 0 [loadOf c g .sload size true [x] (.scalar o.d.toNat)] out
      Resident s g .read as [x] t →
      R 1 (exec (.sld8 grp o) s) ∧ R 2 (exec (.sld16 grp o) s) ∧ R 4 (exec (.sld32 grp o) s) ∧ R 8 (exec (.sld64 grp o) s)) ∧
   (∀ (s : State) (c : Cur) (g : Gang) (grp : Grp) (o : OpS3) (x : Access × W64) (t : State), Clear s c g →
      (regsS3 o).all g.usable = true →
      let A := (g.readS c.slotB o.a.toNat + g.readS c.slotB o.b.toNat).toNat
      let R := fun (size : Nat) (out : Outcome) => A % size = 0 → bufferUse g.entries + 96 ≤ 16384 →
        Buffers t c g grp
          [entryOf c g 96 (fun _ => .store (toBytes size (g.readS c.slotB o.d.toNat).toNat)) x] [] out
      Resident s g .write [(g.lowLane, A)] [x] t →
      R 1 (exec (.sst8 grp o) s) ∧ R 2 (exec (.sst16 grp o) s) ∧ R 4 (exec (.sst32 grp o) s) ∧ R 8 (exec (.sst64 grp o) s))

/-- R22, R124, R125: a returning atomic or lock operation enters the store buffer with its operands as read at issue, and `sd`
becomes pending.
R126, R172: reductions enter the store buffer, where they are held back until the task ends; no register changes. -/
def Obligations.ScalarAtomicsAndReductions : Prop :=
   (∀ (s : State) (c : Cur) (g : Gang) (grp : Grp) (x : Access × W64) (t : State), Clear s c g →
      bufferUse g.entries + 96 ≤ 16384 →
      let R := fun (a d : BitVec 6) (size : Nat) (op : AmoOp) (value compare : W64) (ret : Ret) (out : Outcome) =>
        Admits s g op [x] → (g.readS c.slotB a.toNat).toNat % size = 0 → Resident s g .write [(g.lowLane, (g.readS c.slotB a.toNat).toNat)] [x] t →
        Buffers t c g grp [entryOf c g 96 (fun _ => .amo op size value compare ret) x] [.s d.toNat] out
      (∀ o : OpS3, (regsS3 o).all g.usable = true →
        let B := g.readS c.slotB o.b.toNat
        let D := g.readS c.slotB o.d.toNat
        let Plain := fun (op : AmoOp) => R o.a o.d 8 op B 0 (.scalar o.d.toNat)
        Plain .add (exec (.samoAdd grp o) s) ∧ Plain .minI (exec (.samoMinI grp o) s) ∧ Plain .maxI (exec (.samoMaxI grp o) s) ∧
        Plain .minN (exec (.samoMinN grp o) s) ∧ Plain .maxN (exec (.samoMaxN grp o) s) ∧ Plain .and (exec (.samoAnd grp o) s) ∧
        Plain .or (exec (.samoOr grp o) s) ∧ Plain .xor (exec (.samoXor grp o) s) ∧ Plain .xchg (exec (.samoXchg grp o) s) ∧
        Plain .incw (exec (.samoIncw grp o) s) ∧
        R o.a o.d 8 .cas D B (.scalar o.d.toNat) (exec (.samoCas grp o) s) ∧
        R o.a o.d 8 .faddb B D (.scalar o.d.toNat) (exec (.samoFaddb grp o) s) ∧
        R o.a o.d 4 .wacq B 0 (.lock o.d.toNat) (exec (.srwlWacq grp o) s)) ∧
      (∀ o : OpS2, (regsS2 o).all g.usable = true →
        R o.a o.d 4 .racq 0 0 (.lock o.d.toNat) (exec (.srwlRacq grp o) s) ∧
        R o.a o.d 4 .rrel 0 0 (.lock o.d.toNat) (exec (.srwlRrel grp o) s) ∧
        R o.a o.d 4 .wrel 0 0 (.lock o.d.toNat) (exec (.srwlWrel grp o) s))) ∧
   (∀ (s : State) (c : Cur) (g : Gang) (grp : Grp) (t : State), Clear s c g →
      (∀ (o : OpSR) (x : Access × W64), bufferUse g.entries + 96 ≤ 16384 → [Reg.s o.a.toNat, .s o.b.toNat].all g.usable = true →
        let A := (g.readS c.slotB o.a.toNat).toNat
        let R := fun (size : Nat) (op : AmoOp) (out : Outcome) => Admits s g op [x] → A % size = 0 → Resident s g .write [(g.lowLane, A)] [x] t →
          Buffers t c g grp [entryOf c g 96 (fun _ => .red op size (g.readS c.slotB o.b.toNat)) x] [] out
        R 8 .add (exec (.sredAdd grp o) s) ∧ R 4 .faddF32 (exec (.sredAddF32 grp o) s)) ∧
      (∀ (o : OpM) (oks : List (Access × W64)),
        [Reg.s o.sb.toNat, .v o.vo.toNat].all g.usable = true →
        Resident s g .write (laneVas c g grp o.sb o.vo) oks t →
        let R := fun (size : Nat) (op : AmoOp) (out : Outcome) =>
          Admits s g op oks → g.groupsReady [(o.ds.toNat, groupOf size)] = true → alignedTo size (laneVas c g grp o.sb o.vo) = true →
          bufferUse g.entries + laneSpace size * oks.length ≤ 16384 →
          Buffers t c g grp
            (oks.map (entryOf c g (laneSpace size) (fun a => .red op size (laneElem g o.ds.toNat size a.lane)))) [] out
        let n := amoSize grp
        R n .add (exec (.vredAdd grp o) s) ∧ R n .and (exec (.vredAnd grp o) s) ∧ R n .or (exec (.vredOr grp o) s) ∧
        R n .xor (exec (.vredXor grp o) s) ∧
        R n (if amoUnsigned grp then .minN else .minI) (exec (.vredMin grp o) s) ∧
        R n (if amoUnsigned grp then .maxN else .maxI) (exec (.vredMax grp o) s) ∧
        R 4 .faddF32 (exec (.vredAddF32 grp o) s) ∧ R 4 .faddBf16x2 (exec (.vredAddBf16x2 grp o) s)))

/-- R124, R170: what the integer operations write to a word of 4 or 8 bytes that holds `old`; R93, R170, R172: the float additions round
the exact sum once, to nearest even, and a pair of bf16 adds half by half.
R125: the lock operations on a word of the fields W, P, WC and RC: when each succeeds, and the word it leaves.
R124, R125, R170: what is returned: the old value, for a lock operation with 2^32 more where it succeeded, for a lane its own element. -/
def Obligations.AtomicAndLockOperations : Prop :=
   (∀ (w old v y : Nat), w = 32 ∨ w = 64 → old < 2 ^ w → v < 2 ^ w → y < 2 ^ w →
      let New := fun (op : AmoOp) => (amoApply op w old v y).1
      New .add = (old + v) % 2 ^ w ∧ New .xchg = v ∧ New .cas = (if old = y then v else old) ∧
      New .incw = (if v ≤ old then 0 else old + 1) ∧ New .faddb = (if old ≤ y ∧ old + v ≤ y then old + v else old) ∧
      New .and = old &&& v ∧ New .or = old ||| v ∧ New .xor = old ^^^ v ∧
      New .minN = (if old ≤ v then old else v) ∧ New .maxN = (if old ≤ v then v else old) ∧
      (sext w old ≤ sext w v → New .minI = old ∧ New .maxI = v) ∧ (sext w v ≤ sext w old → New .minI = v ∧ New .maxI = old)) ∧
   (∀ (old v y : Nat), old < 2 ^ 32 → v < 2 ^ 32 →
      let Add := fun (f : Fmt) (a b : Nat) => ((f.val a).add .rne (f.val b)).round f .rne false 0
      amoApply .faddF32 32 old v y = (Add fF32 old v, true) ∧
      amoApply .faddBf16x2 32 old v y =
        (Add fBF16 (old % 2 ^ 16) (v % 2 ^ 16) + 2 ^ 16 * Add fBF16 (old / 2 ^ 16) (v / 2 ^ 16), true)) ∧
   (∀ (W P WC RC B : Nat), W < 2 → P < 2 → WC < 2 ^ 14 → RC < 2 ^ 16 →
      let Word := fun (w c r : Nat) => w * 2 ^ 31 + P * 2 ^ 30 + c * 2 ^ 16 + r
      let Op := fun (op : AmoOp) => amoApply op 32 (Word W WC RC) B 0
      Op .racq = (if W = 0 ∧ RC < 0xFFFF ∧ ¬(P = 1 ∧ WC ≠ 0) then (Word W WC (RC + 1), true) else (Word W WC RC, false)) ∧
      Op .rrel = (if 0 < RC then (Word W WC (RC - 1), true) else (Word W WC RC, false)) ∧
      Op .wacq = (if W = 0 ∧ RC = 0 then (Word 1 (if B % 2 = 1 ∧ 0 < WC then WC - 1 else WC) RC, true)
        else (Word W (if B % 2 = 0 then min (WC + 1) 0x3FFF else WC) RC, false)) ∧
      Op .wrel = (if W = 1 then (Word 0 WC RC, true) else (Word W WC RC, false))) ∧
   (∀ (d l old : Nat) (ok : Bool),
      Ret.writes (.scalar d) 8 old ok = [.scalar d (BitVec.ofNat 64 old)] ∧
      Ret.writes (.lock d) 4 old ok = [.scalar d (BitVec.ofNat 64 ((if ok then 2 ^ 32 else 0) + old))] ∧
      (∀ (g : Gang) (b : Bool) (size r k : Nat), size = 4 ∨ size = 8 → k < 32 →
        (g.landAll b (Ret.writes (.lane d l) size old ok)).lane? r k =
          if k = l ∧ r = d then BitVec.ofNat 32 old
          else if k = l ∧ r = d + 1 ∧ size = 8 then BitVec.ofNat 32 (old / 2 ^ 32) else g.lane? r k))

/-- R156, R160, R161, R164: a vector load reads 1 to 16 bytes for each lane that takes part into one register, a pair or a block,
at the home for `.by` forms and gathers.
R163, R165: `vldl` loads consecutive 128-byte lines, one for each register, lane l taking the line's word l; without a lane that
takes part it reads nothing. A prefetch writes no register and takes no fault, whatever its pages; `pref.l1` brings into the L1 the lines
of the lanes whose page is resident, readable and cacheable, as the home holds them, and no other.
The model's readings and choices in it: the alignment of a prefetch is 4 bytes (notes/assumptions/85.md); an L1 of 2,048 lines lets the
oldest go (notes/assumptions/84.md). -/
def Obligations.VectorLoadsAndPrefetches : Prop :=
   (∀ (s : State) (c : Cur) (g : Gang) (grp : Grp) (oks : List (Access × W64)) (t : State), Clear s c g →
      let R := fun (ds vo : BitVec 7) (sb : BitVec 6) (byp signed : Bool) (kind : AccessKind) (size : Nat) (out : Outcome) =>
        let n := groupOf size
        [Reg.s sb.toNat, .v vo.toNat].all g.usable = true → g.groupsReady [(ds.toNat, n)] = true →
        alignedTo size (laneVas c g grp sb vo) = true → requestRoom s g (laneVas c g grp sb vo) = true →
        Resident s g .read (laneVas c g grp sb vo) oks t →
        IssuesLoads t c g grp ds.toNat n
          (if oks.isEmpty then [] else [loadOf c g kind size byp oks (.vector ds.toNat n signed)]) out
      (∀ o : OpMB,
        let V := R o.ds o.vo o.sb o.byp
        V false .vload 1 (exec (.vld8 grp o) s) ∧ V true .vload 1 (exec (.vld8s grp o) s) ∧
        V false .vload 2 (exec (.vld16 grp o) s) ∧ V true .vload 2 (exec (.vld16s grp o) s) ∧
        V false .vload 4 (exec (.vld32 grp o) s) ∧ V false .vload 8 (exec (.vld64 grp o) s) ∧
        V false .vload 16 (exec (.vld128 grp o) s)) ∧
      (∀ o : OpM, R o.ds o.vo o.sb true false .vgather 4 (exec (.vldg grp o) s))) ∧
   (∀ (s : State) (c : Cur) (g : Gang) (grp : Grp) (oks : List (Access × W64)) (t : State), Clear s c g →
      (∀ o : OpML,
        let n := o.n.toNat + 1
        let base := (g.readS c.slotB o.sb.toNat).toNat
        let lanes := (List.range 32).filter (fun l => participates c g grp l)
        let low := lanes.headD 0
        let sites := if lanes = [] then [] else (List.range n).map (fun j => (32 * j + low, base + 128 * j + 4 * low))
        (regGroup o.ds.toNat n ++ [Reg.s o.sb.toNat]).all g.usable = true → base % 128 = 0 → requestRoom s g sites = true →
        Resident s g .read sites oks t →
        IssuesLoads t c g grp o.ds.toNat n
          (oks.map (fun x => { loadOf c g .vload 4 o.byp [] (.vector (o.ds.toNat + x.1.lane / 32) 1 false) with
            accesses := lanes.map (fun l => { x.1 with lane := l, va := x.1.va - 4 * low + 4 * l, pa := x.1.pa - 4 * low + 4 * l }) }))
          (exec (.vldl grp o) s))) ∧
   (∀ (s : State) (c : Cur) (g : Gang) (grp : Grp) (o : OpMP) (r : LaneSet) (t : State), Clear s c g →
      [Reg.s o.sb.toNat, .v o.vo.toNat].all g.usable = true → (laneVas c g grp o.sb o.vo).all (fun a => decide (a.2 < 2 ^ 57)) = true →
      translateLanes g .read s (laneVas c g grp o.sb o.vo) = (t, r) →
      let old := (t.core g.core).l1
      let Brought := fun k => ∃ x ∈ r.ok, x.1.uncached = false ∧ x.1.va % 4 = 0 ∧ k = memKey g.part x.1.pa / 128
      GoesTo t c g grp (nextPc c grp) (exec (.prefL2 grp o) s) ∧
      ∃ l1, GoesTo (t.setCore g.core { t.core g.core with l1 := l1 }) c g grp (nextPc c grp) (exec (.prefL1 grp o) s) ∧
        (∀ k line, aget l1 k = some line → aget old k = some line ∨ ((aget old k = none ∨ 2048 < old.length + 32) ∧ Brought k ∧ line = mreadBytes s.mem (128 * k) 128)) ∧
        (∀ k, s.pkg.badUnits = [] → old.length + 32 ≤ 2048 → Brought k → (aget l1 k).isSome = true))

/-- R166, R167: a vector store buffers, for each lane that takes part, the low bytes of its register, pair or block at the
lane's translated address; no memory changes before the commit.
R170, R171: a returning vector atomic enters the store buffer for each lane that takes part, with V from OP4 or from `vds`,
and its registers become pending; lanes that the group zeroes are to return 0. -/
def Obligations.VectorStoresAndAtomics : Prop :=
   (∀ (s : State) (c : Cur) (g : Gang) (grp : Grp) (o : OpM) (oks : List (Access × W64)) (t : State), Clear s c g →
      [Reg.s o.sb.toNat, .v o.vo.toNat].all g.usable = true →
      Resident s g .write (laneVas c g grp o.sb o.vo) oks t →
      let word := fun (l j : Nat) => toBytes 4 (g.lane? (o.ds.toNat + j) l).toNat
      let R := fun (size : Nat) (data : Nat → List Byte) (out : Outcome) =>
        g.groupsReady [(o.ds.toNat, groupOf size)] = true → alignedTo size (laneVas c g grp o.sb o.vo) = true →
        bufferUse g.entries + laneSpace size * oks.length ≤ 16384 →
        Buffers t c g grp (oks.map (entryOf c g (laneSpace size) (fun a => .store (data a.lane)))) [] out
      R 1 (fun l => (word l 0).take 1) (exec (.vst8 grp o) s) ∧
      R 2 (fun l => (word l 0).take 2) (exec (.vst16 grp o) s) ∧
      R 4 (fun l => word l 0) (exec (.vst32 grp o) s) ∧
      R 8 (fun l => word l 0 ++ word l 1) (exec (.vst64 grp o) s) ∧
      R 16 (fun l => word l 0 ++ word l 1 ++ word l 2 ++ word l 3) (exec (.vst128 grp o) s)) ∧
   (∀ (s : State) (c : Cur) (g : Gang) (grp : Grp) (o : OpM) (oks : List (Access × W64)) (t : State), Clear s c g →
      [Reg.s o.sb.toNat, .v o.vo.toNat].all g.usable = true →
      Resident s g .write (laneVas c g grp o.sb o.vo) oks t →
      let src := if grp.fields.op4 = 0 then o.ds.toNat else grp.fields.op4.toNat
      let Elem := fun (r size l : Nat) => if size = 8 then (g.lane? (r + 1) l ++ g.lane? r l : BitVec 64) else (g.lane? r l).setWidth 64
      let R := fun (size : Nat) (op : AmoOp) (compares : Bool) (out : Outcome) =>
        Admits s g op oks → g.groupsReady [(o.ds.toNat, groupOf size), (src, groupOf size)] = true → alignedTo size (laneVas c g grp o.sb o.vo) = true →
        bufferUse g.entries + laneSpace size * oks.length ≤ 16384 →
        BuffersAnd t c g grp
          (oks.map (entryOf c g (laneSpace size) (fun a =>
            .amo op size (Elem src size a.lane) (if compares then Elem o.ds.toNat size a.lane else 0) (.lane o.ds.toNat a.lane))))
          (regGroup o.ds.toNat (groupOf size))
          (if zeroLanes c g grp = 0 then [] else (List.range (groupOf size)).map (fun j => .vector (o.ds.toNat + j) (zeroLanes c g grp) [])) out
      let n := if 12 ≤ grp.fields.typ.toNat then 8 else 4
      let unsigned := grp.fields.typ = 2 ∨ grp.fields.typ = 13
      R n .add false (exec (.vamoAdd grp o) s) ∧ R n .and false (exec (.vamoAnd grp o) s) ∧ R n .or false (exec (.vamoOr grp o) s) ∧
      R n .xor false (exec (.vamoXor grp o) s) ∧ R n .xchg false (exec (.vamoXchg grp o) s) ∧
      R n (if unsigned then .minN else .minI) false (exec (.vamoMin grp o) s) ∧
      R n (if unsigned then .maxN else .maxI) false (exec (.vamoMax grp o) s) ∧
      R n .cas true (exec (.vamoCas grp o) s) ∧ R 4 .incw false (exec (.vamoIncw grp o) s) ∧
      R 4 .faddb true (exec (.vamoFaddb grp o) s) ∧ R 4 .faddF32 false (exec (.vamoFaddF32 grp o) s))

/-- R168: a scratchpad load gives each lane that takes part the bytes at its address in the crew's tiles, zero-extended.
R168, R169: a scratchpad store writes each lane's bytes at once, the highest lane's at a shared address, and no other byte
of the core's scratchpad; a tile that an `smma` still reads makes it wait (R200).
The model's readings and choices in it: scratchpad loads and stores are performed when they issue
unless the schedule has asked for pieces (notes/assumptions/17.md). -/
def Obligations.ScratchLoadsAndStores : Prop :=
   (∀ (s : State) (c : Cur) (g : Gang) (grp : Grp) (o : OpM), Clear s c g →
      let as := laneVas c g grp o.sb o.vo
      let Byte := fun (a : Nat) => mread (s.core g.core).scratch (scratchKey s g a)
      let At := fun (l : Nat) => (g.readS c.slotB o.sb.toNat + (g.lane? o.vo.toNat l).signExtend 64).toNat
      let Word := fun (j l : Nat) => Byte (At l + 4 * j + 3) ++ Byte (At l + 4 * j + 2) ++ Byte (At l + 4 * j + 1) ++ Byte (At l + 4 * j)
      let Ready := fun (size : Nat) => g.groupsReady [(o.ds.toNat, groupOf size)] = true ∧ alignedTo size as = true
      [Reg.s o.sb.toNat, .v o.vo.toNat].all g.usable = true → as.all (fun a => decide (a.2 < 4096 * s.tcount g)) = true →
      scratchOwned s g as = false →
      (s.loose = true →
        let Out := fun (size : Nat) (out : Outcome) => Ready size →
          IssuesLoads s c g grp o.ds.toNat (groupOf size) [chipOf s c g size as (.vector o.ds.toNat (groupOf size) false)] out
        Out 1 (exec (.vlsp8 grp o) s) ∧ Out 4 (exec (.vlsp32 grp o) s) ∧ Out 8 (exec (.vlsp64 grp o) s) ∧ Out 16 (exec (.vlsp128 grp o) s)) ∧
      (s.loose = false →
      (Ready 1 → VectorResult s c g grp 0 o.ds.toNat 1 (fun _ l => (Byte (At l)).setWidth 32) (exec (.vlsp8 grp o) s)) ∧
      (Ready 4 → VectorResult s c g grp 0 o.ds.toNat 1 (fun j l => Word j l) (exec (.vlsp32 grp o) s)) ∧
      (Ready 8 → VectorResult s c g grp 0 o.ds.toNat 2 (fun j l => Word j l) (exec (.vlsp64 grp o) s)) ∧
      (Ready 16 → VectorResult s c g grp 0 o.ds.toNat 4 (fun j l => Word j l) (exec (.vlsp128 grp o) s)))) ∧
   (∀ (s : State) (c : Cur) (g : Gang) (grp : Grp) (o : OpM), Clear s c g →
      let as := laneVas c g grp o.sb o.vo
      [Reg.s o.sb.toNat, .v o.vo.toNat].all g.usable = true → as.all (fun a => decide (a.2 < 4096 * s.tcount g)) = true →
      scratchOwned s g as = false → as.all (fun a => !tileHeld s g (s.physTile g (a.2 / 4096))) = true →
      let R := fun (size : Nat) (out : Outcome) =>
        g.groupsReady [(o.ds.toNat, groupOf size)] = true → alignedTo size as = true →
        (s.loose = true → IssuesLoads s c g grp 0 0
          [chipOf s c g size as (.store ((List.range 32).map (fun l => (List.range size).map (fun i =>
            byte ((g.lane? (o.ds.toNat + i / 4) l).toNat / 2 ^ (8 * (i % 4)))))))] out) ∧
        (s.loose = false → ∃ m : Memory, GoesTo (s.setCore g.core { s.core g.core with scratch := m }) c g grp (nextPc c grp) out ∧
          (∀ b, (∀ a ∈ as, ¬(scratchKey s g a.2 ≤ b ∧ b < scratchKey s g a.2 + size)) → mread m b = mread (s.core g.core).scratch b) ∧
          (∀ a ∈ as, ∀ i, i < size →
            (∀ x ∈ as, a.1 < x.1 → ¬(scratchKey s g x.2 ≤ scratchKey s g a.2 + i ∧ scratchKey s g a.2 + i < scratchKey s g x.2 + size)) →
            mread m (scratchKey s g a.2 + i) =
              byte ((g.lane? (o.ds.toNat + i / 4) a.1).toNat / 2 ^ (8 * (i % 4)))))
      R 1 (exec (.vssp8 grp o) s) ∧ R 4 (exec (.vssp32 grp o) s) ∧ R 8 (exec (.vssp64 grp o) s) ∧ R 16 (exec (.vssp128 grp o) s))

/-! Fences, tiles and buffers: R173 to R180, R208. -/

/-- R174 to R177, R208: a fence takes its place among the buffered entries and among the gang's other accesses; `trel` gives a tile to the engines, `tfe` sets or
clears a scratchpad tile's full bit, `tstat` reads a tile's, buffer's or barrier's state word, and `mbat` closes a batch and
writes its number.
The model's readings and choices in it: a fence in the store buffer takes none of its bytes (notes/assumptions/16.md);
a tile is busy for trel and mwr only through accumulator and scratchpad tiles that an operation names
(notes/assumptions/29.md). -/
def Obligations.FencesAndTiles : Prop :=
  ∀ (s : State) (c : Cur) (g : Gang) (grp : Grp), Clear s c g →
    let k := s.core g.core
    let Marked := fun (base : State) (out : Outcome) => GoesTo (base.withGang c (marked g)) c (marked g) grp (nextPc c grp) out
    (∀ o : OpCFence, Buffers s c { g with order := g.order ++ [((g.slot c.slotB).path ++ [g.seq], o.kind.toNat, o.scope.toNat)] } grp [ownEntryOf c g 0 (.fence o.kind o.scope)] [] (exec (.fence grp o) s)) ∧
    (∀ (o : OpCT) (n : Nat), NamesTile s c g o.t (.scratch, n) → tileOwned s g (.scratch, n) = false → tileBusy s g (.scratch, n) = false →
      Marked (s.setCore g.core { k with scratchOwn := k.scratchOwn ||| BitVec.twoPow 192 (s.physTile g n) }) (exec (.trel grp o) s) ∧
      Marked (s.setCore g.core { k with scratchFull := k.scratchFull ||| BitVec.twoPow 192 (s.physTile g n) }) (exec (.tfeSet grp o) s) ∧
      Marked (s.setCore g.core { k with scratchFull := k.scratchFull &&& ~~~BitVec.twoPow 192 (s.physTile g n) }) (exec (.tfeClr grp o) s)) ∧
    (∀ (o : OpCT) (n : Nat), NamesTile s c g o.t (.acc, n) → tileOwned s g (.acc, n) = false → tileBusy s g (.acc, n) = false →
      Marked (s.setCore g.core { k with accOwn := k.accOwn ||| BitVec.twoPow 256 (s.physAcc g n) }) (exec (.trel grp o) s)) ∧
    (∀ (o : OpCT) (n : Nat), NamesTile s c g o.t (.reg, n) → (vtRegs n).all g.usable = true → tileOwned s g (.reg, n) = false →
      let h := { g with vtOwner := g.vtOwner ||| BitVec.twoPow 16 n }
      GoesTo (s.withGang c h) c h grp (nextPc c grp) (exec (.trel grp o) s)) ∧
    (∀ (o : OpCDT) (n : Nat), g.usable (.s o.d.toNat) = true →
      let R := fun (v : W64) => ScalarResult s c g grp (nextPc c grp) 0 o.d.toNat v (exec (.tstat grp o) s)
      (NamesTile s c g o.t (.scratch, n) →
        R (w64 ((bit k.scratchOwn (s.physTile g n)).toNat + 2 * (bit k.scratchFull (s.physTile g n)).toNat))) ∧
      (NamesTile s c g o.t (.acc, n) → R (w64 (bit k.accOwn (s.physAcc g n)).toNat)) ∧
      (NamesTile s c g o.t (.reg, n) → R (w64 (bit g.vtOwner n).toNat)) ∧
      (NamesTile s c g o.t (.buffer, n) → let b := s.bufOf g n
        R (if b.defined then w64 (b.free + b.filled * 2 ^ 8 + b.widx * 2 ^ 16 + b.ridx * 2 ^ 24 + 2 ^ 31 + b.first * 2 ^ 32 + b.slots * 2 ^ 40 + b.span * 2 ^ 48)
          else 0)) ∧
      (NamesTile s c g o.t (.barrier, n) → let b := s.barrier (barrierKey s g n)
        R (w64 (b.gen.toNat + b.latch * 2 ^ 32 + b.arrived * 2 ^ 48)))) ∧
    (∀ o : OpCD, g.usable (.s o.d.toNat) = true → g.b.live = false →
      let h := { g with batch := g.batch + 1 }
      ScalarResult (s.withGang c h) c h grp (nextPc c grp) 0 o.d.toNat ((g.batch + 1).setWidth 64) (exec (.mbat grp o) s))

/-- R178, R179: `cbdef` defines a buffer over scratchpad tiles, which become the engines', or dissolves one, its free slots'
tiles becoming the threads'; `cbrel` gives filled slots back to the engines. -/
def Obligations.CircularBuffers : Prop :=
  ∀ (s : State) (c : Cur) (g : Gang) (grp : Grp) (o : OpCDT) (k key : Nat) (cr : Crew), Clear s c g →
    g.usable (.s o.d.toNat) = true → NamesTile s c g o.t (.buffer, k) → g.crewKey = some key → aget s.crews key = some cr →
    let v := g.readS c.slotB o.d.toNat
    let b := cr.buf k
    let co := s.core g.core
    let Slots := fun (b : CBuf) (from_ n : Nat) =>
      (List.range n).flatMap (fun j => (List.range b.span).map (fun i => b.first + (from_ + j) % b.slots * b.span + i))
    let R := fun (tiles : List Nat) (own : Bool) (b' : CBuf) (out : Outcome) =>
      ∃ m : BitVec 192, (∀ p, p < 192 → bit m p = (if tiles.any (fun t => decide (cr.tfirst + t = p)) then own else bit co.scratchOwn p)) ∧
        GoesTo (({ (s.setCore g.core { co with scratchOwn := m }) with crews := aput s.crews key (cr.setBuf k b') } : State).withGang c (marked g))
          c (marked g) grp (nextPc c grp) out
    let Free := fun (tiles : List Nat) => tiles.all (fun t => !tileOwned s g (.scratch, t) && !tileBusy s g (.scratch, t)) = true
    (bits v 63 21 = 0 → bit v 15 = false → b.defined = false → 0 < bits v 14 8 → bits v 14 8 ≤ 64 → 0 < bits v 20 16 → bits v 20 16 ≤ 16 →
      bits v 7 0 + bits v 14 8 * bits v 20 16 ≤ cr.tcount →
      let n : CBuf := CBuf.mk true (bits v 7 0) (bits v 14 8) (bits v 20 16) (bits v 14 8) 0 0 0 []
      Free (Slots n 0 n.slots) → R (Slots n 0 n.slots) true n (exec (.cbdef grp o) s)) ∧
    (bits v 63 21 = 0 → bit v 15 = false → bits v 14 8 = 0 → b.defined = true → (crewCommands s key).all (fun x => !x.advances k) = true →
      R (Slots b b.widx b.free) false CBuf.none (exec (.cbdef grp o) s)) ∧
    (b.defined = true → 0 < bits v 6 0 → bits v 6 0 ≤ b.filled → Free (Slots b b.ridx (bits v 6 0)) →
      R (Slots b b.ridx (bits v 6 0)) true
        { b with filled := b.filled - bits v 6 0, free := b.free + bits v 6 0, ridx := (b.ridx + bits v 6 0) % b.slots } (exec (.cbrel grp o) s))

/-! Matrix operations: R184 to R209. -/

/-- R186, R188, R196, R198, R199, R207: a matrix operation enters the array in order of issue with its inputs as they stand, and
the gang goes on.
R190, R192, R199, R201: an operation that completes writes the EM by EN corner of its accumulator tile and leaves the array;
an integer product adds the exact sum of its products to C, a float product rounds once for each group of four or eight.
R94 to R97, R190, R197: every element's value, of every form, a NaN being 0x7FC00000; a sparse product has the bits of the dense
product of the same values, but for a C of -0 that takes no nonzero product, which stays -0 unless `zc` is set or the mode is becalmed;
and a group without a nonzero product, which the array skips, changes no accumulator but -0 or a NaN.
The model's readings and choices in it: with EK = 0 a matrix operation keeps the bits of C, but a NaN is made canonical
(notes/assumptions/27.md); that R96 fixes a sparse product's bits whatever pairs of stored zeros are issued (notes/assumptions/86.md). -/
def Obligations.MatrixOperations : Prop :=
   (∀ (s : State) (c : Cur) (g : Gang) (grp : Grp), Clear s c g → g.b.live = false → (s.core g.core).ops.length < 64 →
      let co := s.core g.core
      let Enters := fun (op : MatOp) (out : Outcome) =>
        GoesTo { (s.setCore g.core { co with ops := co.ops ++ [op] }) with serial := s.serial + 1 } c g grp (nextPc c grp) out
      let Target := fun (k : Nat) => k < s.ccount g ∧ tileOwned s g (.acc, k) = false
      let Rows := fun (v : BitVec 5) => (List.range 4).map (fun r => g.row (4 * v.toNat + r))
      (∀ o : OpX, Target o.c.toNat →
        let er := grp.fields.op4.toNat % 64
        let v := g.readS c.slotB er
        let Legal := fun (depth : Nat) (int : Bool) => o.ext = true →
          g.usable (.s er) = true ∧ bits v 7 0 ≤ 16 ∧ bits v 15 8 ≤ 16 ∧ bits v 23 16 ≤ depth ∧ bits v 63 25 = 0 ∧ (bit v 24 = true → int = true)
        let Op := fun (form : MatForm) (depth : Nat) (scaled : Bool) (a b : List (List W32)) (ta tb : Nat) (ma mb : List Byte) (tiles : List Nat) =>
          ({ num := s.serial, gang := some c.gang, batch := g.batch + 1, pc := c.pc, slotNo := g.slotNo, crewKey := g.crewKey.getD 0, word := form, c := s.physAcc g o.c.toNat,
             na := o.na, nb := o.nb, zc := o.zc, becalm := (s.ctx (spaceKey g.part g.aspace)).becalm,
             em := if o.ext then bits v 7 0 else 16, en := if o.ext then bits v 15 8 else 16, ek := if o.ext then bits v 23 16 else depth,
             sat := o.ext && bit v 24, a := a, b := b,
             sa := if scaled then g.row (4 * o.va.toNat + 4) else [], sb := if scaled then g.row (4 * o.vb.toNat + 4) else [],
             ta := ta, tb := tb, ma := ma, mb := mb, tiles := tiles, started := false, stopping := false, issued := 0, total := 0 } : MatOp)
        let Dense := fun (func depth n : Nat) (int : Bool) (out : Outcome) =>
          (groupRegs o.va n ++ groupRegs o.vb n).all g.usable = true → Legal depth int →
          Enters (Op (.dense func) depth (decide (n = 5)) (Rows o.va) (Rows o.vb) 0 0 [] [] []) out
        let sa := bits (g.lane? (4 * o.va.toNat) 0) 19 0
        let sb := bits (g.lane? (4 * o.vb.toNat) 0) 19 0
        let Byte := fun (a : Nat) => mread co.scratch (scratchKey s g a)
        let Sparse := fun (func depth width : Nat) (int : Bool) (out : Outcome) =>
          let m := 16 * depth / 8
          let ma := (List.range m).map (fun j => Byte (sa + j))
          let mb := (List.range m).map (fun j => Byte (sb + j))
          let na := m + popcount (8 * m) (ofBytes ma) * (width / 8)
          let nb := m + popcount (8 * m) (ofBytes mb) * (width / 8)
          let tiles := tilesSpanned sa na ++ tilesSpanned sb nb
          (groupRegs o.va 4 ++ groupRegs o.vb 4).all g.usable = true → Legal depth int → sa % 32 = 0 → sb % 32 = 0 →
          sa + na ≤ 4096 * s.tcount g → sb + nb ≤ 4096 * s.tcount g → tiles.all (fun t => !tileOwned s g (.scratch, t)) = true →
          Enters (Op (.sparse func) depth false [] [] (scratchKey s g sa) (scratchKey s g sb) ma mb (tiles.map (s.physTile g))) out
        Dense 0 16 4 false (exec (.mmaF16 grp o) s) ∧ Dense 1 16 4 false (exec (.mmaBf16 grp o) s) ∧
        Dense 2 32 4 false (exec (.mmaE4m3 grp o) s) ∧ Dense 3 32 4 false (exec (.mmaE5m2 grp o) s) ∧
        Dense 4 64 5 false (exec (.mmaE2m1 grp o) s) ∧ Dense 5 32 4 true (exec (.mmaI8 grp o) s) ∧ Dense 6 8 4 false (exec (.mmaF32 grp o) s) ∧
        Sparse 0 16 16 false (exec (.smmaF16 grp o) s) ∧ Sparse 1 16 16 false (exec (.smmaBf16 grp o) s) ∧
        Sparse 2 32 8 false (exec (.smmaE4m3 grp o) s) ∧ Sparse 3 32 8 true (exec (.smmaI8 grp o) s)) ∧
      (∀ o : OpCK, Target o.k.toNat →
        ∃ op : MatOp, Enters op (exec (.mzero grp o) s) ∧ op.word = .zero ∧ op.c = s.physAcc g o.k.toNat ∧ op.em = 16 ∧ op.en = 16 ∧
          op.gang = some c.gang ∧ op.batch = g.batch + 1 ∧ op.started = false)) ∧
   (∀ (s : State) (core k : Nat) (op : MatOp), (s.core core).ops[k]? = some op → op.started = true → op.stopping = false →
      arrayStops s core = false → ((s.core core).ops.take k).all (fun p => decide (p.c ≠ op.c)) = true → op.em ≤ 16 → op.en ≤ 16 →
      ∃ m : Memory, exec (.matrixOperationCompletion core k) s =
          .next (s.setCore core { s.core core with acc := m, ops := (s.core core).ops.eraseIdx k }) ∧
        let At := fun (i j : Nat) => 1024 * op.c + 4 * (16 * i + j)
        let C := fun (i j : Nat) => w32 (mreadNat (s.core core).acc (At i j) 4)
        (∀ i j, i < 16 → j < 16 →
          w32 (mreadNat m (At i j) 4) = if i < op.em ∧ j < op.en then opElem op (mread (s.core core).scratch) i j (C i j) else C i j) ∧
        (∀ a, a < 1024 * op.c ∨ 1024 * op.c + 1024 ≤ a → mread m a = mread (s.core core).acc a)) ∧
   (∀ (op : MatOp) (rd : Nat → Byte) (i j : Nat) (C : W32),
      let D := opElem op rd i j C
      let neg := fun (n : Bool) (v : FVal) => if n then v.neg else v
      let Groups := fun (G : Nat) (x y : Nat → FVal) =>
        let w := (List.range ((op.ek + G - 1) / G)).foldl (fun (acc : W32) q =>
          let ks := (List.range (min G (op.ek - G * q))).map (fun r => G * q + r)
          accumulate acc (exactSum (ks.map (fun k => matProd (neg op.na (x k)) (neg op.nb (y k))))))
          (if op.zc then 0 else C)
        if (fF32.val w.toNat).isNan then (0x7FC00000 : W32) else w
      let Dense := fun (n : Nat) (t : Fmt) (w G : Nat) => op.word = .dense n →
        D = Groups G (fun k => t.val (fragElem op.a w i k)) (fun k => t.val (fragElem op.b w j k))
      let Sparse := fun (n : Nat) (t : Fmt) (w G : Nat) => op.word = .sparse n →
        let sh := op.word.shape
        let x := fun (k : Nat) => t.val (tileElem sh rd op.ma op.ta i k)
        let y := fun (k : Nat) => t.val (tileElem sh rd op.mb op.tb j k)
        (∀ line k, tileElem sh rd op.ma op.ta line k =
          if mapBit sh op.ma line k then ofBytes ((List.range (w / 8)).map (fun b =>
            rd (op.ta + bitmapBytes sh + mapRank op.ma (line * sh.k + k) * (w / 8) + b))) else 0) ∧
        D = if op.becalm = false ∧ op.zc = false ∧ C = 0x80000000 ∧ ∀ k, k < op.ek → (x k).isZero = true ∨ (y k).isZero = true then C else Groups G x y
      let Exact := fun (x y : Nat → Nat) =>
        let sgn := fun (n : Bool) (z : Nat) => if n then -(sext 8 z) else sext 8 z
        let z := (if op.zc then 0 else C.toInt) + ((List.range op.ek).map (fun q => sgn op.na (x q) * sgn op.nb (y q))).sum
        D = BitVec.ofInt 32 (if op.sat then max (-(2 ^ 31)) (min (2 ^ 31 - 1) z) else z)
      (op.word = .zero → D = 0) ∧
      Dense 0 fF16 16 4 ∧ Dense 1 fBF16 16 4 ∧ Dense 2 fE4M3 8 8 ∧ Dense 3 fE5M2 8 8 ∧ Dense 6 fF32 32 4 ∧
      (op.word = .dense 4 →
        let val := fun (rows : List (List W32)) (scales : List W32) (line k : Nat) =>
          blockVal (bits (tget 0 scales (line % 16 + 16 * (k / 32))) 7 0) (fragElem rows 4 line k)
        D = Groups 8 (val op.a op.sa i) (val op.b op.sb j)) ∧
      (op.word = .dense 5 → Exact (fragElem op.a 8 i) (fragElem op.b 8 j)) ∧
      Sparse 0 fF16 16 4 ∧ Sparse 1 fBF16 16 4 ∧ Sparse 2 fE4M3 8 8 ∧
      (op.word = .sparse 3 → Exact (tileElem op.word.shape rd op.ma op.ta i) (tileElem op.word.shape rd op.mb op.tb j))) ∧
   (∀ (p d : MatOp) (rd : Nat → Byte) (i j n m G : Nat) (C : W32), (n, m, G) ∈ [(0, 0, 4), (1, 1, 4), (2, 2, 8), (3, 5, 8)] →
      p.word = .sparse n → d.word = .dense m → d.na = p.na → d.nb = p.nb → d.zc = p.zc → d.ek = p.ek → d.sat = p.sat →
      let sh := p.word.shape
      (∀ k, tileElem sh rd p.ma p.ta i k = fragElem d.a sh.w i k) → (∀ k, tileElem sh rd p.mb p.tb j k = fragElem d.b sh.w j k) →
      (n = 3 ∨ p.becalm = true ∨ p.zc = true ∨ C ≠ 0x80000000 ∨
        ∃ k, k < p.ek ∧ sh.nonzero (fragElem d.a sh.w i k) = true ∧ sh.nonzero (fragElem d.b sh.w j k) = true) →
      opElem p rd i j C = opElem d rd i j C) ∧
   (∀ acc : W32, (fF32.val acc.toNat).isNan = false → acc ≠ 0x80000000 → accumulate acc (.zero false) = acc)

/-- R204 to R206: `mld` and `mldt` give every lane of four registers a fragment's elements from scratchpad rows, `mrd` every lane
of eight registers a tile's elements, and `mwr` a tile's elements from them.
The model's readings and choices in it: a tile is busy for trel and mwr only through accumulator and scratchpad tiles
that an operation names (notes/assumptions/29.md). -/
def Obligations.MatrixMoves : Prop :=
  ∀ (s : State) (c : Cur) (g : Gang) (grp : Grp), Clear s c g → g.b.live = false →
    let co := s.core g.core
    let Byte := fun (a : Nat) => mread co.scratch (scratchKey s g a)
    (∀ o : OpCGA, (Reg.s o.a.toNat :: groupRegs o.g 4).all g.usable = true →
      let v := g.readS c.slotB o.a.toNat
      let offset := bits v 19 0
      let stride := bits v 39 24
      let Ready := fun (align : Nat) (rows : List (Nat × Nat)) =>
        offset % align = 0 ∧ stride % align = 0 ∧ rows.all (fun r => decide (r.1 + r.2 ≤ 4096 * s.tcount g)) = true ∧
        rows.all (fun r => (tilesSpanned r.1 r.2).all (fun t => !tileOwned s g (.scratch, t))) = true
      bits v 23 20 = 0 → bits v 63 43 = 0 →
      (bits v 42 40 = 0 → Ready 16 ((List.range 16).map (fun r => (offset + r * stride, 32))) →
        WholeResult s c g grp (4 * o.g.toNat) 4
          (fun r l => let a := offset + l % 16 * stride + 16 * (l / 16) + 4 * r; Byte (a + 3) ++ Byte (a + 2) ++ Byte (a + 1) ++ Byte a)
          (exec (.mld grp o) s)) ∧
      (∀ w, (bits v 42 40, w) ∈ [(0, 32), (1, 16), (2, 8), (3, 4)] →
        Ready (if w = 4 then 8 else 16) ((List.range (256 / w)).map (fun k => (offset + k * stride, 2 * w))) →
        ∃ F : Nat → Nat → W32, WholeResult s c g grp (4 * o.g.toNat) 4 F (exec (.mldt grp o) s) ∧
          ∀ r l q, r < 4 → l < 32 → q < 32 / w →
            let row := offset + (l / 16 * (128 / w) + r * (32 / w) + q) * stride
            elem w (F r l).toNat q =
              if w = 4 then (Byte (row + l % 16 / 2)).toNat / 16 ^ (l % 2) % 16
              else ofBytes ((List.range (w / 8)).map (fun j => Byte (row + l % 16 * (w / 8) + j))))) ∧
    (∀ o : OpCVK, (vtRegs o.n.toNat).all g.usable = true → o.k.toNat < s.ccount g → tileOwned s g (.acc, o.k.toNat) = false →
      tileBusy s g (.acc, o.k.toNat) = false →
      let At := fun (r l : Nat) => 1024 * s.physAcc g o.k.toNat + 4 * (16 * (l % 16) + 8 * (l / 16) + r)
      WholeResult s c g grp (8 * o.n.toNat) 8 (fun r l => w32 (mreadNat co.acc (At r l) 4)) (exec (.mrd grp o) s) ∧
      ∃ m : Memory, GoesTo (s.setCore g.core { co with acc := m }) c g grp (nextPc c grp) (exec (.mwr grp o) s) ∧
        (∀ r l, r < 8 → l < 32 → w32 (mreadNat m (At r l) 4) = g.lane? (8 * o.n.toNat + r) l) ∧
        (∀ a, a < 1024 * s.physAcc g o.k.toNat ∨ 1024 * s.physAcc g o.k.toNat + 1024 ≤ a → mread m a = mread co.acc a))

/-! Steps, tasks and system registers: R28 to R30, R113 to R121, R235, R241 to R244. -/

/-- R114, R115, R181: `step` and `bar` end the gang's step at slot A; the successor waits for the descriptors, or for the
generation of the barrier after the one the gang arrived in.
The model's readings and choices in it: the stall count s of a step is measured when its last group retires
(notes/assumptions/81.md). -/
def Obligations.StepEnds : Prop :=
  ∀ (s : State) (c : Cur) (g : Gang) (grp : Grp), Clear s c g → c.slotB = false → g.b.live = false →
    (∀ (o : OpCAN) (ds : List Dep) (t : State),
      let a := o.a.toNat
      let n := o.n.toNat
      let words := (List.range n).map (fun j => g.readS false (a + 1 + j))
      n ≤ 4 → a + n ≤ 61 → (blockRegs a (n + 1)).all g.usable = true → parseDeps words = some ds →
      ds.all (fun d => !d.invalid s g && !d.beyond s g) = true →
      (ds.filterMap Dep.site).all (fun x => x.1 % x.2 == 0) = true → Watchable s g (ds.filterMap Dep.site) t →
      EndsStep t c g grp
        (waits (stepDone s c g grp (g.readS false a))
          { entry := g.readS false a, pc := c.pc, descriptors := words, barrier := none, host := hostWords t g ds, held := false })
        (exec (.step grp o) s)) ∧
    (∀ o : OpCAK,
      let count := bits (g.readS false o.a.toNat) 15 0
      let key := barrierKey s g o.k.toNat
      let b := s.barrier key
      g.usable (.s o.a.toNat) = true → (s.crewOf g).isSome = true → 0 < count → (b.arrived = 0 ∨ b.latch = count) →
      let after : Barrier := if b.arrived + 1 = count then Barrier.mk (b.gen + 1) 0 0 else Barrier.mk b.gen count (b.arrived + 1)
      EndsStep { s with barriers := aput s.barriers key after } c g grp
        (waits (marked (stepDone s c g grp (nextPc c grp)))
          { entry := nextPc c grp, pc := c.pc, descriptors := [], barrier := some (key, b.gen), host := [], held := false })
        (exec (.bar grp o) s))

/-- R116, R241, R243, R244: `end` ends the task, an any-hit task's lanes answering ignore; `hitret` answers for each lane that
takes part; `callx` and `retx` end it with an item for every launched lane, with the lane's entry, role, return chain and
payload.
The model's readings and choices in it: lanes that do not take part in callx have the key of register va + 1 as well
(notes/assumptions/34.md); callx, retx and end in an any-hit task answer ignore for its lanes
(notes/assumptions/35.md); the stall count s of a step is measured when its last group retires
(notes/assumptions/81.md). -/
def Obligations.TaskEnds : Prop :=
  ∀ (s : State) (c : Cur) (g : Gang) (grp : Grp), Clear s c g → c.slotB = false → g.b.live = false →
    let h := finished (stepDone s c g grp (nextPc c grp))
    let lanes := (List.range 32).filter (fun l => bit g.lane l)
    let P := g.a.mask
    let Ends := fun (more : List EntryKind) (out : Outcome) =>
      EndsStep s c g grp { h with entries := g.entries ++ more.map (ownEntryOf c g 0) } out
    let ignored := if g.kind = .anyHit then [EntryKind.answers (lanes.map (fun l => (tget (0, 0) g.rays l, 1, 0, 0)))] else []
    let Item := fun (kind : TaskKind) (entry : W64) (role : Nat) (o : Origin) (regs : List W32) =>
      ({ launch := g.launch, part := g.part, aspace := g.aspace, kind := kind, entry := entry, role := role, generation := g.generation,
         origin := o, ident := g.ident, regs := regs, ray := none } : Item)
    Ends ignored (exec (.opEnd grp) s) ∧
    (∀ o : OpCA, let r := 2 * o.a.toNat
      (regGroup r 3).all g.usable = true → g.kind = .anyHit → s.pkg.mini = false →
      Ends [.answers (lanes.map (fun l => (tget (0, 0) g.rays l, if bit P l then bits (g.lane? r l) 1 0 else 1, g.lane? (r + 1) l, g.lane? (r + 2) l)))]
        (exec (.hitret grp o) s)) ∧
    (∀ o : OpCDAN, let r := 2 * o.a.toNat; let n := o.n.toNat
      n ≤ 16 → (Reg.s o.d.toNat :: regGroup r (n + 2)).all g.usable = true →
      (∀ l ∈ lanes, bit P l = true → bits (g.lane? r l) 1 0 < s.roles g) → (∀ l, l < 32 → bit P l = true → (g.origin l).chain.length < 8) →
      let regs := fun (l : Nat) => (List.range n).map (fun j => g.lane? (r + 2 + j) l)
      Ends (ignored ++ [.items (lanes.map (fun l =>
        let or := { g.origin l with coherence := bits (g.lane? (r + 1) l) 15 0 }
        if bit P l then
          Item .callee (w64 (bits (g.readS false o.d.toNat) 56 32 * 2 ^ 32 + (g.lane? r l).toNat / 4 * 4)) (bits (g.lane? r l) 1 0)
            { or with chain := { entry := nextPc c grp, role := g.role } :: or.chain } (regs l)
        else Item .continuation (nextPc c grp) g.role or (regs l)))]) (exec (.callx grp o) s)) ∧
    (∀ o : OpCAN, let r := 2 * o.a.toNat; let n := o.n.toNat
      n ≤ 16 → (regGroup r n).all g.usable = true → (∀ l ∈ lanes, (g.origin l).chain ≠ []) →
      ∃ items, Ends (ignored ++ [.items items]) (exec (.retx grp o) s) ∧
        items = lanes.map (fun l =>
          let top := (g.origin l).chain.headD { entry := 0, role := 0 }
          Item .continuation top.entry top.role { g.origin l with chain := (g.origin l).chain.tail }
            ((List.range n).map (fun j => g.lane? (r + j) l))))

/-- R117 to R119, R121: `trap` goes to the launch's trap entry with its word in `sd`; `spawn` and `launch` buffer the item or the
record; `swr` writes `TRAPARG` alone.
The model's readings and choices in it: a spawn of generation 16 neither seals its task nor counts in the numbering of
its children (notes/assumptions/36.md). -/
def Obligations.TrapsAndWork : Prop :=
  ∀ (s : State) (c : Cur) (g : Gang) (grp : Grp), Clear s c g →
    (∀ (o : OpCDN) (l : Launch), g.usable (.s o.d.toNat) = true → aget s.launches g.launch = some l → bits (l.word 4) 56 0 ≠ 0 →
      ScalarResult s c g grp (w64 (bits (l.word 4) 56 0)) 0 o.d.toNat (w64 (2 ^ 63 + o.n.toNat * 2 ^ 57 + c.pc.toNat % 2 ^ 57))
        (exec (.trap grp o) s)) ∧
    (∀ o : OpCAN,
      let a := o.a.toNat
      let n := o.n.toNat
      let e := g.readS c.slotB a
      n ≤ 8 → a + n ≤ 61 → (blockRegs a (n + 1)).all g.usable = true → bits e 1 0 < s.roles g → bufferUse g.entries + 160 ≤ 16384 →
      Buffers s c g grp [ownEntryOf c g 160 (.spawn
        { launch := g.launch, part := g.part, aspace := g.aspace, entry := w64 (e.toNat / 4 * 4), role := bits e 1 0,
          payload := (List.range n).map (fun j => g.readS c.slotB (a + 1 + j)), key := [],
          generation := g.generation + (if g.kind = .anyHit then 1 else 0), ident := g.ident })] [] (exec (.spawn grp o) s)) ∧
    (∀ o : OpCA, let a := o.a.toNat
      a % 16 = 0 → a ≤ 32 → (blockRegs a 16).all g.usable = true → bufferUse g.entries + 160 ≤ 16384 →
      Buffers s c g grp [ownEntryOf c g 160 (.launch ((List.range 16).map (fun j => g.readS c.slotB (a + j))))] [] (exec (.launch grp o) s)) ∧
    (∀ o : OpCAN, g.usable (.s o.a.toNat) = true → o.n.toNat < 18 →
      let h := if o.n.toNat = 17 then { g with traparg := g.readS c.slotB o.a.toNat } else g
      GoesTo (s.withGang c h) c h grp (nextPc c grp) (exec (.swr grp o) s))

/-- R28 to R30, R43, R44: `srd` reads each system register: identity, place, crew map, counters, mode and `TRAPARG`; `MPROG`
shows ISSUED and TOTAL of the crew's oldest unfinished sparse operation, 0 without one (R30, R202). `CYC` is the core's cycle at which the
unit issues (R6, R62).
The model's choices in it: ISSUED advances between pre-emption points by a move of the schedule (notes/assumptions/28.md);
ID.STEP reads 0 (notes/assumptions/4.md); durations other than issue distances are left out of CYC (notes/assumptions/78.md). -/
def Obligations.SystemRegisters : Prop :=
  ∀ (s : State) (c : Cur) (g : Gang) (grp : Grp) (o : OpCDN), Clear s c g → g.usable (.s o.d.toNat) = true → o.n.toNat < 18 →
    ∃ v : W64, ScalarResult s c g grp (nextPc c grp) 0 o.d.toNat v (exec (.srd grp o) s) ∧
      let At := fun (n : Nat) (x : W64) => o.n.toNat = n → v = x
      let x := s.ctx (spaceKey g.part g.aspace)
      At 0 (g.lane.setWidth 64) ∧
      At 1 (w64 (g.gangIndex + g.role * 2 ^ 8 + g.idSlot * 2 ^ 16 + g.idSlot % 4 * 2 ^ 24)) ∧
      At 2 (w64 g.crew) ∧ At 3 (w64 (g.idCore % 40)) ∧ At 4 (w64 (g.idCore % 40 / 4)) ∧ At 5 (w64 (g.idCore / 40)) ∧
      At 6 (w64 s.pkg.number) ∧
      (∀ cr, s.crewOf g = some cr → At 7 (w64 (cr.tfirst + cr.tcount * 2 ^ 8 + cr.cfirst * 2 ^ 16 + cr.ccount * 2 ^ 24))) ∧
      let Runs := fun (op : MatOp) => some op.crewKey = g.crewKey ∧ ∃ n, op.word = .sparse n
      ((∀ op ∈ (s.core g.core).ops, ¬Runs op) → At 8 0) ∧
      (∀ (older newer : List MatOp) (op : MatOp), (s.core g.core).ops = older ++ op :: newer → Runs op → (∀ p ∈ older, ¬Runs p) →
        At 8 (w64 (op.issued + op.total * 2 ^ 32))) ∧
      At 9 (w64 ((if s.pkg.mini then 0x78 else 0x7F) + (s.part g.part).dies * 2 ^ 16 + 40 * 2 ^ 20)) ∧
      At 10 (w64 (1 + 64 * 2 ^ 16 + 192 * 2 ^ 24 + 256 * 2 ^ 32 + 18 * 2 ^ 48)) ∧
      At 11 (w64 (unitCycle s c g grp)) ∧ At 12 (g.replay.setWidth 64) ∧ At 13 (g.detstep.setWidth 64) ∧
      At 14 ((g.slot c.slotB).icnt.setWidth 64) ∧ At 15 (s.seedOf g) ∧
      (∀ l, aget s.launches g.launch = some l →
        At 16 (w64 (x.becalm.toNat + x.scheck.toNat * 2 + bits (l.word 0) 11 10 * 4 + (s.nonidem g).toNat * 16 + g.aspace * 2 ^ 8))) ∧
      At 17 g.traparg

/-! Engine commands, the hash grid and splats: R210 to R247. -/

/-- R210, R211, R213, R223, R224: a copy, sort, range, collective or marker command with a legal record goes to its engine, or
is held for the commit by a fence of the step.
R235, R238, R245: `trace` sends the rays of the lanes that take part, and `rast` its triangle, to the intersection unit,
which from then on owns the register tile.
The model's choice in it: with no free place in a queue, and with 64 other collectives running (R408), the command waits at
issue, and no rule about durations is a part of that (notes/assumptions/78.md). -/
def Obligations.EngineCommandsAreSent : Prop :=
   (∀ (s : State) (c : Cur) (g : Gang) (grp : Grp) (o : OpCA), Clear s c g →
      let a := o.a.toNat
      let words := (List.range 8).map (fun j => g.readS c.slotB (a + j))
      let C := fun (kind : CmdKind) => commandOf s c g kind words
      let held := heldByFence g ((g.slot c.slotB).path ++ [g.seq])
      let Sends := fun (held : Bool) (cmd : Command) (cover : List Nat) (out : Outcome) =>
        (held = true → bufferUse g.entries + 160 ≤ 16384) → SendsCommand s c g grp held cmd cover out
      a % 8 = 0 → a < 56 → (blockRegs a 8).all g.usable = true →
      (copyCount s g.core < 16 → copyIllegal s g (C .cpy) false = false → copyMisaligned (C .cpy) false = false → copyPerm s g (C .cpy) = false →
        Sends held (C .cpy) (g.covered ++ [s.serial]) (exec (.cpy grp o) s)) ∧
      (copyCount s g.core < 16 → copyIllegal s g (C .cpyg) true = false → copyMisaligned (C .cpyg) true = false → copyPerm s g (C .cpyg) = false →
        Sends held (C .cpyg) (g.covered ++ [s.serial]) (exec (.cpyg grp o) s)) ∧
      (copyCount s g.core < 16 → [0, 1, 2, 3, 4, 6].all (fun j => (C .cpyst).word j == 0) = true →
        bits ((C .cpyst).word 5) 7 0 = 0 → bits ((C .cpyst).word 5) 20 16 = 0 → bits ((C .cpyst).word 5) 63 22 = 0 →
        (bit ((C .cpyst).word 5) 21 = true → tileOutside s g 1 (bits ((C .cpyst).word 5) 15 8) = false) →
        Sends (held || g.covered.any (fun n => (heldCommands g).contains n)) { C .cpyst with covered := g.covered } [s.serial] (exec (.cpyst grp o) s)) ∧
      ((sortCommands s g.die).length < 32 → sortIllegal (C .sort) = false → sortMisaligned (C .sort) = false →
        (∀ t, sortFull (C .sort) = some t → tileOutside s g 1 t = false) → Sends held (C .sort) g.covered (exec (.sort grp o) s)) ∧
      ((sortCommands s g.die).length < 32 → sortrIllegal (C .sortr) = false → ((C .sortr).word 0).toNat % 8 = 0 → ((C .sortr).word 1).toNat % 8 = 0 →
        (∀ t, sortFull (C .sortr) = some t → tileOutside s g 1 t = false) → Sends held (C .sortr) g.covered (exec (.sortr grp o) s)) ∧
      ((runningColls s g.part).length < 64 ∨ (runningColls s g.part).contains ((C .coll).collGroup, (C .coll).collSeq) = true →
        collIllegal (C .coll) = false → collMisaligned (C .coll) = false → Sends held (C .coll) g.covered (exec (.coll grp o) s))) ∧
   (∀ (s : State) (c : Cur) (g : Gang) (grp : Grp), Clear s c g → s.pkg.mini = false →
      let Sends := fun (n : Nat) (cmd : Command) (out : Outcome) =>
        let h := { g with vtOwner := g.vtOwner ||| BitVec.twoPow 16 n }
        GoesTo (({ s with serial := s.serial + 1, cmds := s.cmds ++ [(s.serial, { cmd with slot := some n })] } : State).withGang c h)
          c h grp (nextPc c grp) out
      (∀ o : OpCNGK, let v := g.readS c.slotB o.k.toNat
        (Reg.s o.k.toNat :: vtRegs o.n.toNat ++ vtRegs o.g.toNat).all g.usable = true → v.toNat % 64 = 0 → bits v 63 57 = 0 →
        Sends o.n.toNat { commandOf s c g .trace [v] with
          rays := ((List.range 32).filter (fun l => participates c g grp l)).map (newRay g o.g.toNat) } (exec (.trace grp o) s)) ∧
      (∀ o : OpCNA, let a := o.a.toNat
        let cmd := commandOf s c g .rast ((List.range 8).map (fun j => g.readS c.slotB (a + j)))
        a % 8 = 0 → a < 56 → (blockRegs a 8 ++ vtRegs o.n.toNat).all g.usable = true →
        bits (cmd.word 3) 63 32 = 0 → bits (cmd.word 4) 63 2 = 0 → bits (cmd.word 4) 1 0 < 3 → [5, 6, 7].all (fun j => cmd.word j == 0) = true →
        Sends o.n.toNat cmd (exec (.rast grp o) s)))

/-- R228 to R231: `hgrid` gives each lane that takes part, for each level, two features: the sums of its corners' entries with
their weights; `hgrad` buffers, for each corner, the products of weight and gradient.
Reading the table leaves what reading at the homes leaves: corrected units, counted requests and messages (R328, R332).
The model's readings and choices in it: the sign of an exact zero that a fused operation gives
(notes/assumptions/10.md); hgrid reads its table and hgrad its inputs when they issue (notes/assumptions/43.md); a contribution of hgrad takes
24 bytes of the store buffer (notes/assumptions/102.md). -/
def Obligations.HashGrid : Prop :=
  ∀ (s : State) (c : Cur) (g : Gang) (grp : Grp) (o : OpVH) (oks : List (Access × W64)) (t : State), Clear s c g →
    s.pkg.mini = false → o.b.toNat % 8 = 0 → o.b.toNat < 56 →
    let B := fun (j : Nat) => g.readS c.slotB (o.b.toNat + j)
    let levels := bits (B 1) 4 0
    let logT := bits (B 1) 12 8
    let res := fun (level : Nat) => bits (B (2 + level / 4)) (16 * (level % 4) + 15) (16 * (level % 4))
    let corners := fun (l level : Nat) => gridCorners ((List.range 3).map (fun a => valF32 (g.lane? (o.a.toNat + a) l))) (res level) logT
    let lanes := (List.range 32).filter (fun l => participates c g grp l)
    let at_ := fun (base size l : Nat) =>
      (List.range levels).flatMap (fun level => (corners l level).map (fun x => (l, base + size * (level * 2 ^ logT + x.2))))
    let mine := fun (l : Nat) => oks.filter (fun a => decide (a.1.lane = l))
    let pos := (g.slot c.slotB).path ++ [g.seq]
    let u := gridReads g t (oks.map (·.1))
    bits (B 0) 63 57 = 0 → bits (B 6) 63 57 = 0 → B 7 = 0 → bits (B 1) 7 5 = 0 → bits (B 1) 63 13 = 0 → 0 < levels → levels ≤ 16 → logT ≤ 24 →
    (∀ level, level < levels → 0 < res level) →
    ((List.range 8).map (fun j => Reg.s (o.b.toNat + j)) ++ regGroup o.a.toNat 3).all g.usable = true → bits (B 0) 56 0 % 4 = 0 →
    ((regGroup o.d.toNat levels).all g.usable = true →
      Resident s g .read (lanes.flatMap (at_ (bits (B 0) 56 0) 4)) oks t →
      (∀ x ∈ oks, t.unreachable x.1.pa = false ∧ t.refuses x.1.pa = false ∧ t.trains x.1.pa = false ∧ (aperture x.1.pa = 0 → t.bad (memKey g.part x.1.pa) = false)) →
      s.calm = true →
      let entry := fun (l level k : Nat) =>
        let pa := (tget ({ lane := 0, va := 0, pa := 0, ms := false, uncached := false }, 0) (mine l) (8 * level + k)).1.pa
        ofBytes ((mreadBytes u.mem (memKey g.part pa) 4).zipIdx.map (fun (b, j) => forward (pa + j) (storesBefore g pos) b))
      VectorResult u c g grp 0 o.d.toNat levels
        (fun level l => let cs := (corners l level).zipIdx.map (fun (x, k) => (x.1, entry l level k))
          w32 (gridFeature 1 cs * 2 ^ 16 + gridFeature 0 cs)) (exec (.hgrid grp o) s)) ∧
    (bits (B 6) 56 0 % 8 = 0 → (regGroup o.d.toNat (2 * levels)).all g.usable = true →
      Resident s g .write (lanes.flatMap (at_ (bits (B 6) 56 0) 8)) oks t → (∀ x ∈ oks, aperture x.1.pa ≠ 2) →
      (∀ e ∈ g.entries, e.pos ≠ pos) → bufferUse g.entries + 24 * (16 * levels * lanes.length) ≤ 16384 →
      (lanes = [] → GoesTo t c g grp (nextPc c grp) (exec (.hgrad grp o) s)) ∧
      (lanes ≠ [] → ∃ e, Buffers t c g grp [e] [] (exec (.hgrad grp o) s) ∧ e.pos = pos ∧
        e.kind = .hgrad (lanes.flatMap (fun l => (List.range levels).flatMap (fun level => (corners l level).zipIdx.flatMap (fun (w, k) =>
          (List.range 2).map (fun f =>
            let a := (tget ({ lane := 0, va := 0, pa := 0, ms := false, uncached := false }, 0) (mine l) (8 * level + k)).1
            (((level * 32 + l) * 8 + k) * 2 + f, a.va + 4 * f, a.pa + 4 * f,
             bitsOf (w.1.mul (valF32 (g.lane? (o.d.toNat + 2 * level + f) l)))))))))))

/-- R232 to R234: `cmps` composites a splat over each lane that takes part and finds it visible, and `cmpsb` gives its nine
gradients and takes the splat out again; a lane that finds it invisible gets gradients of 0 and keeps its state.
The model's readings and choices in it: the special functions are rounded once from their exact value
(notes/assumptions/9.md); the sign of an exact zero that a fused operation gives (notes/assumptions/10.md); which NaN an accumulation
gives (notes/assumptions/25.md). -/
def Obligations.Splats : Prop :=
  ∀ (s : State) (c : Cur) (g : Gang) (grp : Grp) (o : OpVH), Clear s c g → s.pkg.mini = false →
    let sa := bits (g.readS c.slotB o.b.toNat) 19 0
    let Byte := fun (a : Nat) => mread (s.core g.core).scratch (scratchKey s g a)
    let word := fun (j : Nat) => valF32 (Byte (sa + 4 * j + 3) ++ Byte (sa + 4 * j + 2) ++ Byte (sa + 4 * j + 1) ++ Byte (sa + 4 * j))
    let d := o.d.toNat
    let q := o.a.toNat
    let F := fun (r l : Nat) => valF32 (g.lane? r l)
    g.usable (.s o.b.toNat) = true → sa % 16 = 0 → sa + 48 ≤ 4096 * s.tcount g →
    (List.range 12).all (fun j => !bit (s.core g.core).scratchOwn (s.physTile g ((sa + 4 * j) / 4096))) = true →
    (d % 4 = 0 → (regGroup d 4 ++ regGroup q 2).all g.usable = true →
      LaneResult s c g grp (fun j l =>
        let v := splatEval word (F q l) (F (q + 1) l)
        if d ≤ j ∧ j < d + 4 ∧ participates c g grp l ∧ v.live then
          some (if j = d + 3 then bitsOf (mulR (F (d + 3) l) (subR oneF v.alpha))
            else bitsOf (accR (F j l) (mulR (F (d + 3) l) v.alpha) (word (6 + (j - d)))))
        else none) (exec (.cmps grp o) s)) ∧
    (q % 4 = 0 → (d + 9 ≤ q ∨ q + 12 ≤ d) → (regGroup q 12 ++ regGroup d 9).all g.usable = true →
      LaneResult s c g grp (fun j l =>
        let r := splatBack word (fun k => F (q + k) l)
        if d ≤ j ∧ j < d + 9 ∧ participates c g grp l then some (if r.1 then bitsOf (tget (.zero false) r.2.1 (j - d)) else 0)
        else if q + 5 ≤ j ∧ j < q + 9 ∧ participates c g grp l ∧ r.1 then some (bitsOf (tget (.zero false) r.2.2 (j - (q + 5))))
        else none) (exec (.cmpsb grp o) s))

/-! Faults: R66, R345 to R349. -/

/-- R346 to R348, R355: taking a fault parks the slot and writes the record, whose first dwords name the class, access, place,
address and lanes; while the queue is full the record waits in the die's hold. -/
def Obligations.FaultRecords : Prop :=
  ∀ (s : State) (id : Nat) (g : Gang) (slotB : Bool) (pc : W64) (cls : FaultClass) (f : FaultInfo) (pos : Pos) (byLane : Bool),
    aget s.gangs id = some g →
    let t := raiseFault s id slotB pc cls f pos byLane
    (QueueOpen s g → FaultTaken s id g slotB pc cls f pos byLane t) ∧
    (queueFull (s.part g.part) = true →
      aget t.gangs id = some (g.setSlot slotB { g.slot slotB with parked := some (Park.mk none false f.lanes byLane false pos) }) ∧
      t.mem = s.mem ∧ (t.part g.part).fltProd = (s.part g.part).fltProd ∧
      (t.die g.die).hold.map (·.words) = (s.die g.die).hold.map (·.words) ++ [gangRecord s g slotB pc cls f]) ∧
    (g.aspace < 256 → g.core < 160 → g.slotNo < 64 →
      let d := fun (n : Nat) => tget (0 : W64) (gangRecord s g slotB pc cls f) n
      bits (d 0) 7 0 = cls.code ∧ bits (d 0) 11 8 = f.kind.code ∧ bit (d 0) 12 = slotB ∧ bit (d 0) 13 = g.sealed ∧
      bit (d 0) 14 = s.nonidem g ∧ bits (d 0) 23 16 = g.aspace ∧ bits (d 0) 25 24 = g.core / 40 ∧ bits (d 0) 31 26 = g.core % 40 ∧
      bits (d 0) 39 32 = g.slotNo ∧ bit (d 0) 41 = f.host ∧ d 1 = pc ∧ d 2 = w64 f.va ∧ bits (d 3) 31 0 = f.done.toNat ∧
      bits (d 3) 63 32 = f.faulted.toNat ∧ d 4 = w64 f.code ∧ d 6 = w64 f.detail)

/-- R66, R22, R32, R46, R67, R115, R117, R122, R158, R183: faults that groups take before any effect: malformed words, an absent
unit, a result not yet due, a pending register, a misaligned address, a page that is absent or not to be written, an
engine-owned register, a count of 0, a mismatched barrier, and a trap with no trap entry.
The model's readings and choices in it: a count of 0 is tested before the barrier's latched count (notes/assumptions/83.md); a fault of a vector access that is not a miss names in FAULTED and in VA the
lowest lane that raises it (notes/assumptions/21.md); a misaligned register number of a record has no access kind
(notes/assumptions/76.md). -/
def Obligations.FaultsAreTaken : Prop :=
  ∀ (s : State) (c : Cur) (g : Gang) (grp : Grp), QueueOpen s g →
    let T := fun (cls : FaultClass) (f : FaultInfo) (out : Outcome) => TakesFault s c g cls f false out
    (Clear s c g → T .illegalOp FaultInfo.plain (exec .illegalOp s)) ∧
    (∀ o : OpS3, s.cur = some c → aget s.gangs c.gang = some g → (g.slot c.slotB).parked = none → g.flight = [] → g.loads = [] →
      s.scheck g = true → (regsS3 o).any (fun r => (g.slot c.slotB).haz.any (fun x => x.1 == r.code && decide (unitDist c g grp < x.2))) = true →
      T .stallShort FaultInfo.plain (exec (.sadd grp o) s)) ∧
    (Clear s c g →
      (∀ o : OpS3, (regsS3 o).any g.pending = true → T .pendingRead FaultInfo.plain (exec (.sadd grp o) s)) ∧
      (∀ (o : OpV3) (r : Nat), r ∈ [o.d.toNat, o.a.toNat, o.b.toNat] → grp.fields.typ = 0 → g.vcount ≤ r →
        T .illegalOp FaultInfo.plain (exec (.vadd grp o) s)) ∧
      (∀ (o : OpV3) (r : Nat), r ∈ [o.d.toNat, o.a.toNat, o.b.toNat] → grp.fields.typ = 0 →
        [o.d.toNat, o.a.toNat, o.b.toNat].all (fun n => !g.beyond (.v n) && !g.pending (.v n)) = true → g.owned (.v r) = true →
        T .tileOwned FaultInfo.plain (exec (.vadd grp o) s)) ∧
      (∀ o : OpCA, s.pkg.mini = true → (regGroup (2 * o.a.toNat) 3).all (fun r => !g.beyond r) = true →
        T .illegalUnit FaultInfo.plain (exec (.hitret grp o) s)) ∧
      (∀ o : OpCA, o.a.toNat < 56 → (blockRegs o.a.toNat 8).any g.pending = true → T .pendingRead FaultInfo.plain (exec (.cpy grp o) s)) ∧
      (∀ o : OpCAK, g.b.live = false → g.usable (.s o.a.toNat) = true → (s.crewOf g).isSome = true →
        let count := bits (g.readS c.slotB o.a.toNat) 15 0
        let b := s.barrier (barrierKey s g o.k.toNat)
        (count = 0 → T .depInvalid FaultInfo.plain (exec (.bar grp o) s)) ∧
        (0 < count → b.arrived ≠ 0 → b.latch ≠ count → T .barrierMismatch FaultInfo.plain (exec (.bar grp o) s))) ∧
      (∀ (o : OpCDN) (l : Launch), g.usable (.s o.d.toNat) = true → aget s.launches g.launch = some l → bits (l.word 4) 56 0 = 0 →
        T .trap { FaultInfo.plain with code := o.n.toNat } (exec (.trap grp o) s)) ∧
      (∀ o : OpM, [Reg.s o.sb.toNat, .v o.vo.toNat, .v o.ds.toNat].all g.usable = true →
        let as := laneVas c g grp o.sb o.vo
        (∀ l va, as.find? (fun a => a.2 % 4 != 0) = some (l, va) →
          T .align { FaultInfo.plain with kind := .vstore, va := va } (exec (.vst32 grp o) s)) ∧
        (∀ l va, as = [(l, va)] → va % 4 = 0 → s.gangXlate g va .write = (s, .perm) →
          T .xlatPerm { FaultInfo.plain with kind := .vstore, va := va, faulted := BitVec.twoPow 32 l } (exec (.vst32 grp o) s)) ∧
        (∀ l va, as = [(l, va)] → va % 4 = 0 → s.gangXlate g va .write = (s, .miss none) →
          TakesFault s c g .xlatMiss { FaultInfo.plain with kind := .vstore, va := va, faulted := BitVec.twoPow 32 l, lanes := BitVec.twoPow 32 l }
            true (exec (.vst32 grp o) s))))

/-! Steps of the part that no word encodes. -/

/-- R58, R63, R64, R271, R355: scheduling hints and their expiry, the landing of one result once its latency has passed, and the aging of a
slot that has been ready for 4,096 ACLK while a slot that ranks lower issued. A hint issues as a
unit of distance 1 that counts no instruction; a yield holds for the N ACLK after its own.
The model's readings and choices in it: fixed-latency results of slot B land when slot B retires
(notes/assumptions/18.md). -/
def Obligations.HintsAndAging : Prop :=
  (∀ (s : State) (c : Cur) (g : Gang), Clear s c g →
    let sl := g.slot c.slotB
    let base := { g.setSlot c.slotB { sl with pc := c.pc + 4, dist := sl.dist + 1, ready := max (s.core g.core).cyc sl.ready + 1, waits := false, aged := false, passed := false } with seq := g.seq + 1 }
    let H := fun (h : Gang) (out : Outcome) => ∃ t, out = .next t ∧ OnlyGang s c g (Grp.alone 0) h t
    H base (exec .hintNop s) ∧
    (∀ n : BitVec 8, H (base.setSlot c.slotB { base.slot c.slotB with yieldTo := max sl.yieldTo (max (s.core g.core).cyc sl.ready + n.toNat + 1) })
      (exec (.hintYield n) s)) ∧
    (∀ n : BitVec 8, H (base.setSlot c.slotB { base.slot c.slotB with boost := if n = 0 then 0 else n.toNat + 1 }) (exec (.hintBoost n) s)) ∧
    (∀ b, H { base with prefersB := some b } (exec (.hintSlot b) s))) ∧
  (∀ (s : State) (id : Nat) (g : Gang), aget s.gangs id = some g →
    (∀ b, let sl := g.slot b
      exec (.yieldExpiry id b) s =
        .next (s.setGang id (if sl.yieldTo ≤ (s.core g.core).cyc then g.setSlot b { sl with yieldTo := 0 } else g)) ∧
      exec (.boostExpiry id b) s = .next (s.setGang id (g.setSlot b { sl with boost := if sl.boost = 1 then 0 else sl.boost })) ∧
      (ready s g b = true → sl.passed = true → sl.aged = false → sl.ready + 4096 ≤ (s.core g.core).cyc →
        exec (.slotAged id b) s = .next (s.setGang id (g.setSlot b { sl with aged := true }))) ∧
      (sl.live = false ∨ sl.passed = false ∨ sl.aged = true ∨ (s.part g.part).asserted = true ∨ (s.core g.core).cyc < sl.ready + 4096 →
        exec (.slotAged id b) s = .next s)) ∧
    (∀ k f, g.flight[k]? = some f → (s.core g.core).cyc < f.lands → exec (.resultLanding id k) s = .next (s.setGang id g)) ∧
    (∀ k f, g.flight[k]? = some f → f.lands ≤ (s.core g.core).cyc → (∀ x ∈ g.flight, x.write.reg = f.write.reg → f.lands ≤ x.lands) →
      ∃ h, exec (.resultLanding id k) s = .next (s.setGang id h) ∧ h.flight = g.flight.eraseIdx k ∧
        (∀ n v, f.write = .scalar n v → n < 62 → h.readS f.slotB n = v) ∧
        (∀ n v, f.write = .mask n v → n ≠ 0 → h.readM n = v) ∧
        (∀ n lanes vs, f.write = .vector n lanes vs → ∀ l, l < 32 → h.lane? n l = if bit lanes l then tget 0 vs l else g.lane? n l)))

/-- R158, R160 to R164, R168, R299, R326, R329, R375: an outstanding access waits while an earlier one of its gang must come before it;
else, when no port that it needs retrains, it is performed whole, or a gather a packet at a time: each lane of a load takes its bytes from the home, or from the core's
L1 where the load may, under the gang's own earlier buffered stores; a scratchpad access reads or writes its core's scratchpad; an
uncorrectable unit that it reads of a line that the L1 does not hold, and a refusal by another package, are faults instead; a line with an
uncorrectable unit that it does not read is an event, and is not brought in. Stated with the
access counters of R332 off and nothing undone that another party may not find undone.
The model's readings and choices in it: a fault of a vector access that is not a miss names in FAULTED and in VA the
lowest lane that raises it (notes/assumptions/21.md); a fill that fails is an event without a record
(notes/assumptions/99.md). -/
def Obligations.LoadsArePerformed : Prop :=
  ∀ (s : State) (id k : Nat) (g : Gang) (ld : Load), aget s.gangs id = some g → g.loads[k]? = some ld →
    (g.mayPerform s ld = false → ∀ b, exec (.loadResponse id k b) s = .next s) ∧
    (g.mayPerform s ld = true → s.calm = true → s.pkg.softUnits = [] → (∀ p, (s.part p).nthr = 0) →
      let key := fun (a : Access) => memKey g.part a.pa
      let sound := fun (a : Access) => s.unreachable a.pa = false ∧ s.refuses a.pa = false ∧ s.bad (key a) = false
      let bytes := fun (a : Access) (base : List Byte) => base.zipIdx.map (fun (b, i) => forward (a.pa + i) (storesBefore g ld.pos) b)
      let home := fun (a : Access) => bytes a (mreadBytes s.mem (key a) ld.size)
      let h0 : Gang := ({ g with loads := g.loads.eraseIdx k } : Gang).passLoads ld
      let Only := fun (h : Gang) (t : State) => t = { s with gangs := t.gangs, pkg := { s.pkg with channels := t.pkg.channels, toLink := t.pkg.toLink } } ∧
        aget t.gangs id = some h ∧ ∀ j, j ≠ id → aget t.gangs j = aget s.gangs j
      let Lanes := fun (d n : Nat) (signed : Bool) (as : List Access) (value : Access → List Byte) (h : Gang) =>
        (∀ a ∈ as, ∀ j, j < n → h.lane? (d + j) a.lane = tget 0 (laneWords (value a) signed) j) ∧
        (∀ j l, l < 32 → (j < d ∨ d + n ≤ j ∨ ∀ a ∈ as, a.lane ≠ l) → h.lane? j l = g.lane? j l)
      (ld.onChip = false →
        (∀ d a, ld.dest = .scalar d → ld.accesses = [a] → sound a → ∃ t, exec (.loadResponse id k false) s = .next t ∧
          Only (h0.writeS ld.slotB d (w64 (ofBytes (home a)))) t) ∧
        (∀ d n signed, ld.dest = .vector d n signed → n = max 1 (ld.size / 4) → (∀ a ∈ ld.accesses, sound a ∧ a.lane < 32) →
          (ld.accesses.map (·.lane)).Nodup →
          (∃ t h, exec (.loadResponse id k false) s = .next t ∧ Only h t ∧ Lanes d n signed ld.accesses home h ∧ h = { h0 with v := h.v }) ∧
          (ld.gathers = true → ∀ p as, (packets s g.part 32 ld.accesses)[p]? = some as →
            let rest := ld.accesses.filter (fun a => !as.contains a)
            (∀ a ∈ as, a ∈ ld.accesses ∧ ∀ b ∈ as, packetStack s g.part a = packetStack s g.part b ∧ a.pa < b.pa + 2 ^ 32) ∧
            ∃ t h, exec (.gatherPacket id k p) s = .next t ∧ Only h t ∧ Lanes d n signed as home h ∧
              h = { ({ g with loads := if rest = [] then g.loads.eraseIdx k else g.loads.set k { ld with accesses := rest } } : Gang).passLoads
                { ld with accesses := as } with v := h.v })) ∧
        (ld.atHome = false → ∀ a, ld.accesses = [a] → a.uncached = false → a.lane < 32 →
          let held := aget (s.core g.core).l1 (key a / 128)
          let line := held.getD (lineBytes s (key a / 128))
          let taken := bytes a ((List.range ld.size).map (fun i => tget 0 line (key a % 128 + i)))
          (held = none → sound a ∧ lineGood s (key a / 128) = true) →
          ∃ t h, exec (.loadResponse id k true) s = .next t ∧ aget t.gangs id = some h ∧ t.mem = s.mem ∧
            aget (t.core g.core).l1 (key a / 128) = some line ∧
            (∀ d, ld.dest = .scalar d → h = h0.writeS ld.slotB d (w64 (ofBytes taken))) ∧
            (∀ d n signed, ld.dest = .vector d n signed → n = max 1 (ld.size / 4) →
              Lanes d n signed [a] (fun _ => taken) h ∧ h = { h0 with v := h.v })) ∧
        (ld.atHome = false → ∀ a d, ld.accesses = [a] → a.uncached = false → ld.dest = .scalar d → sound a →
          aget (s.core g.core).l1 (key a / 128) = none → lineGood s (key a / 128) = false →
          ∃ t u, exec (.loadResponse id k true) s = .next t ∧ u / 4 = key a / 128 ∧ u ∈ s.pkg.badUnits ∧
            t.pkg.eccs = (logUnit s g.part u).pkg.eccs ∧ t.cores = s.cores ∧ t.mem = s.mem ∧
            aget t.gangs id = some (h0.writeS ld.slotB d (w64 (ofBytes (home a)))))) ∧
      (ld.onChip = true → ∀ a, ld.accesses = [a] → a.lane < 32 →
        let chip := (s.core g.core).scratch
        (∀ bs, ld.dest = .store bs → ∀ b, exec (.loadResponse id k b) s = .next ((s.setGang id h0).setCore g.core
          { s.core g.core with scratch := mwriteBytes chip a.pa (tget [] bs a.lane) })) ∧
        (∀ d, ld.dest = .scalar d → ∀ b, exec (.loadResponse id k b) s = .next
          (s.setGang id (h0.writeS ld.slotB d (w64 (ofBytes (mreadBytes chip a.pa ld.size)))))) ∧
        (∀ d n signed, ld.dest = .vector d n signed → n = max 1 (ld.size / 4) → ∀ b, ∃ t h, exec (.loadResponse id k b) s = .next t ∧
          Only h t ∧ Lanes d n signed [a] (fun a => mreadBytes chip a.pa ld.size) h ∧ h = { h0 with v := h.v })) ∧
      (QueueOpen s g → ld.onChip = false →
        let lanes := fun (a : Access) => match ld.dest with | .scalar _ => (0 : W32) | _ => BitVec.twoPow 32 a.lane
        let info := fun (a : Access) (detail : Nat) => { FaultInfo.plain with kind := ld.kind, va := a.va, faulted := lanes a, detail := detail }
        (∀ a, ld.accesses = [a] →
          let Takes := fun (base : State) (cls : FaultClass) (detail : Nat) => ∃ t, exec (.loadResponse id k false) s = .next t ∧
            FaultTaken base id h0 ld.slotB ld.pc cls (info a detail) ld.pos false t
          (s.unreachable a.pa = true → Takes (s.setGang id h0) .eccUncorr a.pa) ∧
          (s.unreachable a.pa = false → s.refuses a.pa = true → Takes (s.setGang id h0) .xlatPerm 0) ∧
          (s.unreachable a.pa = false → s.refuses a.pa = false → s.bad (key a) = true →
            Takes (logUncorr (s.setGang id h0) g.part a.pa) .eccUncorr (a.pa / 32 * 32))) ∧
        (∀ i a, g.peerReads[i]? = some (k, a) → ∃ t, exec (.peerRefusal id i) s = .next t ∧
          let h : Gang := { g with loads := g.loads.eraseIdx k }
          FaultTaken (s.setGang id h) id h ld.slotB ld.pc .xlatPerm (info a 0) ld.pos false t)))

/-- R114, R182, R265, R274, R302, R312, R355: a waiting step starts on slot A once its descriptors hold and its commit is done; the
periodic test reads the words it watches again, but not for a partition whose squall line is asserted; and the acknowledgements of a
commit's writes end it, unless it pauses, with the invalidation of its SCENE lines (R389). -/
def Obligations.StepsAndCommits : Prop :=
  (∀ (s : State) (id : Nat) (g : Gang) (w : Waiting), aget s.gangs id = some g → g.phase = .waiting w →
    let key := spaceKey g.part g.aspace
    (w.held = true → g.restarting = false → (s.part g.part).asserted = false → (s.ctx key).torn = false → s.acking id = false →
      g.entries.all Entry.heldBack = true →
      (g.crewKey = none ∨ ∀ l, aget s.launches g.launch = some l → g.detstep.toNat ≤ l.quantum (gangInst s g)) →
      exec (.stepDispatch id) s = .next
        ((s.setGang id { g with phase := .running, a := { g.a with
            ready := max g.a.ready (s.core g.core).cyc, passed := false, since := (s.core g.core).cyc, aged := false } }).setCtx key
          { s.ctx key with dispatched := (s.ctx key).dispatched + 1 })) ∧
    (w.held = false → exec (.stepDispatch id) s = .next s) ∧
    (∀ die, (s.part g.part).asserted = true → s.gangs.filter (fun x => decide (x.2.die = die)) = [(id, g)] →
      (∀ x ∈ s.launches, x.2.started = true) → s.calm = true → s.past = [] →
      ∃ t, exec (.watchPeriodicTest die) s = .next t ∧ t.mem = s.mem ∧ t.launches = s.launches ∧ t.parts = s.parts ∧ aget t.gangs id = some g) ∧
    (∀ die u, (s.part g.part).asserted = false → s.gangs.filter (fun x => decide (x.2.die = die)) = [(id, g)] →
      (∀ x ∈ s.launches, x.2.started = true) → s.past = [] → u.calm = true →
      let ds := (parseDeps w.descriptors).getD []
      Watchable s g (ds.filterMap Dep.site) u →
      let w1 := { w with host := hostWords u g ds }
      let g1 := { g with phase := .waiting w1 }
      ∃ t, exec (.watchPeriodicTest die) s = .next t ∧ t.mem = s.mem ∧ t.launches = s.launches ∧ t.parts = s.parts ∧
        aget t.gangs id = some (if w.held = false ∧ allHold (u.setGang id g1) id g1 w1 = true
          then { g with phase := .waiting { w1 with held := true } } else g1))) ∧
  (∀ (s : State) (launch crew n : Nat) (l : Launch) (before after : List Ack) (a : Ack), aget s.launches launch = some l →
    s.acks = before ++ a :: after → a.launch = launch → a.inst = l.instOf (coresOf s l.part) crew → a.pending = [] →
    let landed := a.members.foldl (fun gs id => match aget gs id with | some g => aput gs id g.landReturns | none => gs) s.gangs
    let closed := { sceneDone { s with acks := before ++ after } a.scene with answers := s.answers ++ a.answers, gangs := landed }
    let Left := fun (b : Ack) (out : Outcome) =>
      out = .next (sceneDone { s with acks := before ++ { b with early := [], scene := [] } :: after } a.scene)
    let Done := fun (out : Outcome) =>
      (a.gang = none → out = .next { closed with launches := aput s.launches launch { l with quanta := aput l.quanta a.inst (l.quantum a.inst + 1) } }) ∧
      (∀ id g, a.gang = some id → aget landed id = some g →
        out = .next (if g.crewKey = none ∧ g.phase = .ended then { closed with gangs := adel landed id } else closed))
    (n ∈ a.packages → (∀ b ∈ before, ackOf s launch crew b = true → b.pending = [] → b.packages.contains n = false) →
      (unsent s n = true → exec (.peerAcknowledgement launch crew n) s = .next s) ∧
      (unsent s n = false → a.packages.filter (· ≠ n) = [] → a.host = false → commitHalts s a = false →
        Done (exec (.peerAcknowledgement launch crew n) s)) ∧
      (unsent s n = false → (a.host = true ∨ a.packages.filter (· ≠ n) ≠ [] ∨ commitHalts s a = true) →
        Left { a with packages := a.packages.filter (· ≠ n) } (exec (.peerAcknowledgement launch crew n) s))) ∧
    (a.host = true → (∀ b ∈ before, ackOf s launch crew b = true → b.pending = [] → b.host = false) →
      (a.packages = [] → commitHalts s a = false → Done (exec (.flushingReadCompletion launch crew) s)) ∧
      ((a.packages ≠ [] ∨ commitHalts s a = true) → Left { a with host := false } (exec (.flushingReadCompletion launch crew) s))))

/-- R116, R118, R119, R125, R126, R171, R172, R211, R231, R302, R303: entries are performed in the order of task key, lane and program
position; each leaves the list of those left as it is performed, and is early if one that comes first of it for some party is still left;
a returning operation leaves its old value, with a lock operation's success in the high half, to land at the step's end
and seals the task; an entry with no route, to a page that its package refuses, or on a unit that cannot be read is a fault of the
commit, and stays in its place; one whose port retrains waits. The commit of a quantum of any number of gangs, of stores, atomics, reductions, spawns and fences of local memory, applies
them all in that order, lands what returned, clears the pending bits, keeps the reductions until the task ends, and goes on to the
next quantum. Stated with the access counters of R332 off, nothing undone that another party may not find undone, and no step or START
waiting for a word that a write may satisfy.
The model's readings and choices in it: a spawn dropped beyond generation 15, which R242 has dropped and counted, neither seals its task
nor takes a number (notes/assumptions/36.md); a fault record of a commit has FAULTED 0 and the kind `commit`
(notes/assumptions/31.md); writes to host and peer memory are performed at the commit and taken back if refused
(notes/assumptions/32.md); a commit is one move unless the schedule has asked for pieces (notes/assumptions/17.md). -/
def Obligations.CommitsArePerformed : Prop :=
  (∀ gs : List (Nat × Gang), (commitList gs).Pairwise (fun x y => y.2.before x.2 = false) ∧
    (commitList gs).Perm (gs.flatMap (fun (id, g) => g.quantum.map (fun e => (id, e))))) ∧
  (∀ (d size old : Nat), Ret.none.writes size old true = [] ∧ (Ret.scalar d).writes size old true = [.scalar d (w64 old)] ∧
    (∀ ok, (Ret.lock d).writes size old ok = [.scalar d (w64 (old + (if ok = true then 2 ^ 32 else 0)))]) ∧
    (∀ l ok, (Ret.lane d l).writes 4 old ok = [.vector d (BitVec.twoPow 32 l) (List.replicate 32 (w32 old))] ∧
      (Ret.lane d l).writes 8 old ok = [.vector d (BitVec.twoPow 32 l) (List.replicate 32 (w32 old)),
        .vector (d + 1) (BitVec.twoPow 32 l) (List.replicate 32 (w32 (old / 2 ^ 32)))])) ∧
  (∀ (s : State) (k id : Nat) (g : Gang) (e : Entry) (a : Ack), aget s.gangs id = some g → s.acks[k]? = some a → s.calm = true → Settled s →
    s.pkg.softUnits = [] → (∀ p, (s.part p).nthr = 0) →
    let key := memKey g.part e.pa
    let t := (performEntry s k (id, e)).1
    let done := (performEntry s k (id, e)).2
    let taken := s.setAck k { a with pending := a.pending.erase (id, e) }
    let Fails := fun (u : State) => (t, done) = (u.modAck k (fun b =>
      { b with pending := sortBy (fun (x y : Nat × Entry) => x.2.before y.2) (b.pending ++ [(id, e)]) }), false)
    let passes := fun (x : Nat × Entry) => x.2.global && (x.2.before e || a.fences.any (fenceBetween x (id, e)))
    let Quiet := t = { s with
      mem := t.mem, gangs := t.gangs, acks := t.acks, cmds := t.cmds,
      pkg := { s.pkg with badUnits := t.pkg.badUnits, channels := t.pkg.channels, touched := t.pkg.touched, toLink := t.pkg.toLink } } ∧
      (aperture e.pa ≠ 1 → t.acks = s.acks.set k { a with
        pending := a.pending.erase (id, e)
        early := if (a.pending.erase (id, e)).any passes = true then a.early ++ [(id, e)] else a.early })
    let sealedCmds := s.cmds.map (fun x => if x.2.gang = some id then (x.1, { x.2 with sealed := true }) else x)
    (e.awaitsPort s = true → (t, done) = (s, false)) ∧ (e.awaitsPort s = false →
    (e.kind.addressed = true → s.unreachable e.pa = true → Fails (commitFault taken id e .eccUncorr e.pa)) ∧
    (e.kind.addressed = true → s.unreachable e.pa = false → s.refuses e.pa = true → Fails (commitFault taken id e .xlatPerm 0)) ∧
    (s.unreachable e.pa = false → s.refuses e.pa = false →
      (∀ data, e.kind = .store data →
        let torn := (unitsOf key data.length).find? (fun u => s.pkg.badUnits.contains u && !coversUnit key data.length u)
        (torn = none → done = true ∧ Quiet ∧ t.mem = mwriteBytes s.mem key data ∧ t.gangs = s.gangs ∧ t.cmds = s.cmds) ∧
        (∀ u, torn = some u → e.ms = false → Fails (homeFault taken id g.part e (32 * u)))) ∧
      (s.bad key = true → e.ms = false → ((∃ op size v c ret, e.kind = .amo op size v c ret) ∨ ∃ op size v, e.kind = .red op size v) →
        Fails (homeFault taken id g.part e (key / 32 * 32))) ∧
      (s.bad key = false →
        (∀ op size v c ret, e.kind = .amo op size v c ret →
          let old := mreadNat s.mem key size
          let r := amoApply op (8 * size) old v.toNat c.toNat
          done = true ∧ Quiet ∧ t.mem = mwriteNat s.mem key size r.1 ∧ t.cmds = sealedCmds ∧
            t.gangs = aput s.gangs id { g with returns := g.returns ++ ret.writes size old r.2, sealed := true }) ∧
        (∀ op size v, e.kind = .red op size v → done = true ∧ Quiet ∧ t.gangs = s.gangs ∧ t.cmds = s.cmds ∧
          t.mem = mwriteNat s.mem key size (amoApply op (8 * size) (mreadNat s.mem key size) v.toNat 0).1))) ∧
    (∀ adds, e.kind = .hgrad adds → e.ms = false →
      (∀ a ∈ adds, s.unreachable a.2.2.1 = false ∧ s.refuses a.2.2.1 = false ∧ s.bad (memKey g.part a.2.2.1) = false) →
      done = true ∧ t.gangs = s.gangs ∧
        t.mem = (sortBy (fun (a b : Nat × Nat × Nat × W32) => decide (a.1 < b.1)) adds).foldl (fun m a =>
          mwriteNat m (memKey g.part a.2.2.1) 4 (amoApply .faddF32 32 (mreadNat m (memKey g.part a.2.2.1) 4) a.2.2.2.toNat 0).1) s.mem) ∧
    (∀ words, e.kind = .launch words → done = true ∧
      (t.die g.die).launches = (s.die g.die).launches ++ [{ part := g.part, aspace := g.aspace, words := words }] ∧
      t.gangs = aput s.gangs id { g with sealed := true } ∧ t.mem = s.mem ∧ t.cmds = sealedCmds) ∧
    (∀ item, e.kind = .spawn item → done = true ∧ t.mem = s.mem ∧
      (item.generation ≤ 15 → (t.die g.die).spawns = (s.die g.die).spawns ++ [{ item with key := e.key ++ [g.spawned] }] ∧
        aget t.gangs id = some { g with spawned := g.spawned + 1, sealed := true } ∧ t.cmds = sealedCmds) ∧
      (15 < item.generation → t.gangs = s.gangs ∧ t.dies = s.dies ∧
        t.acks[k]? = some { a with pending := a.pending.erase (id, e), answers := a.answers ++ [(tget (0, 0) g.rays 0, 4, 0, 0)] })) ∧
    (∀ n c, e.kind = .command n c → (t, done) = ({ taken with cmds := s.cmds ++ [(n, { c with sealed := g.sealed })] }, true)) ∧
    (∀ list, e.kind = .items list → done = true ∧ (t.die g.die).items = (s.die g.die).items ++ list ∧ t.gangs = s.gangs ∧ t.mem = s.mem) ∧
    (∀ list, e.kind = .answers list → (t, done) = (s.setAck k { a with pending := a.pending.erase (id, e), answers := a.answers ++ list }, true)))) ∧
  (∀ (s : State) (launch crew : Nat) (l : Launch), aget s.launches launch = some l → mayCommit s launch l crew = true →
    octetOthers s l.part = [] → s.pkg.softUnits = [] → s.pkg.badUnits = [] → s.calm = true → Settled s → s.loose = false → s.pkg.toLink = [] →
    let inst := l.instOf (coresOf s l.part) crew
    let gs := (l.instCrews (coresOf s l.part) crew).flatMap (fun c => (crewGangs s launch c).filter (fun x => x.2.inQuantum (l.quantum inst)))
    let all := commitList gs
    let before := fun (m : Memory) (x : Nat × Entry) => mreadNat m (memKey (partOf s x.1) x.2.pa)
    let apply := fun (m : Memory) (x : Nat × Entry) =>
      let key := memKey (partOf s x.1) x.2.pa
      match x.2.kind with
      | .store data => mwriteBytes m key data
      | .amo op size v c _ => mwriteNat m key size (amoApply op (8 * size) (before m x size) v.toNat c.toNat).1
      | .red op size v => mwriteNat m key size (amoApply op (8 * size) (before m x size) v.toNat 0).1
      | _ => m
    let spawns := fun (id : Nat) (es : List (Nat × Entry)) => es.filter (fun x => decide (x.1 = id) && (match x.2.kind with | .spawn _ => true | _ => false))
    let returned := fun (id : Nat) => all.zipIdx.flatMap (fun (x, j) =>
      let m := (all.take j).foldl apply s.mem
      match x.2.kind with
      | .amo op size v c ret =>
        if x.1 = id then ret.writes size (before m x size) (amoApply op (8 * size) (before m x size) v.toNat c.toNat).2 else []
      | _ => [])
    commitHalts s (.new launch inst none) = false → (gs.map (·.1)).Nodup → (∀ x ∈ gs, aget s.gangs x.1 = some x.2) →
    (∀ x ∈ all, (∃ data, x.2.kind = .store data) ∨ (∃ op size v c ret, x.2.kind = .amo op size v c ret) ∨
      (∃ op size v, x.2.kind = .red op size v) ∨ (∃ f sc, x.2.kind = .fence f sc) ∨ (∃ it, x.2.kind = .spawn it ∧ it.generation ≤ 15)) →
    (∀ x ∈ all, x.2.global = true → aperture x.2.pa = 0 ∧ x.2.ms = false) →
    ∃ t, exec (.quantumCommit launch crew) s = .next t ∧ t.mem = all.foldl apply s.mem ∧ t.acks = s.acks ∧ t.cores = s.cores ∧
      (aget t.launches launch).map (fun l => l.quantum inst) = some (l.quantum inst + 1) ∧
      (∀ id g, (id, g) ∈ gs → aget t.gangs id = some (({ g with
        entries := g.kept, returns := g.returns ++ returned id, spawned := g.spawned + (spawns id all).length,
        sealed := g.sealed || all.any (fun x => decide (x.1 = id) && (match x.2.kind with | .spawn _ => true | .amo _ _ _ _ _ => true | _ => false)) } : Gang).landReturns)) ∧
      (∀ id, id ∉ gs.map (·.1) → aget t.gangs id = aget s.gangs id) ∧
      ∀ d, (t.die d).spawns = (s.die d).spawns ++ all.zipIdx.flatMap (fun (x, j) =>
        match x.2.kind, aget s.gangs x.1 with
        | .spawn it, some g => if g.die = d then [{ it with key := x.2.key ++ [g.spawned + (spawns x.1 (all.take j)).length] }] else []
        | _, _ => []))

/-- R21, R23, R161, R260, R262, R264: placing a crew gives it zeroed, thread-owned tiles with clear full bits and one gang for each
of its roles' gangs, as the task's entry leaves it; releasing a crew frees its slots and tiles. -/
def Obligations.CrewsComeAndGo : Prop :=
  ∀ (s : State) (launch c : Nat) (l : Launch), aget s.launches launch = some l →
    (placeable s l c = true → (∀ x ∈ s.gangs, x.1 < s.serial) →
      let core := Launch.coreFor s l c
      let j := c % l.k
      ∃ t, exec (.crewPlacement launch c) s = .next t ∧ t.mem = s.mem ∧
        aget t.crews (crewKeyOf launch c) = some
          { launch := launch, index := c, core := core, position := j, tfirst := l.tile0 + j * l.scratch, tcount := l.scratch,
            cfirst := l.acc0 + j * l.acc, ccount := l.acc, bufs := [] } ∧
        aget t.launches launch = some { l with placed := l.placed ++ [c], again := l.again.filter (· ≠ c) } ∧
        (∀ id, id < s.serial → aget t.gangs id = aget s.gangs id) ∧
        (∀ i role, l.roleList[i]? = some role → ∃ g, aget t.gangs (s.serial + i) = some g ∧ g.core = core ∧ g.slotNo = l.slotOf j i ∧
          g.role = role ∧ g.kind = .launched ∧ g.crewKey = some (crewKeyOf launch c) ∧ g.key = [c, i] ∧ g.vcount = 8 * l.regsOf role ∧
          g.lane = l.laneMask c i ∧ g.a.live = true ∧ g.a.pc = l.entryOf role ∧ g.a.mask = g.lane ∧ g.a.stack = [] ∧ g.a.icnt = 0 ∧
          g.b.live = false ∧ (∀ n, n < 62 → g.readS false n = tget 0 l.consts n) ∧ (∀ n k, g.lane? n k = 0) ∧
          (∀ n, n ≠ 0 → g.readM n = 0) ∧ g.pendS = 0 ∧ g.pendV = 0 ∧ g.vtOwner = 0 ∧ g.replay = 0 ∧ g.detstep = 0 ∧ g.traparg = 0 ∧
          g.phase = .running ∧ g.entries = []) ∧
        (∀ a, 4096 * (l.tile0 + j * l.scratch) ≤ a → a < 4096 * (l.tile0 + j * l.scratch + l.scratch) → mread (t.core core).scratch a = 0) ∧
        (∀ a, 1024 * (l.acc0 + j * l.acc) ≤ a → a < 1024 * (l.acc0 + j * l.acc + l.acc) → mread (t.core core).acc a = 0) ∧
        (∀ n, l.tile0 + j * l.scratch ≤ n → n < l.tile0 + j * l.scratch + l.scratch → n < 192 →
          bit (t.core core).scratchOwn n = false ∧ bit (t.core core).scratchFull n = false) ∧
        (∀ n, l.acc0 + j * l.acc ≤ n → n < l.acc0 + j * l.acc + l.acc → n < 256 → bit (t.core core).accOwn n = false) ∧
        (s.gangs.any (fun x => decide (x.2.core = core) && decide (x.2.launch = launch)) = false → (t.core core).l1 = [])) ∧
    (∀ x, aget s.crews (crewKeyOf launch c) = some x → releasable s launch c l x = true → (s.ctx (spaceKey l.part l.aspace)).torn = false →
      ∃ t, exec (.crewRelease launch c) s = .next t ∧ t.mem = s.mem ∧ t.cores = s.cores ∧
        aget t.crews (crewKeyOf launch c) = none ∧ t.gangs = s.gangs.filter (fun y => y.2.crewKey != some (crewKeyOf launch c)) ∧
        aget t.launches launch = some { l with
          placed := l.placed.filter (· ≠ c), released := if l.again.contains c then l.released else l.released ++ [c] })

/-- R118, R243, R244, R267 to R269: a spawn item becomes a task of one gang with its payload and the launch's constants; lane items
of one entry, instance and generation become a regrouped gang, 32 at a time, or fewer once the unit's time is up.
The model's readings and choices in it: the lanes of a regrouped gang are ordered by coherence key, then task key,
then lane, and it has the first one's identity (notes/assumptions/48.md). -/
def Obligations.DetachedTasks : Prop :=
  ∀ (s : State) (die core slot : Nat), (∀ x ∈ s.gangs, x.1 < s.serial) →
    let d := s.die die
    let Placed := fun (l : Launch) (role : Nat) (lane : W32) (kind : TaskKind) (entry : W64) (g : Gang) =>
      g.core = core ∧ g.slotNo = slot ∧ g.role = role ∧ g.crewKey = none ∧ g.kind = kind ∧ g.vcount = 8 * l.regsOf role ∧ g.lane = lane ∧
      g.a.live = true ∧ g.a.pc = entry ∧ g.a.mask = lane ∧ g.b.live = false ∧ (∀ n, n ≠ 0 → g.readM n = 0) ∧
      (∀ n, 8 ≤ n → n < 16 → g.readS false n = tget 0 l.consts n) ∧ (∀ n, 16 ≤ n → n < 62 → g.readS false n = 0) ∧ g.phase = .running
    (∀ it rest l, d.spawns = it :: rest → aget s.launches it.launch = some l → slotFree s l die core slot it.role = true →
      ∃ t g, exec (.spawnItemPlacement die core slot) s = .next t ∧ t.mem = s.mem ∧ (t.die die).spawns = rest ∧
        aget t.gangs s.serial = some g ∧ Placed l it.role 0xFFFFFFFF .spawned it.entry g ∧ g.generation = it.generation ∧ g.key = it.key ∧
        g.crew = it.ident.crew ∧ g.gangIndex = it.ident.gangIndex ∧
        (∀ n, n < 8 → g.readS false n = tget 0 it.payload n) ∧ (∀ n k, g.lane? n k = 0)) ∧
    (∀ index it l, d.items[index]? = some it → aget s.launches it.launch = some l → slotFree s l die core slot it.role = true →
      let matching := d.items.filter (sameGang s it)
      let taken := sortBy itemBefore (matching.take 32)
      let Made := fun (out : Outcome) => ∃ t g, out = .next t ∧ t.mem = s.mem ∧ (t.die die).items.length + taken.length = d.items.length ∧
        aget t.gangs s.serial = some g ∧ Placed l it.role (w32 (2 ^ taken.length - 1)) it.kind it.entry g ∧ g.origins = taken.map (·.origin) ∧
        ∀ r k x, taken[k]? = some x → r < x.regs.length → g.lane? r k = tget 0 x.regs r
      (32 ≤ matching.length → Made (exec (.regroupedGangIssue die index core slot) s)) ∧
      (matching.length < 32 → exec (.regroupedGangIssue die index core slot) s = .next s) ∧
      Made (exec (.regroupTimeout die index core slot) s))

/-- R254 to R259, R262, R395: from phase 6 on a doorbell sets the producer index and starts a stopped queue; a front end reads the record
at a host queue's consumer index when the class and the context have their turn, judges it, and writes the index back, and takes a
device record in the same way; the first reason that holds rejects a record, with a status record that says so or an event in
Unfort's log, and a record with none becomes a launch with its constants read; a launch whose work is all done completes with its
status record. Stated where nothing is undone that the front end may not find undone, and the tests of what waits find nothing new.
The model's readings and choices in it: an uncorrectable unit or a missing permission at a launch queue stops the queue
(notes/assumptions/46.md); a miss at the constant block rejects a record with REASON 6, and stops the queue of a host record
(notes/assumptions/91.md). -/
def Obligations.LaunchesComeAndGo : Prop :=
  (∀ (s : State) (part aspace cls : Nat) (prod : W32), cls < 4 →
    let c := s.ctx (spaceKey part aspace)
    exec (.launchDoorbell part aspace cls prod) s = .next (if s.pkg.phase ≠ 6 then s
      else if hostHeld s part = true then { s with pkg := { s.pkg with held := s.pkg.held ++ [.bell part aspace cls prod] } }
      else s.setCtx (spaceKey part aspace) (c.setQueue cls { c.queue cls with prod := prod, stopped := false }))) ∧
  (∀ (s : State) (l : Launch) (cls : Option Nat) (pc : Nat → Nat) (ps : Nat) (held : Bool), s.pkg.softUnits = [] → s.calm = true → Settled s →
    let at3 := bits (l.word 3) 56 0
    let who : Access.Who := { part := l.part, aspace := l.aspace, die := l.die, windows := false }
    let reason := if l.reserved = true then 1 else if l.rolesBad = true then 2 else if l.crews = 0 then 3
      else if l.layout = none ∨ coresOf s l.part ≤ bits (l.word 5) 15 8 then 4
      else match l.start with | none => 5 | some d => if d.misaligned || startPerm s l d then 5 else 0
    let why := if reason ≠ 0 then reason else if at3 % 8 ≠ 0 then 6 else if ∃ k, cls = some k ∧ bits (l.word 0) 13 12 ≠ k then 7 else 0
    let rejected := fun (n : Nat) => ({ s with pkg := { s.pkg with log := s.pkg.log ++ [LogEntry.rejected l.part l.aspace n] } }, true)
    (reason = 0 → at3 ≠ 0 → l.status = 0 → at3 % 8 = 0 → Refused s who at3 .read → judgeRecord s l cls = rejected 6) ∧
    (reason = 0 → at3 ≠ 0 → l.status = 0 → at3 % 8 = 0 → Absent s who at3 → judgeRecord s l cls = ((match cls with
      | some k =>
        let key := spaceKey l.part l.aspace
        ((rejected 6).1.setCtx key ((s.ctx key).setQueue k { (s.ctx key).queue k with stopped := true })).logEvent (.queueStopped l.part l.aspace k)
      | none => (rejected 6).1), true)) ∧
    ((at3 = 0 ∨ at3 % 8 ≠ 0 ∨ ∀ j, j < 16 → AtHome s who (at3 + 8 * j) 8 .read (pc j)) →
    (∀ d, l.start = some d → (d.site = none ∧ held = true) ∨ ∃ va n pa, d.site = some (va, n) ∧ AtHome s who va n .read pa ∧
      held = d.admits (mreadNat s.mem (memKey l.part pa) n)) →
    (l.status = 0 ∨ AtHome s who l.status 16 .write ps → why = 0 → ∀ k, l.layout = some k → judgeRecord s l cls =
      ({ s with serial := s.serial + 1, launches := aput s.launches s.serial { l with
          k := k, started := held,
          consts := if at3 = 0 then [] else (List.range 16).map (fun j => w64 (mreadNat s.mem (memKey l.part (pc j)) 8)) } }, true)) ∧
    (l.status = 0 → why ≠ 0 → judgeRecord s l cls = rejected why) ∧
    (l.status ≠ 0 → AtHome s who l.status 16 .write ps → why ≠ 0 → judgeRecord s l cls =
      ({ s with mem := mwriteBytes s.mem (memKey l.part ps) (statusWords (bits (l.word 7) 15 0) why 4 0 0) }, true)) ∧
    (l.status ≠ 0 → Refused s who l.status .write → judgeRecord s l cls = rejected (if why = 0 then 8 else why)))) ∧
  (∀ (s : State) (part aspace cls pr pw : Nat) (words : List W64) (t : State), cls < 4 → s.pkg.softUnits = [] → s.calm = true →
    let key := spaceKey part aspace
    let q := (s.ctx key).queue cls
    let who : Access.Who := { part := part, aspace := aspace, die := part, windows := false }
    let record := q.base + 128 * (q.cons.toNat % 2 ^ q.logSize)
    let turn := nextTurn s part cls = some aspace ∧ ∀ k, cls < k → k < 4 → classWaits s part part k = false
    (¬turn → exec (.launchRecordAcceptance part (.host aspace cls)) s = .next s) ∧
    (turn → q.owed = false → AtHome s who record 128 .read pr → words.length = 16 → wordBytes words = mreadBytes s.mem (memKey part pr) 128 →
      judgeRecord s (newLaunch part aspace part words) (some cls) = (t, true) → AtHome t who q.consAddr 8 .write pw → t.pkg.softUnits = [] →
      t.pkg.sceneWrites = [] → t.calm = true →
      let taken := (t.setPart part { t.part part with turns := aput (t.part part).turns cls aspace }).setCtx key
        ((t.ctx key).setQueue cls { (t.ctx key).queue cls with cons := q.cons + 1, owed := true })
      let written := { taken with mem := mwriteBytes t.mem (memKey part pw) (toBytes 8 (q.cons + 1).toNat) }
      testSteps written = written →
      ∃ u, exec (.launchRecordAcceptance part (.host aspace cls)) s = .next u ∧ u.launches = t.launches ∧ u.pkg = t.pkg ∧ u.gangs = t.gangs ∧
        u.mem = mwriteBytes t.mem (memKey part pw) (toBytes 8 (q.cons + 1).toNat) ∧
        (u.ctx key).queue cls = { (t.ctx key).queue cls with cons := q.cons + 1, owed := false } ∧ aget (u.part part).turns cls = some aspace) ∧
    (turn → q.owed = false → Absent s who record → exec (.launchRecordAcceptance part (.host aspace cls)) s =
      .next ((s.setCtx key ((s.ctx key).setQueue cls { q with stopped := true })).logEvent (.queueStopped part aspace cls)))) ∧
  (∀ (s t : State) (die i : Nat) (d : DeviceLaunch),
    ([3, 2, 1, 0].find? (classWaits s d.part die)).bind (deviceHead s die) = some (i, d) →
    judgeRecord s (newLaunch d.part d.aspace die d.words) none = (t, true) →
    exec (.launchRecordAcceptance d.part (.device die)) s = .next
      (t.setDie die { t.die die with launches := (t.die die).launches.eraseIdx i })) ∧
  (∀ (s : State) (launch ps : Nat) (l : Launch), aget s.launches launch = some l → launchOver s launch l = true → s.pkg.softUnits = [] → s.calm = true → Settled s →
    let who : Access.Who := { part := l.part, aspace := l.aspace, die := l.die, windows := false }
    let Over := fun (mem : Memory) (log : List LogEntry) => ∃ t, exec (.launchCompletion launch) s = .next t ∧ t.mem = mem ∧ t.gangs = s.gangs ∧
      t.cores = s.cores ∧ t.pkg = { s.pkg with log := log } ∧ aget t.launches launch = none ∧ ∀ n, n ≠ launch → aget t.launches n = aget s.launches n
    (l.status = 0 → Over s.mem s.pkg.log) ∧
    (l.status ≠ 0 → AtHome s who l.status 16 .write ps →
      Over (mwriteBytes s.mem (memKey l.part ps) (statusWords (bits (l.word 7) 15 0) 0 4 l.crews 0)) s.pkg.log) ∧
    (l.status ≠ 0 → Refused s who l.status .write → Over s.mem (s.pkg.log ++ [.statusLost l.part l.aspace (bits (l.word 7) 15 0)])))

/-- R202, R280 to R285: a pre-emption request and a resume, each ignored when out of turn and before bring-up phase 6; the judgement of a discard group, which
is discarded, its gangs ended with nothing of theirs committed, or held; the end of a request; and the pre-emption points of a started
sparse operation, at the next of which a discarded one goes while 256 pairs or more are left there, with ISSUED only rising up to TOTAL.
The model's readings and choices in it: a pre-emption request is complete when no crew, task or queued
item of the context is left, detached ones included (notes/assumptions/49.md). -/
def Obligations.Preemption : Prop :=
  (∀ (s : State) (part aspace : Nat),
    let key := spaceKey part aspace
    let c := s.ctx key
    exec (.preemptionRequest part aspace) s = .next (if c.preBusy = true ∨ c.preOff = true ∨ s.pkg.phase ≠ 6 then s
      else s.setCtx key { c with preBusy := true, preHeld := 0, preDisc := 0, heldGroups := [] }) ∧
    exec (.preemptionResume part aspace) s = .next (if c.preOff = true ∧ c.preBusy = false ∧ s.pkg.phase = 6
      then s.setCtx key { c with preOff := false } else s) ∧
    exec (.preemptionCompletion part aspace) s = .next (if c.preBusy = true ∧ contextPlaced s key = false
      then s.setCtx key { c with preBusy := false, preOff := true, heldGroups := [] } else s)) ∧
  (∀ (s : State) (launch crew : Nat) (l : Launch), aget s.launches launch = some l → crew ∈ l.placed →
    let key := spaceKey l.part l.aspace
    let c := s.ctx key
    let crews := groupCrews s l crew
    c.preBusy = true → c.heldGroups = [] → l.again = [] → groupCommitting s launch l crew = false → (s.part l.part).asserted = false →
    (discardable s launch l crew = false → exec (.discardGroupJudgement launch crew) s =
      .next (s.setCtx key { c with preHeld := min 0xFFFF (c.preHeld + 1), heldGroups := [(launch, crew)] })) ∧
    (discardable s launch l crew = true → ∃ t, exec (.discardGroupJudgement launch crew) s = .next t ∧ t.mem = s.mem ∧ t.dies = s.dies ∧
      (t.ctx key).preDisc = min 0xFFFF (c.preDisc + 1) ∧ (t.ctx key).preHeld = c.preHeld ∧
      (∀ id g, aget s.gangs id = some g → aget t.gangs id = some (if crews.any (fun x => g.crewKey == some (crewKeyOf launch x)) = true then g.discard else g)) ∧
      (∃ l', aget t.launches launch = some l' ∧ l'.again = crews ∧ l'.placed = l.placed ∧ l'.released = l.released))) ∧
  (∀ (s : State) (core k : Nat) (o : MatOp), (s.core core).ops[k]? = some o → o.started = true → arrayStops s core = false →
    let C := s.core core
    let p := (o.issued / 64 + 1) * 64
    (p < o.total → exec (.preemptionPoint core k) s = .next (s.setCore core { C with
      ops := if o.stopping = true then C.ops.eraseIdx k else C.ops.set k { o with issued := p } })) ∧
    (o.total ≤ p → exec (.preemptionPoint core k) s = .next s) ∧
    (o.stopping = true → p < o.total → 256 ≤ o.total - p → exec (.matrixOperationCompletion core k) s = .next s) ∧
    ∀ n, ∃ j, arrayIssues s core k n = s.setCore core { C with ops := C.ops.set k { o with issued := j } } ∧ o.issued ≤ j ∧
      (o.issued ≤ o.total → j ≤ o.total) ∧ (o.stopping = true → p < o.total → 256 ≤ o.total - p → j < p))

/-- R179, R198, R202, R214, R215, R218 to R224, R401 to R403, R407: the array starts its operations in order, and one with no element is
over at once; a copy that is next at its engine takes its buffer's slot or its stash slot, and starts, or ends with CODE 1 if a tile it
touches is thread-owned, with CODE 2 if its policy says so; a started copy moves its elements from the first unfinished one to the
last, each read at its source, converted and written at its place, ends with CODE 3 on an uncorrectable source, with CODE 1 on a row
that the index list places in a thread-owned tile, and parks on a page that is not resident; an element beyond the valid rows or columns
is the code of +0; one of the same type with no scale is copied bit by bit, and any other is its exact value, times the exact scale,
rounded once, clamped to an integer type or saturated where SAT says so; then a follow-on issues, and the status record, the full bit, the slot and the flip follow; a marker ends after
the commands it covers. Stated where nothing is undone that the engine may not find undone, and no step or START waits for a word.
The model's readings and choices in it: the DONE of a cpyg with no column is its number of rows
(notes/assumptions/39.md); a copy takes its place in the stash before the other checks of its start (notes/assumptions/90.md). -/
def Obligations.CopiesComplete : Prop :=
  (∀ (s : State) (core k : Nat) (o : MatOp), (s.core core).ops[k]? = some o → o.started = false →
    (∀ p ∈ (s.core core).ops.take k, p.started = true) → arrayStops s core = false →
    let total := match o.word with | .sparse _ => opPairs o | _ => 0
    let C := s.core core
    exec (.matrixOperationStart core) s = .next (s.setCore core { C with ops :=
      if o.becalm = false ∧ (o.em = 0 ∨ o.en = 0) ∧ o.word ≠ .zero then C.ops.eraseIdx k else C.ops.set k { o with started := true, total := total } })) ∧
  (∀ (s : State) (n pa : Nat) (c : Command), aget s.cmds n = some c → (c.kind = .cpy ∨ c.kind = .cpyg) → c.parked = false →
    (s.part c.part).asserted = false → s.pkg.softUnits = [] → s.pkg.sceneWrites = [] → s.calm = true → Settled s →
    let gather := c.kind = .cpyg ∧ isWindow (c.word 0).toNat = true
    let listAt := c.field 6 56 0
    (∀ pi : Nat → Nat, (gather → ∀ r, r < c.rows → AtHome s c.who (listAt + 4 * r) 4 .read (pi r)) →
      let Checked := fun (t : State) (d : Command) (out : Outcome) =>
        let e := if gather then { d with index := (List.range c.rows).map (fun r => w32 (mreadNat t.mem (memKey c.part (pi r)) 4)) } else d
        (startCheck t e = some 0 → out = .next (t.setCmd n { e with started := true })) ∧
        (startCheck t e = some 1 → out = .next (t.setCmd n { e with started := true, landed := true, code := 1 }))
      let Tries := fun (out : Outcome) => ∀ k po, c.stashSlot s = some k → AtHome s c.who (occupancyAddress s c k) 4 .write po →
        (gather → ∀ r, r < c.rows → memKey c.part (pi r) + 4 ≤ memKey c.part po ∨ memKey c.part po + 4 ≤ memKey c.part (pi r)) →
        let v := mreadNat s.mem (memKey c.part po) 4
        let sen := bit (s.ctxOf c).stashSpill 0
        let put := fun (v : Nat) => { s with mem := mwriteNat s.mem (memKey c.part po) 4 v }
        let waits := c.stash = .waiting ∧ c.discarded = true
        let ended := out = .next (s.setCmd n { c with started := true, landed := true, code := 2, stash := .none })
        (waits → ended) ∧
        (¬waits → v % 2 = 0 → Checked (put (v + 1)) { c with stash := .primary } out) ∧
        (¬waits → v % 2 = 1 → c.fullPol = 2 → ended) ∧
        (¬waits → v % 2 = 1 → c.fullPol = 1 → sen = true → v / 2 % 2 = 0 → Checked (put (v + 2)) { c with stash := .second } out) ∧
        (¬waits → v % 2 = 1 → c.fullPol ≠ 2 → (c.fullPol ≠ 1 ∨ sen = false ∨ v / 2 % 2 = 1) →
          if c.discarded = true then ended else out = .next (s.setCmd n { c with started := true, stash := .waiting }))
      (c.started = true ∨ earlierUnstarted s c.core n = true → exec (.copyCommandStart c.core n) s = .next s) ∧
      (c.started = false → earlierUnstarted s c.core n = false → c.stash = .none →
        (c.adv = false → c.stashSlot s = none → Checked s c (exec (.copyCommandStart c.core n) s)) ∧
        (c.adv = false → Tries (exec (.copyCommandStart c.core n) s)) ∧
        (∀ key x, c.adv = true → c.slot = none → c.crewKey = some key → aget s.crews key = some x →
          let b := x.buf c.buf
          let fails := c.fullPol = 2 ∨ c.discarded = true
          (b.free = 0 → fails → exec (.copyCommandStart c.core n) s = .next (s.setCmd n { c with started := true, landed := true, code := 2 })) ∧
          (b.free = 0 → ¬fails → exec (.copyCommandStart c.core n) s = .next s) ∧
          (0 < b.free → c.stashSlot s = none →
            Checked { s with crews := aput s.crews key (x.setBuf c.buf { b with free := b.free - 1, widx := (b.widx + 1) % b.slots }) }
              { c with slot := some b.widx } (exec (.copyCommandStart c.core n) s)))) ∧
      (c.started = true → c.stash = .waiting → Tries (exec (.stashOccupancyRetry c.core n) s))) ∧
    (c.started = true → c.landed = true → c.stash ≠ .waiting → StatusAt s c pa →
      CopyEnds s n c c.code (copyDone c) pa (exec (.copyCompletion c.core n) s)) ∧
    (c.started = true → c.landed = true → c.stash ≠ .waiting → c.field 7 63 16 ≠ 0 → Absent s c.who (c.field 7 63 16 * 16) →
      ringReachable (s.part c.part) (s.part c.part).fltBase = true → queueFull (s.part c.part) = false → (s.die c.die).hold = [] →
      ∃ t, exec (.copyCompletion c.core n) s = .next t ∧ CommandParks s n c .engWrite (c.field 7 63 16 * 16) t) ∧
    (∀ (pi : Nat → Nat) (srcAt dst : Nat → Site), c.started = true → c.landed = false → c.stash ≠ .waiting →
      let N := c.rows * c.cols
      let row := fun (k : Nat) => k / c.cols
      let col := fun (k : Nat) => k % c.cols
      let place := fun (k : Nat) => if c.trans = true then (col k, row k) else (row k, col k)
      let index := fun (r : Nat) => if gather then (tget 0 c.index r).toNat else mreadNat s.mem (memKey c.part (pi r)) 4
      let padded := fun (k : Nat) => c.field 4 15 0 ≤ row k ∨ c.field 4 31 16 ≤ col k ∨ (c.kind = .cpyg ∧ index (row k) = 0xFFFFFFFF)
      let from_ := fun (k : Nat) => ((((c.word 0).toNat + (if c.kind = .cpyg then index (row k) else row k) * c.field 3 31 0) % 2 ^ 64) +
        col k * codeWidth c.sty / 8) % 2 ^ 64
      let offset := fun (k : Nat) => (place k).1 * c.field 3 63 32 + (place k).2 * codeWidth c.dty / 8
      let Reads := fun (k : Nat) => (c.kind = .cpyg → ¬gather → row k < c.field 4 15 0 → AtHome s c.who (listAt + 4 * row k) 4 .read (pi (row k)) ∧
          ∀ j pd b, dst j = .home c.part pd b → memKey c.part pd + elemBytes c.dty ≤ memKey c.part (pi (row k)) ∨ memKey c.part (pi (row k)) + 4 ≤ memKey c.part pd) ∧
        (¬padded k → Served s c.who (from_ k) (elemBytes c.sty) .read (srcAt k) ∧
          (c.kind = .cpyg → ¬gather → threadOwned s c (from_ k) (elemBytes c.sty) = false))
      let Writes := fun (k : Nat) => match copyDest s c with
        | .inr (core, o) => dst k = .scratch core (o + offset k)
        | .inl va => Served s c.who ((va + offset k) % 2 ^ 64) (elemBytes c.dty) .write (dst k)
      let value := fun (t : State) (k : Nat) =>
        let old := ofBytes (bytesAt t (srcAt k) (elemBytes c.sty))
        if padded k then 0
        else convElem c (copyDraw c (row k) (col k)) (if codeWidth c.sty = 4 then old / 2 ^ (4 * (col k % 2)) % 16 else old)
      let moved := fun (m : Nat) => (List.range m).foldl (fun t j =>
        let k := c.progress + j
        let y := value t k
        putAt t (dst k) (if codeWidth c.dty = 4 then
            (let old := ofBytes (bytesAt t (dst k) 1)
             toBytes 1 (if (place k).2 % 2 = 0 then old / 16 * 16 + y else old % 16 + y * 16))
          else toBytes (codeWidth c.dty / 8) y)) s
      let done := fun (k : Nat) => { c with progress := k, landed := true }
      let All := fun (m : Nat) => ∀ k, c.progress ≤ k → k < m → Reads k ∧ Writes k
      (All N → c.progress ≤ N → ∀ m, copyMoves s c.core n m =
        (moved (min m (N - c.progress))).setCmd n { c with progress := c.progress + min m (N - c.progress) }) ∧
      (All N → c.progress ≤ N → c.follow = false → StatusAt s c pa → c.code = 0 →
        CopyEnds (moved (N - c.progress)) n c 0 (copyDone (done N)) pa (exec (.copyCompletion c.core n) s)) ∧
      (∀ id g f, All N → c.progress ≤ N → c.follow = true → c.kind = .cpy → StatusAt s c pa → c.code = 0 → c.discarded = false → c.gang = some id →
        aget (moved (N - c.progress)).gangs id = some g → followFunc c.mword = some f →
        let t := moved (N - c.progress)
        let o := followOp c.mword
        (tileOwned t g (.acc, o.c.toNat) = true → CopyEnds t n c 1 N pa (exec (.copyCompletion c.core n) s)) ∧
        (tileOwned t g (.acc, o.c.toNat) = false → arrayFull t g.core = true →
          exec (.copyCompletion c.core n) s = .next (t.setCmd n { c with progress := N })) ∧
        (tileOwned t g (.acc, o.c.toNat) = false → arrayFull t g.core = false →
          ∃ op, CopyEnds { t.setCore g.core { t.core g.core with ops := (t.core g.core).ops ++ [op] } with serial := t.serial + 1 } n c 0 N pa
              (exec (.copyCompletion c.core n) s) ∧
            op.gang = some id ∧ op.batch = c.batch ∧ op.word = .dense f ∧ op.c = t.physAcc g o.c.toNat ∧ op.na = o.na ∧ op.nb = o.nb ∧ op.zc = o.zc ∧
            op.a = fragment g o.va ∧ op.b = fragment g o.vb ∧ op.sat = false ∧ op.started = false ∧
            (o.ext = true → op.em = c.field 6 39 32 ∧ op.en = c.field 6 47 40 ∧ op.ek = c.field 6 55 48) ∧ (o.ext = false → op.em = 16 ∧ op.en = 16))) ∧
      (All N → c.progress ≤ N → c.follow = true → c.kind = .cpy → c.discarded = true → StatusAt s c pa → c.code = 0 →
        CopyEnds (moved (N - c.progress)) n c 0 N pa (exec (.copyCompletion c.core n) s)) ∧
      (∀ k pb u, c.progress ≤ k → k < N → All k → ¬padded k → (c.kind = .cpy ∨ gather) →
        let t := moved (k - c.progress)
        AtHome t c.who (from_ k) 0 .read pb → t.badUnit (memKey c.part pb) (elemBytes c.sty) = some u → isWindow (from_ k) = false →
        StatusAt s c pa → CopyEnds (logUnit t c.part u) n c 3 (copyDone (done k)) pa (exec (.copyCompletion c.core n) s)) ∧
      (∀ k, c.progress ≤ k → k < N → All k → c.kind = .cpyg → ¬gather → ¬padded k → threadOwned s c (from_ k) (elemBytes c.sty) = true →
        AtHome s c.who (listAt + 4 * row k) 4 .read (pi (row k)) →
        (∀ i j pd b, c.progress ≤ i → i < k → dst i = .home c.part pd b → j < 4 →
          memKey c.part (pi (row k)) + j < memKey c.part pd ∨ memKey c.part pd + elemBytes c.dty ≤ memKey c.part (pi (row k)) + j) →
        exec (.copyCompletion c.core n) s = .next ((moved (k - c.progress)).setCmd n { c with progress := k, landed := true, code := 1 })) ∧
      (∀ k va kind, c.progress ≤ k → k < N → All k →
        let t := moved (k - c.progress)
        (kind = .engRead ∧ ¬padded k ∧ (c.kind = .cpy ∨ gather) ∧ va = from_ k ∨
          kind = .engWrite ∧ Reads k ∧ ∃ base, copyDest s c = .inl base ∧ va = (base + offset k) % 2 ^ 64) →
        Absent t c.who va → ringReachable (t.part c.part) (t.part c.part).fltBase = true → queueFull (t.part c.part) = false → (t.die c.die).hold = [] →
        ∃ u, exec (.copyCompletion c.core n) s = .next u ∧ CommandParks t n { c with progress := k } kind va u)) ∧
    (copyDest s c = match c.slot, c.crewKey.bind (aget s.crews) with
      | some v, some x => .inr (c.core, 4096 * (x.tfirst + (x.buf c.buf).first + v * (x.buf c.buf).span) + c.field 1 15 0)
      | _, _ => match c.stash, c.stashSlot s with
        | .second, some _ => .inl (bits (s.ctxOf c).stashSpill 56 12 * 4096 + ((c.word 1).toNat - (stashOf (s.ctxOf c)).1))
        | _, _ => .inl (c.word 1).toNat)) ∧
  (∀ (c : Command) (draw b : Nat),
    let w := codeWidth c.dty
    let rm := Rnd.of (c.field 2 52 50)
    let sat := bit (c.word 2) 49
    let value := match codeVal c.sty b with | .int n => FVal.ofInt n | .float _ v => v
    let x := if c.scale = 0 then value else value.mul (fF32.val c.scale)
    let y := convElem c draw b
    (c.sty = c.dty → c.scale = 0 → y = b % 2 ^ w) ∧
    (¬(c.sty = c.dty ∧ c.scale = 0) →
      (isIntCode c.dty = true →
        (∀ n, codeVal c.sty b = .int n → c.scale = 0 → y = wrapTo w (if sat = true then clampInt w (c.dty % 2 = 1) n else n)) ∧
        ((c.scale ≠ 0 ∨ ∀ n, codeVal c.sty b ≠ .int n) → y = wrapTo w (x.toInt rm draw w (c.dty % 2 = 1)))) ∧
      (c.dty = 0x17 → y = roundE8M0 x rm sat draw) ∧
      (∀ f, ((c.dty, f) = (0x10, fF16) ∨ (c.dty, f) = (0x11, fBF16) ∨ (c.dty, f) = (0x12, fF32) ∨ (c.dty, f) = (0x14, fE4M3) ∨ (c.dty, f) = (0x15, fE5M2)) →
        ((∀ neg, x ≠ .inf neg) → y = x.round f rm sat draw) ∧
        (∀ neg, x = .inf neg → (c.scale ≠ 0 ∨ w ≤ codeWidth c.sty) → y = overflowCode f rm sat neg) ∧
        (∀ neg, x = .inf neg → c.scale = 0 → codeWidth c.sty < w → y = (if neg then f.signBit else 0) + f.infCode) ∧
        ∀ neg, overflowCode f rm true neg = (if neg then f.signBit else 0) + f.maxCode))) ∧
  (∀ (s t : Bool) (m n : Nat) (e k : Int), FVal.mul (.fin s m e) (.fin t n k) = .fin (s != t) (m * n) (e + k)) ∧
  (∀ (c : Command) (row col : Nat), c.field 2 52 50 = 5 → copyDraw c row col = rsrBits c.seed (w64 (row * 2 ^ 16 + col)) c.icnt 0x80) ∧
  (∀ (s : State) (n pa : Nat) (c : Command), aget s.cmds n = some c → c.kind = .cpyst → c.parked = false → (s.part c.part).asserted = false →
    s.pkg.softUnits = [] → s.calm = true → Settled s → StatusAt s c pa →
    let copies := c.covered.filter (fun m => !s.markers.contains m)
    (c.covered.any (stillThere s) = true → exec (.cpystCompletion c.core n) s = .next s) ∧
    (c.covered.any (stillThere s) = false → exec (.cpystCompletion c.core n) s = .next
      { (if c.fullEn = true then setFull s c.core c.fullT true else s) with
        mem := withStatus s c pa 0 copies.length (copies.filter (fun m => s.failed.contains m)).length
        markers := s.markers ++ [n], cmds := adel s.cmds n }))

/-- R225 to R227, R236, R238 to R240, R245, R247, R391, R392: the first sort of a die runs and leaves its pairs in the order of their keys,
each format's as R226 has it, a range command a table of each tile's run; rays that have ended leave their hit records, and a triangle its
coverage, in the register tile, which the threads own again; a piece of a traversal visits a node or a leaf, enters an instance, tests a
triangle and considers a candidate, or ends the ray; a pixel is covered as its edges say; a collective starts, completes, or withdraws, its
elements reduced over the tree of R247, and a re-send repeats what its original wrote and starts nothing. Exact values stand as integers,
multiples of 2^-149. Stated where nothing is undone that a unit may not find undone, and no step or START waits for a word.
The model's readings and choices in it: BITS of sortr is its five bits as they stand, and 0 is ILLEGAL_OP
(notes/assumptions/40.md); details of the intersection unit that R236 to R242 and R386 to R388 leave to a reading
(notes/assumptions/50.md); a group entry of more than 64 members is malformed, and a malformed or not listed member
ends without waiting (notes/assumptions/52.md); what members of other packages have sent comes with the event, and of the ends
found at a start the first in a fixed order is given (notes/assumptions/92.md); a command is a re-send when its eight words and its context
are those of a command whose task was discarded (notes/assumptions/53.md). -/
def Obligations.EnginesComplete : Prop :=
  (∀ (s : State) (n : Nat) (c : Command), aget s.cmds n = some c → c.parked = false → (s.part c.part).asserted = false →
    (∀ rest, sortCommands s c.die = (n, c) :: rest → c.started = false →
      exec (.sortCommandStart c.die) s = .next (s.setCmd n { c with started := true })) ∧
    (∀ rest (ps : Nat) (kr kw pr pw tp : Nat → Nat), sortCommands s c.die = (n, c) :: rest → c.started = true → (c.kind = .sort ∨ c.kind = .sortr) →
      s.pkg.softUnits = [] → s.pkg.sceneWrites = [] → s.calm = true → Settled s → StatusAt s c ps →
      let out := exec (.sortCommandCompletion c.die) s
      let key := fun (pa : Nat) => memKey c.part pa
      let status := if c.field 7 63 16 = 0 then [] else [(key ps, 16)]
      let Told := fun (code done aux : Nat) (m : Memory) =>
        c.field 7 63 16 ≠ 0 → mreadBytes m (key ps) 16 = statusWords (c.field 7 15 0) code 2 done aux
      let count := if c.kind = .sort then c.sortCount else c.field 2 31 0
      let keyAt := fun (j : Nat) => (c.word 0).toNat + 8 * j
      let keys := (List.range count).map (fun j => mreadNat s.mem (key (kr j)) 8)
      let fresh := c.landed = false ∧ c.progress = 0 ∧ c.code = 0 ∧ c.index = [] ∧ c.data = []
      (c.landed = true → CommandEnds s n c (if c.code = 0 then sortFull c else none)
        (fun m => m = withStatus s c ps c.code (if c.code = 0 then (if c.kind = .sort then count else c.sortTiles) else c.progress)
          (if c.kind = .sort then 0 else ofBytes c.data % 2 ^ 64)) out) ∧
      (fresh → c.kind = .sort →
        let pay := bit (c.word 4) 50
        (∀ j, j < count → AtHome s c.who (keyAt j) 8 .read (kr j) ∧ AtHome s c.who ((c.word 2).toNat + 8 * j) 8 .write (kw j) ∧
          (pay = true → AtHome s c.who ((c.word 1).toNat + 4 * j) 4 .read (pr j) ∧ AtHome s c.who ((c.word 3).toNat + 4 * j) 4 .write (pw j))) →
        (∀ j, j < 3 * count → AtHome s c.who ((c.word 5).toNat + 4 * j) 4 .write (tp j)) →
        let written := (List.range count).map (fun j => (key (kw j), 8)) ++ (if pay = true then (List.range count).map (fun j => (key (pw j), 4)) else []) ++
          (List.range (3 * count)).map (fun j => (key (tp j), 4)) ++ status
        Apart written →
        let pairs := (List.range count).map (fun j => (tget 0 keys j, if pay = true then mreadNat s.mem (key (pr j)) 4 else 0))
        ∃ sorted : List (Nat × Nat), sorted.Perm pairs ∧ sorted.Pairwise (fun a b => sortField c a.1 ≤ sortField c b.1) ∧
          (∀ f, sorted.filter (fun x => sortField c x.1 == f) = pairs.filter (fun x => sortField c x.1 == f)) ∧
          CommandEnds s n c (sortFull c) (fun m => OnlyAt written s.mem m ∧ Told 0 count 0 m ∧
            ∀ j, j < count → mreadNat m (key (kw j)) 8 = (tget (0, 0) sorted j).1 ∧
              (pay = true → mreadNat m (key (pw j)) 4 = (tget (0, 0) sorted j).2)) out) ∧
      (fresh → c.kind = .sortr → (∀ j, j < count → AtHome s c.who (keyAt j) 8 .read (kr j)) →
        (∀ j, j < c.sortTiles → AtHome s c.who ((c.word 1).toNat + 8 * j) 8 .write (kw j)) →
        let written := (List.range c.sortTiles).map (fun j => (key (kw j), 8)) ++ status
        Apart written →
        let beyond := (keys.filter (fun k => decide (c.sortTiles ≤ k / 2 ^ c.field 3 37 32 % 2 ^ c.field 3 44 40))).length
        CommandEnds s n c (sortFull c) (fun m => OnlyAt written s.mem m ∧ Told 0 c.sortTiles beyond m ∧
          ∀ j, j < c.sortTiles → mreadNat m (key (kw j)) 4 = (tget (0, 0) (rangeTable c keys).1 j).1 ∧
            mreadNat m (key (kw j) + 4) 4 = (tget (0, 0) (rangeTable c keys).1 j).2) out) ∧
      (∀ j u, fresh → j < count → (∀ i, i < j → AtHome s c.who (keyAt i) 8 .read (kr i)) → AtHome s c.who (keyAt j) 0 .read (kr j) →
        s.badUnit (key (kr j)) 8 = some u →
        CommandEnds s n c none (fun m => m = withStatus s c ps 3 0 0) out) ∧
      (∀ j, fresh → j < count → (∀ i, i < j → AtHome s c.who (keyAt i) 8 .read (kr i)) → Absent s c.who (keyAt j) →
        ringReachable (s.part c.part) (s.part c.part).fltBase = true → queueFull (s.part c.part) = false → (s.die c.die).hold = [] →
        ∃ t, out = .next t ∧ CommandParks s n c .engRead (keyAt j) t)) ∧
    (∀ id g v, aget s.gangs id = some g → c.gang = some id → c.slot = some v → v < 16 →
      let Kept := fun (h : Gang) => (∀ k, k < 16 → bit h.vtOwner k = (decide (k ≠ v) && bit g.vtOwner k)) ∧
        h = { g with v := h.v, vtOwner := h.vtOwner }
      (c.kind = .rast → ∃ t h, exec (.rastCompletion n) s = .next t ∧ t.mem = s.mem ∧ aget t.cmds n = none ∧ aget t.gangs id = some h ∧ Kept h ∧
        ∀ j l, l < 32 → h.lane? j l = if 8 * v ≤ j ∧ j < 8 * v + 8 then tget 0 (coverWords c (j - 8 * v)) l else g.lane? j l) ∧
      (c.kind = .trace → c.rays.all (fun r => r.wait == .ended) = true → (c.rays.map (·.lane)).Nodup → (∀ r ∈ c.rays, r.lane < 32) →
        s.answers.all (fun a => decide (a.1.1 ≠ n)) = true → (s.ctx (spaceKey c.part c.aspace)).torn = false →
        ∃ t h, exec (.traceCompletion n) s = .next t ∧ t.mem = s.mem ∧ aget t.cmds n = none ∧ aget t.gangs id = some h ∧ Kept h ∧
          (∀ r ∈ c.rays, ∀ j, j < 8 → h.lane? (8 * v + j) r.lane = tget 0 (r.record r.best r.code) j) ∧
          (∀ j l, l < 32 → (j < 8 * v ∨ 8 * v + 8 ≤ j ∨ ∀ r ∈ c.rays, r.lane ≠ l) → h.lane? j l = g.lane? j l))) ∧
    (c.kind = .coll → s.pkg.softUnits = [] → s.pkg.sceneWrites = [] → s.calm = true → Settled s → ∀ (pe ps : Nat) (pr pw : Nat → Nat) (peers : List CollPeer),
      let me := (s.pkg.number, c.part)
      let size := collBytes c
      let Ended := fun (code : Nat) (out : Outcome) => ∃ t x, out = .next t ∧ t.mem = s.mem ∧ t.gangs = s.gangs ∧ aget t.cmds n = some x ∧ x.landed = true ∧
        x.parked = false ∧ x.code = code ∧ x.data = c.data.take (size * c.progress) ∧ x.words = c.words ∧ ∀ m, m ≠ n → aget t.cmds m = aget s.cmds m
      let alone := collsAt s c.part c.collGroup c.collSeq = [(n, c)] ∧ ∀ p, p < 4 → p ≠ c.part → collsAt s p c.collGroup c.collSeq = []
      (alone → c.started = false → c.entry = [] → AtHome s c.who (groupAddress s c) 128 .read pe →
        let bs := mreadBytes s.mem (memKey c.part pe) 128
        let out := exec (.collInstanceStart c.part c.collGroup c.collSeq peers) s
        (groupMembers bs = none → Ended 5 out) ∧
        (∀ ms, groupMembers bs = some ms → me ∉ ms → Ended 4 out) ∧
        (∀ ms, groupMembers bs = some ms → me ∈ ms →
          let others := ms.filter (· ≠ me)
          let reused := openHere s c.part c.collGroup c.collSeq = true ∨ peers.any (·.second) = true
          let sent := (∀ m ∈ others, m.1 ≠ s.pkg.number ∧ (peers.filter (fun p => decide ((p.package, p.part) = m))).length = 1) ∧
            ∀ p ∈ peers, (p.package, p.part) ∈ ms
          let agree := peers.all (fun p => p.digestOk && p.w2 == c.word 2) = true ∧ (c.collOp = 1 → c.collCount % ms.length = 0)
          (reused → Ended 5 out) ∧
          (¬reused → memberLost s ms = true → Ended 6 out ∧ ∃ t, out = .next t ∧ t.pkg.collOut = s.pkg.collOut ++
            (others.filter (fun m => decide (m.1 = s.pkg.number) || (s.routePort m.1).isSome)).map (fun m => (m.1, m.2, c.collGroup, c.collSeq))) ∧
          (¬reused → memberLost s ms = false → ¬sent → out = .next (s.setCmd n { c with entry := bs })) ∧
          (¬reused → memberLost s ms = false → sent → ¬agree → Ended 5 out) ∧
          (¬reused → memberLost s ms = false → sent → agree → (∀ j, j < collSpan c / size → AtHome s c.who ((c.word 0).toNat + size * j) size .read (pr j)) →
            let src := (List.range (collSpan c / size)).flatMap (fun j => mreadBytes s.mem (memKey c.part (pr j)) size)
            let all := ms.map (fun m => if m = me then src else match peers.find? (fun p => decide ((p.package, p.part) = m)) with
              | some p => p.src | none => [])
            ∃ t, out = .next t ∧ t.mem = s.mem ∧ openHere t c.part c.collGroup c.collSeq = true ∧
              aget t.cmds n = some { c with started := true, entry := bs, data := collResult c all (ms.idxOf me) }))) ∧
      (StatusAt s c ps →
        let out := exec (.collCompletion c.part n) s
        let filled := fun (data : List Byte) => (List.range (data.length / size - c.progress)).foldl (fun m j =>
          mwriteBytes m (memKey c.part (pw (c.progress + j))) ((data.drop (size * (c.progress + j))).take size)) s.mem
        let Done := fun (code : Nat) (data : List Byte) => c.progress ≤ data.length / size →
          (∀ k, c.progress ≤ k → k < data.length / size → AtHome s c.who ((c.word 1).toNat + size * k) size .write (pw k)) → CommandEnds s n c none (fun m => m = withStatus { s with mem := filled data } c ps code (data.length / size * perAccess c) 0) out
        (c.started = true → c.landed = false → Done c.code c.data) ∧
        (c.landed = true → CommandEnds s n c none (fun m => m = withStatus s c ps c.code (c.progress * perAccess c) 0) out) ∧
        (∀ r, c.started = false → c.landed = false → resendOfRunning s n c = false → resendOfDone s c = some r → Done r.code r.data) ∧
        (c.started = false → c.landed = false → (resendOfRunning s n c = true ∨ resendOfDone s c = none) → out = .next s)) ∧
      (alone → Ended 6 (exec (.collWithdrawal c.part c.collGroup c.collSeq) s)) ∧
      (∀ ms, c.landed = false → isResend s n c = false → c.entry ≠ [] → c.members = some ms →
        let out := exec (.collRouteLost c.part n) s
        (memberLost s ms = false → out = .next s) ∧
        (memberLost s ms = true → Ended 6 out ∧ ∃ t, out = .next t ∧ t.pkg.collOut = s.pkg.collOut ++
          (ms.filter (fun m => decide (m ≠ me) && (decide (m.1 = s.pkg.number) || (s.routePort m.1).isSome))).map
            (fun m => (m.1, m.2, c.collGroup, c.collSeq)))))) ∧
  (∀ (c : Command) (keys pays : List Nat),
    let order := fun (a b : Nat × Nat) => decide (sortField c a.1 < sortField c b.1)
    let pairs := keys.zipIdx.map (fun (k, j) => (k, tget 0 pays j))
    ∃ sorted : List (Nat × Nat), sortedWords c keys pays = sorted.flatMap (fun (k, p) => [w32 k, w32 (k / 2 ^ 32), w32 p]) ∧
      sorted.Perm pairs ∧ sorted.Pairwise (fun a b => order b a = false) ∧
      ∀ f, sorted.filter (fun x => sortField c x.1 == f) = pairs.filter (fun x => sortField c x.1 == f)) ∧
  (∀ (c : Command) (keys : List Nat) (t : Nat), t < c.field 3 31 0 →
    let tile := fun (i : Nat) => tget 0 keys i / 2 ^ c.field 3 37 32 % 2 ^ c.field 3 44 40
    let e := tget (0, 0) (rangeTable c keys).1 t
    ((∀ i, i < keys.length → tile i ≠ t) → e = (0, 0)) ∧
    (∀ i, i < keys.length → tile i = t → e.1 ≤ i ∧ i < e.2 ∧ e.2 ≤ keys.length ∧ tile e.1 = t ∧ tile (e.2 - 1) = t)) ∧
  (∀ (c : Command) (k : Nat), k < 2 ^ 64 →
    let lo := w32 k
    let ord := if bit (c.word 4) 48 = true then k / 2 ^ 32 * 2 ^ 32 + (if bit lo 31 = true then (~~~lo).toNat else (lo ^^^ 0x80000000#32).toNat) else k
    sortField c k = ord / 2 ^ c.field 4 37 32 % 2 ^ c.field 4 46 40) ∧
  (∀ (c : Command) (r l x h : Nat), r < 8 → l < 32 → x < 16 → h < 2 →
    let words := fun (k : Nat) => w32 (if k % 2 = 0 then c.field (k / 2) 31 0 else c.field (k / 2) 63 32)
    let pixel := bit (tget (0 : W32) (coverWords c r) l) (16 * h + x)
    ((∃ k, k < 6 ∧ scaled (words k) = none) → pixel = false) ∧
    (∀ p, Scaled words 6 p →
      let area := (p 2 - p 0) * (p 5 - p 1) - (p 4 - p 0) * (p 3 - p 1)
      let vertex := fun (k : Nat) => if area < 0 then [0, 2, 1].getD (k % 3) 0 else k % 3
      let X := fun (k : Nat) => p (2 * vertex k)
      let Y := fun (k : Nat) => p (2 * vertex k + 1)
      let px := (2 * (16 * (c.field 3 15 0 + l % 8) + x) + 1) * 2 ^ 148
      let py := (2 * (16 * (c.field 3 31 16 + l / 8) + (2 * r + h)) + 1) * 2 ^ 148
      (pixel = true ↔ area ≠ 0 ∧ ¬(c.field 4 1 0 = 1 ∧ area < 0) ∧ ¬(c.field 4 1 0 = 2 ∧ 0 < area) ∧ ∀ k, k < 3 →
        let dX := X (k + 1) - X k
        let dY := Y (k + 1) - Y k
        let e := dX * ((py : Nat) - Y k) - dY * ((px : Nat) - X k)
        0 < e ∨ (e = 0 ∧ (dY < 0 ∨ (dY = 0 ∧ 0 < dX)))))) ∧
  (∀ (r : Ray) (code : Nat), code < 16 →
    (∀ h, r.record (some h) code = [h.t, h.prim, h.inst, h.u, h.v, r.status code, h.w0, h.w1]) ∧
    r.record none code = [0x7F800000, 0xFFFFFFFF, 0xFFFFFFFF, 0, 0, r.status code, 0, 0] ∧
    bits (r.status code) 3 0 = code ∧ bit (r.status code) 4 = r.term ∧ bits (r.status code) 7 5 = 0 ∧
    bits (r.status code) 11 8 = r.generation % 16 ∧ bits (r.status code) 19 12 = min 255 r.drop ∧ bits (r.status code) 31 20 = min 4095 r.visits) ∧
  (∀ (a b : Hit) (x y : Int), scaled a.t = some x → scaled b.t = some y →
    (a.below b = true ↔ x < y ∨ (x = y ∧ (a.prim < b.prim ∨ (a.prim = b.prim ∧ a.inst < b.inst))))) ∧
  (∀ (ray box : List W32) (limit : W32) (o d lo hi : Nat → Int) (near far : Int), Scaled (tget 0 ray) 3 o → Scaled (fun k => tget 0 ray (4 + k)) 3 d →
    7 ≤ ray.length → Scaled (tget 0 box) 3 lo → Scaled (fun k => tget 0 box (3 + k)) 3 hi → scaled (tget 0 ray 3) = some near → scaled limit = some far →
    (∀ k, k < 3 → lo k ≤ hi k) → (∃ k, k < 3 ∧ d k ≠ 0) →
    ((boxEntry ray box limit).isSome = true ↔ ∃ t : ℚ, (near : ℚ) / 2 ^ 149 ≤ t ∧ t ≤ (far : ℚ) / 2 ^ 149 ∧
      ∀ k, k < 3 → (lo k : ℚ) ≤ o k + t * d k ∧ o k + t * d k ≤ hi k)) ∧
  (∀ (ray tri : List W32) (o d p : Nat → Int) (near far : Int), Scaled (tget 0 ray) 3 o → Scaled (fun k => tget 0 ray (4 + k)) 3 d → 8 ≤ ray.length →
    Scaled (tget 0 tri) 9 p → 9 ≤ tri.length → scaled (tget 0 ray 3) = some near → scaled (tget 0 ray 7) = some far →
    let e1 := fun (k : Nat) => p (3 + k) - p k
    let e2 := fun (k : Nat) => p (6 + k) - p k
    let det := d 0 * (e1 1 * e2 2 - e1 2 * e2 1) - d 1 * (e1 0 * e2 2 - e1 2 * e2 0) + d 2 * (e1 0 * e2 1 - e1 1 * e2 0)
    let Meets := fun (t u v n : Int) => 0 < n ∧ (∀ k, k < 3 → n * (o k - p k) + t * d k = u * e1 k + v * e2 k) ∧ 0 ≤ u ∧ 0 ≤ v ∧ u + v ≤ n ∧
      near * n ≤ t * 2 ^ 149 ∧ t * 2 ^ 149 ≤ far * n
    (∀ T U V, triangleHit ray tri = some (T, U, V) → det ≠ 0 ∧ ∃ t u v n : Int, Meets t u v n ∧
      T = roundRat t n.toNat ∧ U = roundRat u n.toNat ∧ V = roundRat v n.toNat) ∧
    (det ≠ 0 → (∃ t u v n, Meets t u v n) → (triangleHit ray tri).isSome = true)) ∧
  (∀ (r : Ray) (inside : Bool) (node : List W32),
    let word := fun (k : Nat) => tget (0 : W32) node (24 + k)
    let box := fun (k : Nat) => (node.drop (6 * k)).take 6
    let entry := fun (k : Nat) => boxEntry (r.words inside) (box k) r.limit
    ∃ order : List Nat, order.Nodup ∧ (∀ k, k ∈ order ↔ k < 4 ∧ bits (word k) 31 30 ≠ 0 ∧ (entry k).isSome = true) ∧
      order.Pairwise (fun a b => ∀ x y, entry a = some x → entry b = some y → x.le y = true ∧ (y.le x = true → a < b)) ∧
      hitChildren r inside node = order.map (fun k => .child (word k) (box k) inside)) ∧
  (∀ (s : State) (p : RayPlace) (d : Scene) (r : Ray) (rest : List RayWork), s.pkg.softUnits = [] → s.calm = true →
    bit (s.part p.who.part).octCfg 0 = false → p.unit = p.home →
    let Step := fun (r : Ray) (r' : Ray) (e : Option RayEvent) => rayStep s p d r = (s, r', e)
    let r0 := { r with work := rest }
    let Node := fun (first : RayWork) (n : Nat) (inside : Bool) =>
      let from_ := { r with work := first :: rest }
      (d.ncount ≤ n → Step from_ r0 (some (.ended 3))) ∧
      (n < d.ncount → p.budget ≤ r.visits → Step from_ r0 (some (.ended 4))) ∧
      (∀ pn, n < d.ncount → r.visits < p.budget → (∀ j, j < 8 → AtHome s p.who (d.nodes + 128 * n + 16 * j) 16 .read (pn j)) →
        Step from_ { r0 with visits := r.visits + 1, work := hitChildren from_ inside (recordWords s p.who pn 28) ++ rest } none)
    Step { r with work := [] } { r with work := [] } (some (.ended (if r.best.isSome = true then 1 else 0))) ∧
    (∀ n inside, Node (.root n inside) n inside) ∧
    (∀ word box inside,
      let from_ := { r with work := .child word box inside :: rest }
      let n := bits word 29 0
      (boxEntry (from_.words inside) box from_.limit = none → Step from_ r0 none) ∧
      ((boxEntry (from_.words inside) box from_.limit).isSome = true →
        (bits word 31 30 = 1 → Node (.child word box inside) n inside) ∧
        (bits word 31 30 = 2 → p.budget ≤ r.visits → Step from_ r0 (some (.ended 4))) ∧
        (bits word 31 30 = 2 → r.visits < p.budget → Step from_ { r0 with
          visits := r.visits + 1, work := .tris (bits word 29 4) (bits word 29 4 + bits word 3 0) inside :: rest } none) ∧
        (bits word 31 30 = 3 → (inside = true ∨ d.icount ≤ n) → Step from_ r0 (some (.ended 3))) ∧
        (∀ pn, bits word 31 30 = 3 → inside = false → n < d.icount → (∀ j, j < 4 → AtHome s p.who (d.insts + 64 * n + 16 * j) 16 .read (pn j)) →
          let ws := recordWords s p.who pn 14
          (instanceRay r.world ws = none → Step from_ r0 none) ∧
          (∀ w, instanceRay r.world ws = some w → Step from_ { r0 with
            inner := some (w, tget 0 ws 13, n), work := .root (tget (0 : W32) ws 12).toNat true :: rest } none)))) ∧
    (∀ next last inside,
      let from_ := { r with work := .tris next last inside :: rest }
      let r1 := { r with work := .tris (next + 1) last inside :: rest }
      (last < next → Step from_ r0 none) ∧
      (next ≤ last → d.tcount ≤ next → Step from_ r0 (some (.ended 3))) ∧
      (∀ pn, next ≤ last → next < d.tcount → (∀ j, j < 3 → AtHome s p.who (d.tris + 48 * next + 16 * j) 16 .read (pn j)) →
        let ws := recordWords s p.who pn 10
        (triangleHit (r.words inside) ws = none → Step from_ r1 none) ∧
        (∀ t u v, triangleHit (r.words inside) ws = some (t, u, v) →
          let h : Hit := { t := t, prim := tget 0 ws 9, u := u, v := v, w0 := 0, w1 := 0
                           inst := match inside, r.inner with | true, some (_, id, _) => id | _, _ => 0xFFFFFFFF }
          ((∃ b, r.best = some b ∧ h.below b = false) → Step from_ r1 none) ∧
          ((∀ b, r.best = some b → h.below b = true) → d.ahit ≠ 0 → Step from_ r1 (some (.hit h))) ∧
          ((∀ b, r.best = some b → h.below b = true) → d.ahit = 0 →
            Step from_ { r1 with best := some h } (if d.first = true then some (.ended 1) else none)))))) ∧
  (∀ (c : Command) (srcs : List (List Byte)) (rank : Nat), rank < srcs.length →
    let size := collBytes c
    let count := c.collCount
    let elem := fun (src : List Byte) (k : Nat) => ofBytes ((src.drop (size * k)).take size)
    let root := fun (k : Nat) => treeRoot (collCombine c) 8 (srcs.map (fun src => elem src k))
    (c.collOp = 0 ∨ c.collOp = 4 → collResult c srcs rank = (List.range count).flatMap (fun k => toBytes size (root k))) ∧
    (c.collOp = 1 → collResult c srcs rank = (List.range (count / srcs.length)).flatMap (fun j => toBytes size (root (rank * (count / srcs.length) + j)))) ∧
    (c.collOp = 2 → collResult c srcs rank = srcs.flatten) ∧ (c.collOp = 3 → collResult c srcs rank = [])) ∧
  (∀ (f : Nat → Nat → Nat) (x : Nat) (l : List Nat) (h : Nat), treeRoot f 8 [x] = x ∧
    (2 ^ h < l.length → l.length ≤ 2 ^ (h + 1) → l.length ≤ 64 → treeRoot f 8 l = f (treeRoot f 8 (l.take (2 ^ h))) (treeRoot f 8 (l.drop (2 ^ h))))) ∧
  (∀ (c : Command) (a b : Nat),
    let t := c.collType
    let w := codeWidth t
    let y := collCombine c a b
    let value := fun (x k : Nat) => fF32.val (x / 2 ^ (32 * k) % 2 ^ 32)
    (c.collOp = 4 → (∀ k, k < 3 → y / 2 ^ (32 * k) % 2 ^ 32 = ((value a 3).fma .rne (value b k) (value a k)).round fF32 .rne false 0) ∧
      y / 2 ^ 96 = ((value a 3).mul (value b 3)).round fF32 .rne false 0) ∧
    (c.collOp ≠ 4 →
      (c.collRed = 0 → t = 0x12 → y = (faddF32 (w32 a) (w32 b)).toNat) ∧ (c.collRed = 0 → t = 0x11 → y = faddBF16 a b) ∧
      (c.collRed = 0 → t ≠ 0x12 → t ≠ 0x11 → y = (a + b) % 2 ^ w) ∧
      (c.collRed = 1 → t = 0x12 → y = fminmax false false fF32 a b) ∧ (c.collRed = 2 → t = 0x12 → y = fminmax true false fF32 a b) ∧
      ((c.collRed = 1 ∨ c.collRed = 2) → t ≠ 0x12 →
        let less := if t % 2 = 1 then sext w a < sext w b else a < b
        let more := if t % 2 = 1 then sext w b < sext w a else b < a
        y = if (c.collRed = 1 ∧ more) ∨ (c.collRed = 2 ∧ less) then b else a))) ∧
  (∀ (s : State) (n : Nat) (c : Command),
    (resendOfRunning s n c = true ↔ ∃ m d, (m, d) ∈ s.cmds ∧ m < n ∧ d.kind = .coll ∧ d.discarded = true ∧ d.part = c.part ∧ d.aspace = c.aspace ∧ d.words = c.words) ∧
    (∀ r, resendOfDone s c = some r → r ∈ (s.part c.part).colls ∧ r.discarded = true ∧ r.aspace = c.aspace ∧ r.words = c.words) ∧
    (resendOfDone s c = none → ∀ r ∈ (s.part c.part).colls, r.discarded = true → r.aspace = c.aspace → r.words ≠ c.words) ∧
    ((resendOfRunning s n c = true ∨ resendOfDone s c ≠ none) →
      (∀ part group seq, (n, c) ∉ collsAt s part group seq) ∧
      ∀ part group seq peers, collsAt s part group seq = [] → peers.any (fun p : CollPeer => p.second) = false →
        exec (.collInstanceStart part group seq peers) s = .next s))

/-- R322 to R333, R377: a channel counts its requests and conflicts, and a window of 65,536 ends in LAST; a remap is asked for, started
and moved a row set at a time; another package's atomic is applied at
its home after the earlier ones on its bytes, which ends the invalidation of a SCENE line it writes; the error registers clear; the scrubber reads on, waits for a row set that a remap
moves, logs an uncorrectable unit, and counts a missed deadline once a pass; access counters count requests, and one that has reached
the threshold is notified.
The model's readings and choices in it: the scrubber's order, its clock and its deadline (notes/assumptions/61.md);
requests that caches make, memory errors, MCLK and the requester bit come from moves of the schedule (notes/assumptions/63.md);
atomics of other packages wait at their home in a list, and the package's own are applied at its commits
(notes/assumptions/64.md). -/
def Obligations.MainMemory : Prop :=
  (∀ (s : State) (k : Nat),
    let c := s.channel k
    (∀ n, exec (.conflictWindowEnd k n) s = .next (if c.requests ≠ 65536 ∨ n ≠ c.conflicts then s else s.setChannel k (
      let d := { c with last := c.conflicts, requests := 0, conflicts := 0 }
      if c.auto = true ∧ c.active = false ∧ s.pkg.cthr ≠ 0 ∧ s.pkg.cthr ≤ c.conflicts
        then { d with active := true, bound := 0, waiting := some (c.cur % 7 + 1) } else d))) ∧
    (∀ cthr bank row, c.requests ≠ 65536 → c.request cthr bank row = { c with
      requests := c.requests + 1, rows := aput c.rows bank row
      conflicts := c.conflicts + (if ∃ r, aget c.rows bank = some r ∧ r ≠ row then 1 else 0) }) ∧
    (∀ v : BitVec 3, exec (.remapGo k v) s = .next (if s.pkg.phase ≠ 6 then s else s.setChannel k (
      if v.toNat ≠ c.cur ∧ c.active = false then { c with tgt := v.toNat, active := true, bound := 0, waiting := some v.toNat }
      else { c with tgt := v.toNat }))) ∧
    (∀ v, c.waiting = some v → (∀ j, j < 32 → k / 32 * 32 + j ≠ k → (s.channel (k / 32 * 32 + j)).active = false ∨
        ((s.channel (k / 32 * 32 + j)).waiting ≠ none ∧ k < k / 32 * 32 + j)) →
      exec (.remapStart k) s = .next (s.setChannel k { c with old := c.cur, cur := v, bound := 0, active := true, waiting := none })) ∧
    (c.active = true → c.waiting = none → s.pkg.softUnits = [] → exec (.rowSetMove k) s = .next (s.setChannel k (
      if c.bound = 65535 then { c with active := false, bound := 0, changes := min 0xFFFF (c.changes + 1) } else { c with bound := c.bound + 1 }))) ∧
    (s.pkg.scrubEn = true → s.pkg.deadline ≠ 0 →
      let late := s.pkg.deadline * 2 ^ 20 ≤ c.elapsed ∧ c.overdue = false
      let moved := c.active = true ∧ c.waiting = none ∧ c.pos / 32 % 65536 = c.bound
      let pa := scrubAddress s k
      let part := (stackPart s (k / 32)).1
      let next := fun (c : Channel) => if c.pos + 1 = 2 ^ 26 then { c with pos := 0, elapsed := 0, overdue := false, passes := min 0xFFFF (c.passes + 1) }
        else { c with pos := c.pos + 1 }
      (moved → exec (.scrubRead k) s = .next s) ∧
      (s.pkg.lowq = 0 → scrubLevel s c = 0 → exec (.scrubRead k) s = .next s) ∧
      (¬moved → 0 < s.pkg.lowq ∨ 0 < scrubLevel s c → s.pkg.softUnits = [] →
        (¬late → s.bad (memKey part pa) = false → exec (.scrubRead k) s = .next (s.setChannel k (next c))) ∧
        (¬late → s.bad (memKey part pa) = true →
          s.badUnit (memKey part ((s.part part).nqBase + 16 * ((s.part part).nqProd.toNat % ringSize (s.part part).nqLog))) 16 = none →
          ∃ t, exec (.scrubRead k) s = .next t ∧ t.channel k = next c ∧
          (t.ecc (stackOf s part pa)).addr = pa / 32 * 32 ∧ (t.ecc (stackOf s part pa)).valid = true) ∧
        (late → s.pkg.badUnits = [] → ∃ t, exec (.scrubRead k) s = .next t ∧ t.channel k = next { c with missed := min 0xFFFF (c.missed + 1), overdue := true })) ∧
      (late → ∃ t, exec (.scrubDeadlineMissed k) s = .next t ∧ t.channel k = { c with missed := min 0xFFFF (c.missed + 1), overdue := true }) ∧
      (¬late → exec (.scrubDeadlineMissed k) s = .next s))) ∧
  (∀ (s : State) (stack : Nat),
    let E := fun (e : Ecc) => { s with pkg := { s.pkg with eccs := aput s.pkg.eccs stack e } }
    exec (.eccCounterClear stack) s = .next (if s.pkg.phase = 6 then E { s.ecc stack with corr := 0, uncorr := 0 } else s) ∧
    exec (.eccAddressValidClear stack) s = .next (if s.pkg.phase = 6 then E { s.ecc stack with valid := false } else s) ∧
    (∀ region, s.pkg.badUnits = [] → s.pkg.softUnits = [] →
      let part := (stackPart s stack).1
      let p := s.part part
      let a := memKey part (p.nqBase + 16 * (p.nqProd.toNat % ringSize p.nqLog))
      (p.nthr = 0 ∨ s.counter part stack region < p.nthr → exec (.accessCountNotification stack region) s = .next s ∧
        (countRequest s stack region).counter part stack region =
          if p.nthr = 0 then s.counter part stack region else min 0xFFFF (s.counter part stack region + 1)) ∧
      (p.nthr ≠ 0 → p.nthr ≤ s.counter part stack region →
      (countRequest s stack region).counter part stack region = 1 ∧
      ∃ t, exec (.accessCountNotification stack region) s = .next t ∧ t.counter part stack region = 0 ∧
        (ringReachable p p.nqBase = true → (p.nqProd - p.nqCons).toNat < ringSize p.nqLog →
          (t.part part).nqProd = p.nqProd + 1 ∧
          mreadBytes t.mem a 16 = toBytes 8 ((stack - 2 * part) * 4 + p.nqProd.toNat * 2 ^ 32) ++ toBytes 8 (region * 2 ^ 21 % 2 ^ 52)) ∧
        ((p.nqProd - p.nqCons).toNat = ringSize p.nqLog → (t.part part).ndrop = min 0xFFFF (p.ndrop + 1) ∧ t.mem = s.mem)))) ∧
  (∀ (s : State) (part : Nat), s.pkg.phase = 6 → ∃ t, exec (.accessCounterClear part) s = .next t ∧ t.mem = s.mem ∧ (t.part part).ndrop = 0 ∧
    ∀ q stack region, t.counter q stack region = if q = part then 0 else s.counter q stack region) ∧
  (∀ (s : State) (k size : Nat) (r : PeerRequest) (op : AmoOp) (v w : W64), s.pkg.homeOps[k]? = some r → r.access = .atomic op size v w →
    (∀ q ∈ s.pkg.homeOps.take k, sameWord r q = false) →
    ({ s with pkg := { s.pkg with homeOps := [] } } : State).calm = true → s.pkg.softUnits = [] → s.bad (memKey r.part r.offset) = false →
    aperture (memKey r.part r.offset) = 0 →
    let key := memKey r.part r.offset
    let old := mreadNat s.mem key size
    let x := amoApply op (8 * size) old v.toNat w.toNat
    let left := { s with pkg := { s.pkg with homeOps := s.pkg.homeOps.eraseIdx k } }
    let base := if r.scene = true then sceneDone left (linesOf key size) else left
    exec (.homeAtomicOperation k) s = .next { base with
      mem := mwriteNat s.mem key size x.1
      pkg := { base.pkg with
        replies := s.pkg.replies ++ [.done r.package r.tag (oldBytes op size old x.2)],
        toLink := s.pkg.toLink ++ [(r.package, 0, 0)] } })

/-- R341 to R344, R354: a walk leaves a die's buffer with the valid leaf it found, or with nothing for the address; a host
translation lets the accesses that wait for it go on, asks for the page, of which 512 requests may be out, or has failed; the host's
invalidation and a shootdown, with the instruction-cache words of its range, forget the range's translations; then clean tasks that
hold the range restart, once their commits are over, and it ends, an invalidation with its completion message, once every other task that
held it has ended.
The model's readings and choices in it: a failed request is an answer to each access that waits for it, and to no other
(notes/assumptions/55.md); LOGSZ of a shootdown acts between 12 and 57 (notes/assumptions/56.md); a
walk corrects and counts the soft errors of the entries it reads, and of no other entry of their groups
(notes/assumptions/62.md); an invalidation without a PASID matches nothing (notes/assumptions/74.md). -/
def Obligations.Translations : Prop :=
  (∀ (s : State) (part die aspace : Nat) (va : W64), (s.ctx (spaceKey part aspace)).torn = false → s.pkg.softUnits = [] → va.toNat < 2 ^ 57 →
    let d := s.die die
    let rest := d.tlb.filter (fun t => !(decide (t.space = spaceKey part aspace) && decide (t.base ≤ va.toNat) && decide (va.toNat < t.base + 2 ^ t.log)))
    let walk := s.walk part aspace va.toNat
    ((s.part part).asserted = true → exec (.pageWalk part die aspace va) s = .next s) ∧
    ((s.part part).asserted = false →
      (∀ e log, walk = .leaf e log → exec (.pageWalk part die aspace va) s = .next (s.setDie die { d with
        tlb := ({ space := spaceKey part aspace, base := va.toNat / 2 ^ log * 2 ^ log, log := log, leaf := e } :: rest).take 16384 })) ∧
      ((∀ e log, walk ≠ .leaf e log) → exec (.pageWalk part die aspace va) s = .next (s.setDie die { d with tlb := rest })))) ∧
  (∀ (s : State) (part k : Nat) (r : AtsRequest), (s.part part).atsRequests[k]? = some r → s.pkg.guests = [] →
    let p := s.part part
    let out := (p.atsRequests.filter (fun x => x.stage == .page)).length
    let Woken := fun (left : List AtsRequest) (t : State) => t.mem = s.mem ∧ (t.part part).atsRequests = left ∧
      (∀ id g, aget s.gangs id = some g → aget t.gangs id = some (
        let now := (s.core g.core).cyc
        if spaceKey g.part g.aspace = r.space then { g with a := g.a.wake now, b := g.b.wake now } else g)) ∧
      ∀ n c, aget s.cmds n = some c → aget t.cmds n = some (
        if spaceKey c.part c.aspace = r.space ∧ c.parked = true ∧ commandRecorded s n c = false then { c with parked := false } else c)
    let At := fun (rs : List AtsRequest) => s.setPart part { p with atsRequests := rs }
    let sends := fun (rs : List AtsRequest) => match rs.findIdx? (fun x => x.stage == .held) with
      | some j => rs.modify j (fun x => { x with stage := .page }) | none => rs
    (r.stage = .translation → ∀ host readOk writeOk,
      ((if r.write then writeOk else readOk) = true →
        ∃ t, exec (.atsTranslationCompletion part k host readOk writeOk) s = .next t ∧ Woken (p.atsRequests.eraseIdx k) t ∧
          aget (t.part part).atc (r.space, r.page) = some (.page host readOk writeOk) ∧ (t.part part).atc.length ≤ 4096 ∧
          (t.part part).atsFailed = p.atsFailed) ∧
      ((if r.write then writeOk else readOk) = false → exec (.atsTranslationCompletion part k host readOk writeOk) s =
        .next (At (p.atsRequests.set k { r with stage := if out < 512 then .page else .held })))) ∧
    (r.stage ≠ .translation → ∀ host readOk writeOk, exec (.atsTranslationCompletion part k host readOk writeOk) s = .next s) ∧
    (r.stage = .page → out ≤ 512 →
      exec (.pageRequestResponse part k true) s = .next (At (sends (p.atsRequests.set k { r with stage := .translation }))) ∧
      ∃ t, exec (.pageRequestResponse part k false) s = .next t ∧ Woken (sends (p.atsRequests.eraseIdx k)) t ∧
        (t.part part).atc = p.atc ∧ (t.part part).atsFailed = p.atsFailed ++ r.waiters.map (fun w => (r.space, r.page, w))) ∧
    (r.stage ≠ .page → ∀ ok, exec (.pageRequestResponse part k ok) s = .next s)) ∧
  (∀ (s : State) (part pasid logsz : Nat) (va : W64),
    let p := s.part part
    let log := max 12 logsz
    let base := va.toNat / 2 ^ log * 2 ^ log
    let waiting := (p.shoots.filter (fun v => v.request.isSome)).length
    (32 ≤ waiting → exec (.invalidationRequest part pasid va logsz) s = .next s) ∧
    (waiting < 32 → ∃ t v, exec (.invalidationRequest part pasid va logsz) s = .next t ∧ t.mem = s.mem ∧ t.gangs = s.gangs ∧
      (t.part part).shoots = p.shoots ++ [v] ∧ v.request = some (pasid, va, logsz) ∧ v.holders = none ∧
      ∀ x, x ∈ (t.part part).atc ↔ x ∈ p.atc ∧
        ¬(underPasid s x.1.1 pasid = true ∧ base < 4096 * x.1.2 + 4096 ∧ 4096 * x.1.2 < base + 2 ^ log))) ∧
  (∀ (s : State) (part : Nat) (v : W64),
    let p := s.part part
    let log := min 57 (max 12 (bits v 13 8))
    let space := spaceKey part (bits v 7 0)
    let base := if bit v 14 = true then 0 else p.sd.va / 2 ^ log * 2 ^ log
    let n := if bit v 14 = true then 2 ^ 57 else 2 ^ log
    let Kept := fun (old new : List TlbEntry) (die : Nat) => ∀ x, x ∈ new ↔ x ∈ old ∧
      ¬(part ≤ die ∧ die < part + p.dies ∧ x.space = space ∧ base < x.base + 2 ^ x.log ∧ x.base < base + n)
    (s.pkg.phase ≠ 6 → exec (.shootdown part v) s = .next s) ∧
    (s.pkg.phase = 6 → bit v 15 = true → p.busy = false → ∃ t, exec (.shootdown part v) s = .next t ∧ t.mem = s.mem ∧ t.gangs = s.gangs ∧
      (t.part part).busy = true ∧
      (t.part part).shoots = p.shoots ++ [{ space := space, base := base, size := n, pages := [], request := none, holders := none }] ∧
      (∀ d, Kept (s.die d).tlb (t.die d).tlb d) ∧ (∀ k, Kept (s.core k).tlb (t.core k).tlb (k / 40)) ∧
      ∀ k w, w ∈ (t.core k).icache ↔ w ∈ (s.core k).icache ∧
        ¬(part ≤ k / 40 ∧ k / 40 < part + p.dies ∧ w.1.1 = space ∧ base < w.1.2 + 4 ∧ w.1.2 < base + n)) ∧
    (s.pkg.phase = 6 → bit v 15 = false ∨ p.busy = true → exec (.shootdown part v) s = .next (s.setPart part { p with sd :=
      { p.sd with aspace := bits v 7 0, log := bits v 13 8, all := bit v 14 } }))) ∧
  (∀ (s : State) (part : Nat) (v : Invalidation), (s.part part).shoots = [v] → (s.gangs.map (·.1)).Nodup →
    let p := s.part part
    let mine := s.gangs.filter (fun x => decide (x.2.part = part))
    let holding := mine.filter (fun x => x.2.holds v)
    let out := exec (.shootdownCompletion part) s
    let Left := fun (ids : List Nat) (t : State) =>
      (t.part part).shoots = (if ids = [] then [] else [{ v with holders := some ids }]) ∧
      t.pkg.hostOut = s.pkg.hostOut ++ (match ids, v.request with | [], some (pasid, va, log) => [.invalidated part pasid va log] | _, _ => [])
    let waits := fun (x : Nat × Gang) => pendingIn s v x.1 x.2 || (x.2.holds v && s.acking x.1)
    (v.holders = none → (p.asserted = true ∨ ∃ x ∈ mine, waits x = true) → out = .next (s.setPart part p)) ∧
    (v.holders = none → p.asserted = false → (∀ x ∈ mine, waits x = false) →
      ∃ t, out = .next t ∧ t.mem = s.mem ∧ Left ((holding.filter (fun x => !x.2.clean (s.nonidem x.2))).map (·.1)) t ∧
        (∀ x ∈ holding, x.2.clean (s.nonidem x.2) = true → ∃ h, aget t.gangs x.1 = some h ∧ h.restarting = true ∧ h.entries = [] ∧ h.loads = []) ∧
        ∀ id, (∀ x ∈ holding, x.2.clean (s.nonidem x.2) = true → x.1 ≠ id) → aget t.gangs id = aget s.gangs id) ∧
    (∀ ids, v.holders = some ids → ∃ t, out = .next t ∧ t.mem = s.mem ∧ t.gangs = s.gangs ∧ Left (ids.filter (fun id => !holderOver s v id)) t))

/-- R346, R348, R349, R351, R353: a held record is written once the queue has room, with CLEAN as its task then is; a response to an open record lets the slot or the
command go on, restarts a clean task, or ends the context; one that names no open record is ignored and counted, one to a
record that has become void has no effect, and no response acts before phase 6 (R411). Unfort applies the mapping prepared for
a miss, or hands the record to the host.
The model's readings and choices in it: a record that has become void stays in the list of open records, so a later
response to it is not counted (notes/assumptions/11.md); a prepared mapping whose table is not there is forwarded to the
host, and a full host queue makes Unfort wait (notes/assumptions/57.md). -/
def Obligations.FaultsAreAnswered : Prop :=
  (∀ (s : State) (part die : Nat) (r : FaultRecord) (rest : List FaultRecord), (s.die die).hold = r :: rest →
    let p := s.part part
    (queueFull p = true → exec (.faultHoldWrite part die) s = .next s) ∧
    (queueFull p = false → ringReachable p p.fltBase = true → ∃ t, exec (.faultHoldWrite part die) s = .next t ∧
      let now := match r.task.bind (aget s.gangs) with
        | none => r.words
        | some g => r.words.set 0 (tget 0 r.words 0 &&& ~~~0x8000 ||| w64 ((g.clean (s.nonidem g)).toNat * 2 ^ 15))
      (t.die die).hold = rest ∧ (t.part part).fltProd = p.fltProd + 1 ∧
      (t.part part).openRecords.map (·.1) = p.openRecords.map (·.1) ++ (if r.cls.recoverable then [p.fltProd.toNat] else []) ∧
      mreadBytes t.mem (memKey part (p.fltBase + 64 * (p.fltProd.toNat % ringSize p.fltLog))) (8 * (r.words.length + 1)) =
        wordBytes (now ++ [w64 p.fltProd.toNat]))) ∧
  (∀ (s : State) (part : Nat) (seq : W32),
    let p := s.part part
    let p1 := { p with openRecords := adel p.openRecords seq.toNat }
    let closed := s.setPart part p1
    let All := fun (t : State) => exec (.fltRespReplay part seq) s = .next t ∧ exec (.fltRespRequeue part seq) s = .next t ∧
      exec (.fltRespAbort part seq) s = .next t
    (s.pkg.phase ≠ 6 → All s) ∧
    (s.pkg.phase = 6 →
      (aget p.openRecords seq.toNat = none → All (s.setPart part { p with badResp := min 0xFFFF (p.badResp + 1) })) ∧
      (∀ r, aget p.openRecords seq.toNat = some r → (s.ctx (spaceKey part r.aspace)).torn = true ∨ r.owner = .void → All s) ∧
      (∀ r id slotB, aget p.openRecords seq.toNat = some r → r.owner = .gang id slotB →
        (∀ g k, aget s.gangs id = some g → (g.slot slotB).parked = some k → k.record ≠ some seq.toNat) → All s) ∧
      (∀ r, aget p.openRecords seq.toNat = some r → recordLive s part seq.toNat r = true →
        ∃ t, exec (.fltRespAbort part seq) s = .next t ∧ t.mem = s.mem ∧ t.gangs = s.gangs ∧ (t.part part).openRecords = p1.openRecords ∧
          (t.part part).heldFaults.map (fun c => (c.cls, c.aspace)) = p.heldFaults.map (fun c => (c.cls, c.aspace)) ++ [(.kill, r.aspace)]) ∧
      (∀ r n c, aget p.openRecords seq.toNat = some r → r.owner = .command n → aget s.cmds n = some c →
        (s.ctx (spaceKey part r.aspace)).torn = false →
        let goes := closed.setCmd n { c with parked := false }
        exec (.fltRespReplay part seq) s = .next goes ∧ exec (.fltRespRequeue part seq) s = .next goes) ∧
      (∀ r id slotB g k, aget p.openRecords seq.toNat = some r → r.owner = .gang id slotB → aget s.gangs id = some g →
        (g.slot slotB).parked = some k → k.record = some seq.toNat → (s.ctx (spaceKey part r.aspace)).torn = false →
        let goes := closed.setGang id (g.setSlot slotB { g.slot slotB with
          parked := some { k with released := true }, ready := max (g.slot slotB).ready (s.core g.core).cyc, passed := false })
        exec (.fltRespReplay part seq) s = .next goes ∧
        (g.clean (s.nonidem g) = false → exec (.fltRespRequeue part seq) s = .next goes) ∧
        (g.clean (s.nonidem g) = true → ∃ t h, exec (.fltRespRequeue part seq) s = .next t ∧ t.mem = s.mem ∧ aget t.gangs id = some h ∧
          h.restarting = true ∧ h.entries = [] ∧ h.loads = [] ∧ h.a.live = false ∧ h.b.live = false ∧
          ∀ j, j ≠ id → aget t.gangs j = aget s.gangs j)))) ∧
  (∀ (s : State) (part seq : Nat) (r : FaultRecord) (rest : List (Nat × FaultRecord)), (s.part part).unseen = (seq, r) :: rest →
    let p := s.part part
    let a := memKey part (p.hqBase + 64 * (p.hqProd.toNat % ringSize p.hqLog))
    ringReachable p p.hqBase = true → (r.cls ≠ .xlatMiss ∨ p.prepared = []) →
    ((p.hqProd - p.hqCons).toNat = ringSize p.hqLog → exec (.unfortFaultHandling part) s = .next s) ∧
    ((p.hqProd - p.hqCons).toNat ≠ ringSize p.hqLog → r.words.length = 7 → ∃ t, exec (.unfortFaultHandling part) s = .next t ∧
      (t.part part).hqProd = p.hqProd + 1 ∧ (t.part part).fltCons = w32 (seq + 1) ∧ (t.part part).unseen = rest ∧
      mreadBytes t.mem a 64 = wordBytes ((r.words.set 0 (tget 0 r.words 0 ||| BitVec.twoPow 64 42)) ++ [w64 seq]))) ∧
  (∀ (s s1 : State) (part seq : Nat) (r : FaultRecord) (rest : List (Nat × FaultRecord)) (m : Prepared), (s.part part).unseen = (seq, r) :: rest →
    let p := s.part part
    r.cls = .xlatMiss → p.prepared = [m] → m.applied = false → m.covers r.aspace (tget 0 r.words 2).toNat = true →
    applyPrepared (s.setPart part { p with unseen := rest, fltCons := w32 (seq + 1) }) part m = some s1 →
    let q := s1.part part
    exec (.unfortFaultHandling part) s = .next (replayRecord (s1.setPart part { q with prepared := q.prepared.set 0 { m with applied := true } })
      part (w32 seq)))

/-- R355 to R364: the first cause held asserts a partition's squall line; a unit that stops writes its stop record, and the last
one sets STOPPED; teardown spills the mask stacks into the private region, writes the dump and removes the cause's context; release
lets the partition go on, no slot having waited longer for the squall; a kill queues a cause; a gang of a torn context ends. The bytes of a stop record and of the dump's header and sections are the spec's.
The model's readings and choices in it: the stop area of a partition is 256 KiB (notes/assumptions/58.md); the dump
shows the records that were open when the line was asserted, detached gangs by core and slot, and nothing if DUMPSIZE
is below 256 (notes/assumptions/59.md); where in the region a mask-stack entry is spilled, and its bytes, are free values
(notes/assumptions/54.md). -/
def Obligations.SquallLine : Prop :=
  (∀ (s : State) (part : Nat),
    let p := s.part part
    let held := p.heldFaults.filter (fun c => !(s.ctx (spaceKey part c.aspace)).torn)
    (∀ c rest, p.asserted = false → held = c :: rest →
      exec (.squallAssertion part) s = .next (s.setPart part { p with
        asserted := true, cycles := s.cores.map (fun (k, c) => (k, c.cyc)), stopped := false, tornDown := false, cause := c.cls.code,
        causeAspace := c.aspace, count := p.count + 1, current := some c, heldFaults := rest, openThen := openRecordsOf s part c.aspace
        unstopped := (List.range p.dies).flatMap (fun d => (List.range 256).map (fun u => (part + d, u))) })) ∧
    (p.asserted = false → held = [] → exec (.squallAssertion part) s = .next (s.setPart part { p with heldFaults := [] })) ∧
    (p.asserted = true → exec (.squallAssertion part) s = .next s) ∧
    (∀ die u skid inflight, p.asserted = true → (die, u) ∈ p.unstopped →
      let rest := p.unstopped.filter (· ≠ (die, u))
      ∃ t, exec (.unitStop part die u skid inflight) s = .next t ∧ (t.part part).unstopped = rest ∧ (t.part part).stopped = rest.isEmpty ∧
        t.gangs = s.gangs ∧
        (∀ k n f, rest = [] → (partitions s).find? (fun x => decide (x.1 = part)) = some (k, n, some f) →
          t.pkg.hostOut = s.pkg.hostOut ++ [.msi f 2]) ∧
        (ringReachable p p.stopBase = false → t.mem = s.mem ∧ t.pkg.log = s.pkg.log ++ [.dropped part]) ∧
        (ringReachable p p.stopBase = true → u < 256 →
          let at_ := memKey part (p.stopBase + 65536 * (die - part) + 256 * u)
          let (ty, index, bench) :=
            if u < 160 then (1, u / 4, u % 4) else if u < 200 then (2, u - 160, 0) else if u < 240 then (3, u - 200, 0)
            else if u < 250 then (4, u - 240, 0) else (u - 245, 0, 0)
          mreadBytes t.mem at_ 16 =
            toBytes 8 (ty + die * 2 ^ 8 + index * 2 ^ 10 + bench * 2 ^ 16 + p.cause * 2 ^ 24 + p.causeAspace * 2 ^ 32) ++
              toBytes 8 (p.count.toNat + skid % 2 ^ 16 * 2 ^ 32 + inflight % 2 ^ 16 * 2 ^ 48) ∧
          (200 ≤ u → mreadBytes t.mem (at_ + 16) 240 = List.replicate 240 0) ∧
          (∀ k, k < 16 → u < 160 →
            (gangAt s (40 * die + index) (4 * k + bench) = none →
              mreadBytes t.mem (at_ + 16 + 8 * k) 8 = List.replicate 8 0 ∧ mreadBytes t.mem (at_ + 144 + 4 * k) 4 = List.replicate 4 0) ∧
            ∀ id g, gangAt s (40 * die + index) (4 * k + bench) = some (id, g) →
              mreadBytes t.mem (at_ + 16 + 8 * k) 8 = toBytes 8 g.a.pc.toNat ∧
              mreadBytes t.mem (at_ + 144 + 4 * k) 4 = toBytes 4 (g.aspace + 2 ^ 8 + g.b.live.toNat * 2 ^ 9 +
                (g.a.parked.isSome || g.b.parked.isSome).toNat * 2 ^ 10 + (match g.phase with | .waiting _ => 2 ^ 11 | _ => 0) +
                (if p.current.bind (·.gang) = some id then 2 ^ 12 else 0) + g.detstep.toNat % 2 ^ 16 * 2 ^ 16)) ∧
          (∀ j n c, j < 16 → 160 ≤ u → u < 200 →
            (s.cmds.filter (fun x => (x.2.kind == .cpy || x.2.kind == .cpyg || x.2.kind == .cpyst) && decide (x.2.core = 40 * die + index)))[j]? = some (n, c) →
            mreadBytes t.mem (at_ + 16 + 8 * j) 8 = toBytes 8 (c.field 7 15 0 + (if c.parked then 3 else if c.started then 4 else 1) * 2 ^ 16 +
              c.aspace * 2 ^ 24 + c.progress % 2 ^ 32 * 2 ^ 32)))) ∧
    (p.asserted = true → p.stopped = true → p.tornDown = false → ∃ t, exec (.teardown part) s = .next t ∧
      (t.part part).tornDown = true ∧ (t.part part).asserted = true ∧
      (t.ctx (spaceKey part p.causeAspace)).torn = true ∧
      (∀ x ∈ t.gangs, spaceKey x.2.part x.2.aspace = spaceKey part p.causeAspace → x.2.entries = [] ∧ x.2.returns = []) ∧
      (∀ x ∈ t.cmds, spaceKey x.2.part x.2.aspace ≠ spaceKey part p.causeAspace) ∧
      (∀ x ∈ t.dies, ∀ e ∈ x.2.tlb, e.space ≠ spaceKey part p.causeAspace) ∧
      (∀ x ∈ t.cores, ∀ e ∈ x.2.tlb, e.space ≠ spaceKey part p.causeAspace) ∧
      (∀ x ∈ t.dies, ∀ y ∈ x.2.spawns, spaceKey y.part y.aspace ≠ spaceKey part p.causeAspace) ∧
      (s.cmds = [] → s.pkg.guests = [] →
        let spilled := spillStacks s part p.causeAspace
        let all := dumpSections spilled part p.causeAspace
        let total := fun (xs : List (List Byte)) => (xs.map List.length).sum
        let at_ := memKey part p.dumpBase
        ((p.dumpSize = 0 ∨ ringReachable p p.dumpBase = false ∨ p.dumpSize < 256) → t.mem = s.mem) ∧
        (p.dumpSize ≠ 0 → ringReachable p p.dumpBase = false → t.pkg.log = s.pkg.log ++ [.dropped part]) ∧
        (256 ≤ p.dumpSize → ringReachable p p.dumpBase = true → ∃ done left, all = done ++ left ∧ 256 + total done ≤ p.dumpSize ∧
          (∀ x xs, left = x :: xs → p.dumpSize < 256 + total done + x.length) ∧
          mreadBytes t.mem at_ 32 = toBytes 8 (256 + total done) ++ toBytes 8 (256 + total all) ++
            toBytes 8 (1 + p.cause * 2 ^ 8 + p.causeAspace * 2 ^ 16 + (decide (left ≠ [])).toNat * 2 ^ 24 + done.length % 2 ^ 16 * 2 ^ 32) ++
            toBytes 8 p.count.toNat ∧
          (∀ c, p.current = some c → c.cls = .kill → mreadBytes t.mem (at_ + 32) 64 = toBytes 8 16 ++ List.replicate 56 0) ∧
          (∀ c, p.current = some c → c.cls ≠ .kill → c.words.length = 8 → mreadBytes t.mem (at_ + 32) 64 = wordBytes c.words) ∧
          mreadBytes t.mem (at_ + 96) 160 = List.replicate 160 0 ∧ mreadBytes t.mem (at_ + 256) (total done) = done.flatten))) ∧
    (p.stopped = true → p.tornDown = true → s.pkg.guests = [] →
      let late := fun (core : Nat) (sl : Slot) =>
        { sl with ready := max sl.ready ((s.core core).cyc - ((aget p.cycles core).getD 0 - sl.ready)) }
      exec (.squallRelease part) s = .next (({ s with
        gangs := s.gangs.map (fun (id, g) => (id, if g.part = part then { g with a := late g.core g.a, b := late g.core g.b } else g)) } :
          State).setPart part { p with
        asserted := false, cycles := [], stopped := false, tornDown := false, current := none, openThen := [] })) ∧
    (p.tornDown = false → exec (.squallRelease part) s = .next s) ∧
    (∀ aspace, s.pkg.phase = 6 → ∃ t, exec (.kill part aspace) s = .next t ∧ t.mem = s.mem ∧ t.gangs = s.gangs ∧
      (t.part part).heldFaults.map (fun c => (c.cls, c.aspace)) = p.heldFaults.map (fun c => (c.cls, c.aspace)) ++ [(.kill, aspace)]) ∧
    (∀ aspace, s.pkg.phase ≠ 6 → exec (.kill part aspace) s = .next s) ∧
    (∀ id g, aget s.gangs id = some g → g.phase = .running → (s.ctx (spaceKey g.part g.aspace)).torn = true → (s.part g.part).asserted = false →
      ∃ t, exec (.torn id) s = .next t ∧ t.mem = s.mem ∧
        (g.crewKey = none → t.gangs = adel s.gangs id) ∧
        (g.crewKey ≠ none → ∃ h, aget t.gangs id = some h ∧ h.phase = .ended ∧ h.entries = [] ∧ h.a.live = false ∧ h.b.live = false))) ∧
  (∀ (s : State) (part aspace : Nat),
    let c := s.ctx (spaceKey part aspace)
    let spilled := spillStacks s part aspace
    spilled = { s with mem := spilled.mem, tick := s.tick + 1, pkg := spilled.pkg } ∧
    (onChipEntries s part aspace = 0 → spilled.mem = s.mem) ∧
    (c.privBase < 2 ^ 50 → OnlyAt [(memKey part c.privBase, max (regionBytes c) Config.stackEntry)] s.mem spilled.mem)) ∧
  (∀ (s : State) (part aspace : Nat),
    let p := s.part part
    let all := dumpSections s part aspace
    all.head? = some (toBytes 8 (1 + 2 ^ 18 * 2 ^ 32) ++ toBytes 8 0 ++ mreadBytes s.mem (memKey part p.stopBase) (2 ^ 18)) ∧
    all.getLast? = some (toBytes 8 (4 + (p.openThen.flatMap wordBytes).length * 2 ^ 32) ++ toBytes 8 0 ++ p.openThen.flatMap wordBytes)) ∧
  (∀ (s : State) (g : Gang),
    let x := gangSection s g
    let b := fun (n : Nat) => if g.b.live then n else 0
    x.length = 16 + 640 + 128 * g.vcount ∧
    x.take 80 = toBytes 8 (2 + g.die * 2 ^ 8 + g.core % 40 * 2 ^ 10 + (640 + 128 * g.vcount) * 2 ^ 32) ++ toBytes 8 (gangReg g).toNat ++
      toBytes 8 g.a.pc.toNat ++ toBytes 8 (b g.b.pc.toNat) ++ toBytes 4 g.a.mask.toNat ++ toBytes 4 (b g.b.mask.toNat) ++
      toBytes 8 (g.detstep.toNat + g.b.live.toNat * 2 ^ 32 + (g.a.parked.isSome || g.b.parked.isSome).toNat * 2 ^ 33 + g.sealed.toNat * 2 ^ 34 +
        (s.nonidem g).toNat * 2 ^ 35) ++
      toBytes 8 g.a.icnt.toNat ++ toBytes 8 (b g.b.icnt.toNat) ++ toBytes 16 g.lane.toNat ∧
    (∀ n, n < 64 → (x.drop (80 + 8 * n)).take 8 = toBytes 8 (g.readS false n).toNat) ∧
    (∀ n, n < 8 → (x.drop (592 + 4 * n)).take 4 = toBytes 4 (g.readM n).toNat) ∧
    (x.drop 624).take 32 = toBytes 16 g.pendV.toNat ++ toBytes 8 g.pendS.toNat ++ toBytes 8 0 ∧
    (∀ r l, r < g.vcount → l < 32 → (x.drop (656 + 128 * r + 4 * l)).take 4 = toBytes 4 (g.lane? r l).toNat)) ∧
  (∀ (s : State) (x : Crew) (g : Gang),
    let c := s.core x.core
    let b := crewSection s x g
    b.length = 16 + 320 + 4096 * x.tcount + 1024 * x.ccount ∧
    b.take 80 = toBytes 8 (3 + x.core / 40 * 2 ^ 8 + x.core % 40 * 2 ^ 10 + (320 + 4096 * x.tcount + 1024 * x.ccount) * 2 ^ 32) ++
      toBytes 8 (crewMap s g).toNat ++ toBytes 24 (c.scratchOwn.toNat / 2 ^ x.tfirst % 2 ^ x.tcount) ++
      toBytes 24 (c.scratchFull.toNat / 2 ^ x.tfirst % 2 ^ x.tcount) ++ toBytes 16 (c.accOwn.toNat / 2 ^ x.cfirst % 2 ^ (min 64 x.ccount)) ∧
    (∀ n, n < 16 → (b.drop (80 + 8 * n)).take 8 = toBytes 8 (tileState s g (.buffer, n)).toNat ∧
      (b.drop (208 + 8 * n)).take 8 = toBytes 8 (tileState s g (.barrier, n)).toNat) ∧
    b.drop 336 = mreadBytes c.scratch (4096 * x.tfirst) (4096 * x.tcount) ++ mreadBytes c.acc (1024 * x.cfirst) (1024 * x.ccount))

/-- R375 to R384, R389, R394, R396: what another package asks of this one is done at its home, in the order of its flow, or
refused; writes to SCENE lines wait until the octet has invalidated them; a port sends flits as credits allow, keeps them until
they are acknowledged, takes each flow's flits in order, after one that arrived bad none of its class until it has arrived again, forwards, resends,
retrains and goes down; and the host reads and writes the memory of its partition: beyond it, and before phase 6, reads are all
ones and writes are dropped.
The model's readings and choices in it: a write to a SCENE line waits, as a whole, until the octet's other members
have acknowledged the invalidation (notes/assumptions/41.md), and what follows it on its flow, or from the host, waits
behind it (notes/assumptions/94.md); atomics of other packages wait at their home in a list (notes/assumptions/64.md); the
payload of a flit is not read (notes/assumptions/65.md), and messages enter their flows at the end of a move
(notes/assumptions/87.md); how replays count towards retraining, and EN = 0 takes a port down (notes/assumptions/66.md). -/
def Obligations.LinksAndHost : Prop :=
  (∀ (s : State) (r : PeerRequest),
    let key := memKey r.part r.offset
    let n := requestSize r
    let R := fun (t : State) => exec (.peerRequest r) s = .next t
    let Behind := ∃ x, HeldWrite.peer x ∈ s.pkg.held ∧ x.package = r.package ∧ x.part = r.part
    let Answered := fun (t : State) (a : PeerReply) => t.pkg.replies = s.pkg.replies ++ [a]
    let Written := fun (data : List Byte) => ∃ t, R t ∧ mreadBytes t.mem key data.length = data ∧ OnlyAt [(key, data.length)] s.mem t.mem ∧
      Answered t (.done r.package r.tag [])
    (accepts s r = false → ∃ t, R t ∧ t.mem = s.mem ∧ t.gangs = s.gangs ∧ Answered t (.refused r.package r.tag)) ∧
    (accepts s r = true → Behind → R { s with pkg := { s.pkg with held := s.pkg.held ++ [.peer r] } }) ∧
    (∀ k, accepts s r = true → ¬ Behind → r.access = .read k → r.scene = true → sceneBusy s (linesOf key k) = true →
      R { s with pkg := { s.pkg with held := s.pkg.held ++ [.peer r] } }) ∧
    (accepts s r = true → ¬ Behind → s.calm = true →
      (∀ k u, r.access = .read k → (r.scene = false ∨ sceneBusy s (linesOf key k) = false) → s.badUnit key k = some u →
        ∃ t, R t ∧ t.mem = s.mem ∧ Answered t (.failed r.package r.tag)) ∧
      (s.pkg.badUnits = [] → s.pkg.softUnits = [] → r.offset + n ≤ 2 ^ 50 →
        (∀ k, r.access = .read k → (r.scene = false ∨ sceneBusy s (linesOf key k) = false) →
          ∃ t, R t ∧ t.mem = s.mem ∧ Answered t (.done r.package r.tag (mreadBytes s.mem key k)) ∧
            (r.scene = true → ∀ line ∈ linesOf key k, line ∈ t.pkg.sceneCopies ∧ ∀ w ∈ t.pkg.sceneWrites, w.line ≠ line)) ∧
        (∀ data, r.access = .write data → (r.scene = false ∨ octetOthers s r.part = []) → Written data) ∧
        (∀ data line members, r.access = .write data → r.scene = true → linesOf key n = [line] → octetOthers s r.part = members → members ≠ [] →
          ((∀ w ∈ s.pkg.sceneWrites, w.line ≠ line) → ∃ t, R t ∧ t.mem = s.mem ∧ t.pkg.held = s.pkg.held ++ [.peer r] ∧
            t.pkg.sceneWrites = s.pkg.sceneWrites ++ [{ line := line, members := members }]) ∧
          (s.pkg.sceneWrites = [{ line := line, members := [] }] → Written data ∧ (line ∉ sceneClaims s → ∀ t, R t → t.pkg.sceneWrites = [])))) ∧
      (∀ op k v w, r.access = .atomic op k v w → r.scene = false → R { s with pkg := { s.pkg with homeOps := s.pkg.homeOps ++ [r] } }))) ∧
  (∀ (s : State) (line : Nat), ∃ t, exec (.sceneInvalidation line) s = .next t ∧ t.mem = s.mem ∧ t.gangs = s.gangs ∧
    t.pkg.sceneAcks = s.pkg.sceneAcks ++ [line]) ∧
  (∀ (s : State) (k member : Nat) (w : SceneWrite), s.pkg.sceneWrites[k]? = some w → (∀ x ∈ s.gangs, x.2.phase = .running) →
    let left := w.members.filter (· ≠ member)
    (s.pkg.held = [] → exec (.sceneInvalidationAck k member) s = .next { s with pkg := { s.pkg with
      sceneWrites := s.pkg.sceneWrites.set k { w with members := left } } }) ∧
    (∀ part offset data, s.pkg.held = [.host part offset data] → s.pkg.sceneWrites = [w] → left = [] → linesOf (memKey part offset) data.length = [w.line] →
      s.calm = true → s.pkg.badUnits = [] → s.pkg.softUnits = [] → ∃ t, exec (.sceneInvalidationAck k member) s = .next t ∧
        mreadBytes t.mem (memKey part offset) data.length = data ∧ OnlyAt [(memKey part offset, data.length)] s.mem t.mem ∧ t.pkg.held = [])) ∧
  (∀ (s : State) (n : Nat),
    let p := s.port n
    let Sends := fun (t u : State) (q : Nat) (f : Flit) =>
      let k := f.cls.toNat
      (t.port q).queue = [] → (t.port q).up = true →
      ((t.port q).train = true ∨ (t.port q).credit k = 0 → u = t.setPort q { t.port q with queue := [f] }) ∧
      ((t.port q).train = false → (t.port q).credit k ≠ 0 → u = t.setPort q { t.port q with
        buffer := (t.port q).buffer ++ [f], credits := aput (t.port q).credits k ((t.port q).credit k - 1) })
    (∀ f : Flit, p.up = true → p.train = false →
      let key := (f.source, f.dest, f.die, f.cls.toNat)
      let next := (aget s.pkg.flows key).getD 0
      let R := fun (t : State) => exec (.flitReception n f) s = .next t
      let Taken := fun (b : State) =>
        let passed : State := { b with pkg := { b.pkg with flows := aput s.pkg.flows key (f.sequence + 1) } }
        (f.dest = s.pkg.number → f.sequence = next → R { passed with pkg := { passed.pkg with delivered := s.pkg.delivered ++ [f] } }) ∧
        (f.dest = s.pkg.number → f.sequence ≠ next → R b) ∧
        (f.dest ≠ s.pkg.number → f.sequence < next → R b) ∧
        (f.dest ≠ s.pkg.number → next ≤ f.sequence →
          (b.routePort f.dest = none → R passed) ∧ ∀ q, b.routePort f.dest = some q → ∃ t, R t ∧ Sends passed t q f)
      (aget p.awaits f.cls.toNat = none → f.good = true → Taken s) ∧
      (aget p.awaits f.cls.toNat = none → f.good = false →
        R (s.setPort n { p with awaits := aput p.awaits f.cls.toNat { f with good := true } })) ∧
      (∀ x, aget p.awaits f.cls.toNat = some x → f ≠ x → R s) ∧
      (aget p.awaits f.cls.toNat = some f → Taken (s.setPort n { p with awaits := adel p.awaits f.cls.toNat }))) ∧
    (∀ dest die cls q, cls < 4 → s.pkg.toLink = [(dest, die, cls)] → s.routePort dest = some q →
      let m := (aget s.pkg.sends (dest, die, cls)).getD 0
      let counted := { s with pkg := { s.pkg with toLink := [], sends := aput s.pkg.sends (dest, die, cls) (m + 1) } }
      Sends counted (flushLinks s) q
        { source := s.pkg.number, dest := dest, die := die, cls := BitVec.ofNat 2 cls, sequence := m, good := true, payload := [] }) ∧
    (s.pkg.tripped = false → ∀ cls,
      (∀ before f after, p.up = true → p.train = false → p.buffer = before ++ f :: after → f.cls.toNat = cls → (∀ x ∈ before, x.cls.toNat ≠ cls) →
        runAction (.acknowledge n cls) s = .next (s.setPort n { p with buffer := before ++ after, failures := 0 })) ∧
      (∀ k, (p.queue = [] ∨ p.up = false ∨ p.train = true) →
        runAction (.credit n cls k) s = .next (s.setPort n { p with credits := aput p.credits cls (p.credit cls + k) })) ∧
      (∀ k f, p.up = true → p.train = false → p.queue = [f] → f.cls.toNat = cls → 0 < k →
        ∃ c, runAction (.credit n cls k) s = .next (s.setPort n { p with queue := [], buffer := p.buffer ++ [f], credits := c }) ∧
          (aget c cls).getD 0 = p.credit cls + k - 1)) ∧
    (∀ before f after, p.up = true → p.train = false → p.buffer = before ++ f :: after →
      let first := before.filter (fun x => x.cls == f.cls) = []
      let R := fun (q : Port) => exec (.flitReplay n before.length) s = .next (s.setPort n { q with replays := min 0xFFFF (p.replays + 1) })
      (first → p.failures = 15 → R { p with failures := 0, train := true, retrains := min 0xFFFF (p.retrains + 1) }) ∧
      (first → p.failures ≠ 15 → R { p with failures := p.failures + 1 }) ∧
      (¬ first → R { p with failures := 1, buffer := before.filter (fun x => x.cls != f.cls) ++ f :: after })) ∧
    (p.en = true → (p.train = true ∨ (p.up = false ∧ 5 ≤ s.pkg.phase ∧ s.pkg.phase ≤ 6)) → p.queue = [] → ∀ peer,
      exec (.portRetrain n true peer) s = .next (s.setPort n { p with up := true, train := false, failures := 0, peer := peer % 64, peerValid := true })) ∧
    (p.up = true → p.train = true → p.queue = [] → s.acks = [] →
      let down := (s.setPort n { p with up := false, train := false, failures := 0, queue := [], buffer := [], credits := [], awaits := [] }).logEvent (.portDown n)
      (p.buffer = [] → exec (.portDown n) s = .next down) ∧
      (∀ f q, p.buffer = [f] → down.routePort f.dest = some q → ∃ t, exec (.portDown n) s = .next t ∧ Sends down t q f) ∧
      (∀ f, p.buffer = [f] → down.routePort f.dest = none → exec (.portDown n) s = .next down))) ∧
  (∀ (s : State) (f a : Nat),
    let Beyond := s.pkg.phase ≠ 6 ∨ functionPart s f = none ∨ ∃ part n, functionPart s f = some (part, n) ∧ localSize n ≤ a
    (∀ part n size, s.pkg.phase = 6 → functionPart s f = some (part, n) → a < localSize n →
      (hostHeld s part = true → exec (.hostBar2Read f a size) s = .next s) ∧
      (hostHeld s part = false → s.calm = true → s.pkg.badUnits = [] → s.pkg.softUnits = [] →
        exec (.hostBar2Read f a size) s = .next { s with pkg := { s.pkg with
          hostOut := s.pkg.hostOut ++ [.data f ((List.range size).map (fun j =>
            if a + j < localSize n then mread s.mem (memKey part (a + j)) else 0xFF))] } })) ∧
    (∀ size, Beyond → exec (.hostBar2Read f a size) s = .next { s with pkg := { s.pkg with
      hostOut := s.pkg.hostOut ++ [.data f (List.replicate size 0xFF)] } }) ∧
    (∀ part n written, s.pkg.phase = 6 → functionPart s f = some (part, n) → (s.part part).dies = n → a < localSize n →
      let data := written.take (localSize n - a)
      let R := fun (t : State) => exec (.hostBar2Write f a written) s = .next t
      (hostHeld s part = true → R { s with pkg := { s.pkg with held := s.pkg.held ++ [.host part a data] } }) ∧
      (hostHeld s part = false → s.calm = true → s.pkg.badUnits = [] → s.pkg.softUnits = [] → s.pkg.sceneCopies = [] →
        ∃ t, R t ∧ mreadBytes t.mem (memKey part a) data.length = data ∧ OnlyAt [(memKey part a, data.length)] s.mem t.mem ∧ t.gangs = s.gangs) ∧
      (∀ line, hostHeld s part = false → linesOf (memKey part a) data.length = [line] → line ∈ s.pkg.sceneCopies → s.pkg.sceneWrites = [] →
        octetOthers s part ≠ [] → ∃ t, R t ∧ t.mem = s.mem ∧ t.pkg.held = s.pkg.held ++ [.host part a data] ∧
          t.pkg.sceneWrites = [{ line := line, members := octetOthers s part }])) ∧
    (∀ data, Beyond → exec (.hostBar2Write f a data) s = .next s) ∧
    (∀ tag, exec (.atomicopRequest f tag) s = .next { s with pkg := { s.pkg with hostOut := s.pkg.hostOut ++ [.unsupported f tag] } }))

/-- R355, R366, R373, R386 to R388, R421: a unit takes a delegated ray, of its own package in the order sent, while the ray queue and
the serving context's private region have room, one record with the bytes still needed being written for each that waits for it, and a part without intersection units takes none; a ray whose scene page is
refused is answered with END 6, and one whose page is not resident waits; at the home a candidate waits for its any-hit
task's answer, which goes back to the unit that found it, while the ray goes on waiting for the unit that it was delegated to;
an answer is taken up, or its END ends the ray; an owner's failure is fatal to the tracing context; records for rays that
are gone are dropped.
The model's readings and choices in it: details of the intersection unit that R236 to R242 and R386 to R388 leave to a
reading (notes/assumptions/50.md), and a delegated ray that waits for room (notes/assumptions/105.md). -/
def Obligations.RayRecords : Prop :=
  (∀ (s : State) (part die source : Nat) (ws : List W64),
    let unit := s.pkg.number * 4 + die
    let aspace := bits (s.part part).octCfg 15 8
    let Room := (queuedRays s die).length < 1024 ∨ regionUse s part aspace none + 64 ≤ regionBytes (s.ctx (spaceKey part aspace))
    let g := { guestOf part die source ws with num := s.serial }
    let who : Access.Who := { part := part, aspace := aspace, die := die, windows := false }
    let sent := fun (y : RayRecord) => decide (y.source = source) && decide (y.dest = unit)
    let record : RayRecord := { kind := 0, source := source, dest := unit, words := ws }
    let R := fun (t : State) => exec (.rayDelegationRecord part die source ws) s = .next t
    (s.pkg.mini = true → R s) ∧ ((s.part part).asserted = true → R s) ∧
    (s.pkg.mini = false → (s.part part).asserted = false → Room →
      (source / 4 ≠ s.pkg.number →
        let s1 : State := { s with pkg := { s.pkg with rayWaits := s.pkg.rayWaits.erase record } }
        R (guestRun { s1.setGuest s.serial g with serial := s.serial + 1 } s.serial g)) ∧
      (source / 4 = s.pkg.number → s.pkg.rayOut.find? sent = some record →
        let s1 : State := { s with pkg := { s.pkg with rayOut := s.pkg.rayOut.erase record, rayWaits := s.pkg.rayWaits.erase record } }
        R (guestRun { s1.setGuest s.serial g with serial := s.serial + 1 } s.serial g)) ∧
      (source / 4 = s.pkg.number → s.pkg.rayOut.find? sent ≠ some record → R s) ∧
      (source / 4 ≠ s.pkg.number → aget s.pkg.guests s.serial = none →
        (Refused s who g.scene .read → ∃ t w, R t ∧ t.mem = s.mem ∧ aget t.pkg.guests s.serial = none ∧
          t.pkg.rayOut = s.pkg.rayOut ++ [{ kind := 1, source := unit, dest := source, words := w }] ∧
          recWord w 0 = 0x7F800000 ∧ recWord w 1 = 0xFFFFFFFF ∧ bits (recWord w 8) 18 16 = 6 ∧ recWord w 15 = recWord ws 15) ∧
        (Absent s who g.scene → ∃ t, R t ∧ t.pkg.rayOut = s.pkg.rayOut ∧
          aget t.pkg.guests s.serial = some { g with ray := { g.ray with wait := .park } }))) ∧
    (¬ Room → record ∈ s.pkg.rayWaits → R s) ∧
    (s.pkg.mini = false → (s.part part).asserted = false → ¬ Room → record ∉ s.pkg.rayWaits →
      (source / 4 = s.pkg.number → s.pkg.rayOut.find? sent = some record) → ∃ t, R t ∧ t.pkg.guests = s.pkg.guests ∧ t.pkg.rayOut = s.pkg.rayOut ∧
      t.pkg.rayWaits = s.pkg.rayWaits ++ [record] ∧
      (let p := s.part part
       ringReachable p p.fltBase = true → queueFull p = false → (s.die die).hold = [] →
        mreadBytes t.mem (memKey part (p.fltBase + 64 * (p.fltProd.toNat % ringSize p.fltLog))) 64 =
          wordBytes [w64 (10 + 10 * 2 ^ 8 + aspace * 2 ^ 16 + die * 2 ^ 24 + 2 ^ 40), 0, 0, 0, 0, w64 (4 * 2 ^ 16),
            w64 (regionUse s part aspace none + 64 - regionBytes (s.ctx (spaceKey part aspace))), w64 p.fltProd.toNat]))) ∧
  (∀ (s : State) (part source : Nat) (ws : List W64), source / 4 ≠ s.pkg.number →
    let ret := recWord ws 15
    let stop := bits (recWord ws 8) 18 16
    (∀ n c r, s.pkg.guests = [] → returnRay s ret = some (n, c, r) → (s.part c.part).asserted = true →
      exec (.rayAnswerRecord part source ws) s = .next s ∧ exec (.rayCandidateRecord part source ws) s = .next s) ∧
    (∀ n c r, s.pkg.guests = [] → returnRay s ret = some (n, c, r) → (s.part c.part).asserted = false →
      (∀ u, r.wait = .away u → c.part = part → exec (.rayCandidateRecord part source ws) s =
        .next (setRay s n c { r with wait := .remote (recHit ws) (recWord ws 5) source u false })) ∧
      (r.wait = .away source → stop ≠ 6 → ∃ q, exec (.rayAnswerRecord part source ws) s = .next (setRay s n c q) ∧
        q.visits = bits (recWord ws 8) 15 0 ∧ q.work = r.work ∧
        q.best = (if recWord ws 0 = 0x7F800000 ∧ recWord ws 1 = 0xFFFFFFFF ∧ recWord ws 2 = 0xFFFFFFFF then r.best
          else some { t := recWord ws 0, prim := recWord ws 1, inst := recWord ws 2, u := recWord ws 3, v := recWord ws 4, w0 := recWord ws 5, w1 := recWord ws 6 }) ∧
        (stop = 0 → r.first = false → q.wait = .run) ∧ (stop = 3 ∨ stop = 4 → q.wait = .ended ∧ q.code = stop) ∧
        (stop = 5 → q.wait = .ended ∧ q.term = true ∧ q.code = if q.best.isSome then 1 else 0)) ∧
      (r.wait = .away source → stop = 6 → ∃ t, exec (.rayAnswerRecord part source ws) s = .next t ∧
        (t.part c.part).heldFaults.map (fun x => (x.cls, x.aspace)) = (s.part c.part).heldFaults.map (fun x => (x.cls, x.aspace)) ++
          [(if bits (recWord ws 8) 28 24 = 13 then .eccUncorr else .xlatPerm, c.aspace)]) ∧
      (r.wait = .run → exec (.rayAnswerRecord part source ws) s = .next s ∧ exec (.rayCandidateRecord part source ws) s = .next s)) ∧
    (s.pkg.guests = [] → returnRay s ret = none →
      exec (.rayAnswerRecord part source ws) s = .next s ∧ exec (.rayCandidateRecord part source ws) s = .next s ∧
      exec (.candidateAnswerRecord part ws) s = .next s) ∧
    (∀ n g h, s.pkg.guests = [(n, g)] → g.ret = recWord ws 3 → g.part = part → g.ray.wait = .hit h → bits g.ret 5 0 ≠ s.pkg.number →
      (s.part part).asserted = false → exec (.candidateAnswerRecord part ws) s =
        .next (guestRun s n { g with ray := g.ray.answer h (bits (recWord ws 0) 1 0) (recWord ws 1) (recWord ws 2) }))) ∧
  (∀ (s : State) (n : Nat) (c : Command) (r : Ray) (h : Hit) (limit : W32) (unit delegate code : Nat) (w0 w1 : W32),
    unitCommand s n .trace = some c → (s.ctx (spaceKey c.part c.aspace)).torn = false → c.rays = [r] → r.wait = .remote h limit unit delegate true →
    s.answers = [((n, r.lane), code, w0, w1)] → code ≠ 4 →
    ∃ t, exec (.traceCompletion n) s = .next t ∧ t.mem = s.mem ∧ t.answers = [] ∧
      (let verdict := [w0 ++ w32 code, returnOf s n c r.lane ++ w1]
       t.pkg.rayOut = s.pkg.rayOut ++ [{ kind := 3, source := s.pkg.number * 4 + c.die, dest := unit, words := verdict }]) ∧
      aget t.cmds n = some { c with started := true, rays := [{ r with wait := .away delegate }] })

/-- R410, R411, R355: a fundamental reset returns every register to its reset value and loses HBM; bring-up goes phase by phase,
zeroing memory and putting a layout in force, or fails with a code, at phase 2 by the image's signature and version; a
function-level reset removes what runs in its partition as a KILL does, clears the partition and keeps memory.
The model's readings and choices in it: what host memory and other packages' memory hold before anything is written
has no value in the manual (notes/assumptions/5.md); the image's signature and version are opaque constants
(notes/assumptions/13.md); a function-level reset removes the contexts that are enabled or have work
(notes/assumptions/71.md); FUNDAMENTAL_RESET gives phase 0, and the next completion phase 1 (notes/assumptions/72.md). -/
def Obligations.ResetsAndBringUp : Prop :=
  ∀ s : State,
    (∃ t, exec .fundamentalReset s = .next t ∧
      t = { State.reset with todo := s.todo, tick := s.tick, mem := t.mem, pkg := { Pkg.reset with
        mini := s.pkg.mini, straps := s.pkg.straps, flash := s.pkg.flash } } ∧
      ∀ a, mread t.mem a = if a < 2 ^ 50 then 0 else mread s.mem a) ∧
    (∀ code : BitVec 4,
      let k := s.pkg.phase
      let version := (Config.imageVersion s.pkg.image).toNat
      let sound := Config.imageSigned s.pkg.image = true ∧ Config.rollback.toNat ≤ version
      let next := { s with pkg := { s.pkg with phase := k + 1 } }
      let Fails := fun (c : Nat) => code.toNat = c → exec (.bootPhaseCompletion false code) s =
        .next { s with pkg := { s.pkg with phase := 15, code := c } }
      (6 ≤ k → ∀ b, exec (.bootPhaseCompletion b code) s = .next s) ∧
      (k < 4 → (k = 2 → sound) → exec (.bootPhaseCompletion true code) s = .next next) ∧
      (k = 2 → ¬ sound → exec (.bootPhaseCompletion true code) s = .next s) ∧
      (k = 4 → ∃ t, exec (.bootPhaseCompletion true code) s = .next t ∧ t.pkg.phase = 5 ∧ t.pkg.badUnits = [] ∧ t.pkg.channels = [] ∧
        ∀ a, mread t.mem a = if a < 2 ^ 50 then 0 else mread s.mem a) ∧
      (k = 5 → ∃ t, exec (.bootPhaseCompletion true code) s = .next t ∧ t.pkg.phase = 6 ∧ t.pkg.number = s.pkg.straps % 64 ∧
        t.pkg.layout = some (s.pkg.flash.getD 0x0302010003) ∧ t.mem = s.mem) ∧
      (k = 1 → Fails 1) ∧ (k = 2 → Config.imageSigned s.pkg.image = false → Fails 2) ∧ (k = 2 → version < Config.rollback.toNat → Fails 3) ∧
      (k = 4 → Fails 4) ∧ (k = 3 → Fails 5) ∧ (k = 5 → exec (.bootPhaseCompletion false code) s = .next s)) ∧
    (∀ f part n, functionPart s f = some (part, n) → ∃ t, exec (.functionLevelReset f) s = .next t ∧
      t.part part = { Part.empty with dies := n } ∧ (∀ x ∈ t.gangs, x.2.part ≠ part) ∧ (∀ x ∈ t.cmds, x.2.part ≠ part) ∧
      (∀ x ∈ t.launches, x.2.part ≠ part) ∧ (∀ a, a < 256 → (t.ctx (spaceKey part a)) = Ctx.empty) ∧
      ((s.part part).asserted = false →
        ((∀ x ∈ s.ctxs, x.1 / 256 = part → hasWork s x.1 = false) → t.mem = s.mem) ∧
        (∀ a, a < 256 → hasWork s (spaceKey part a) = true → (s.ctx (spaceKey part a)).torn = false →
          spaceKey part a ∈ s.ctxs.map (·.1) → (∀ x ∈ s.ctxs, x.1 / 256 = part → x.1 = spaceKey part a) → s.cmds = [] → s.pkg.guests = [] →
          let p := s.part part
          p.dies = n → ringReachable p p.stopBase = true → p.dumpSize = 0 → ∀ d u, d < p.dies → u < 256 →
            mreadBytes t.mem (memKey part (p.stopBase + 65536 * d + 256 * u) + 3) 2 = [16, BitVec.ofNat 8 a])))

/-- R414, R415, R353, R411 to R413: Unfort serves the message that SEND took: it takes a prepared mapping and removes one that it
has not applied, attests, gives the certificate, recovers in phase 15 and refuses to in phase 6, and sets and gives the layout; the answer is d0 with RESULT, and
d1. The attestation report is laid out as R413 has it.
The model's readings and choices in it: the length of the certificate of CERT is a free value between 1 and 65,536
bytes (notes/assumptions/12.md); identity values the manual fuses per part (serial number, rollback counter, image
version, digests, signatures, supply bounds) are opaque constants (notes/assumptions/13.md); the buffers of ATTEST and
CERT are virtual addresses of the context named by d0 (notes/assumptions/68.md); a message with an unknown operation
is never answered, and messages before phase 6 wait (notes/assumptions/69.md); PREPMAP refuses a mapping with V = 0 or
with a count other than its group's (notes/assumptions/70.md); UNMAP of an address that no prepared mapping covers gives
RESULT 1 (notes/assumptions/93.md). -/
def Obligations.Mailbox : Prop :=
  (∀ (s : State) (f : Nat),
    let m := s.mailbox f
    let d := fun (k : Nat) => tget (0 : W64) m.sent k
    let Told := fun (result : Nat) (d1 : W64) (t : State) =>
      (t.mailbox f).busy = false ∧ (t.mailbox f).valid = true ∧ bits (tget 0 (t.mailbox f).toHost 0) 39 32 = result % 256 ∧
      bits (tget 0 (t.mailbox f).toHost 0) 31 0 = bits (d 0) 31 0 ∧ bits (tget 0 (t.mailbox f).toHost 0) 63 40 = bits (d 0) 63 40 ∧
      tget 0 (t.mailbox f).toHost 1 = d1 ∧ t.pkg.hostOut = s.pkg.hostOut ++ [.msi f 3]
    let Answers := fun (result : Nat) (d1 : W64) (base : State) (out : Outcome) => ∃ t, out = .next t ∧ Told result d1 t ∧
      t = { base with pkg := { base.pkg with mailboxes := t.pkg.mailboxes, hostOut := t.pkg.hostOut } }
    let asks := fun (op : Nat) => m.busy = true ∧ bits (d 0) 7 0 = op
    (∀ part n, s.pkg.phase = 6 → functionPart s f = some (part, n) →
      let p := s.part part
      let x : Prepared := { aspace := bits (d 0) 15 8, va := (d 1).toNat, leaf := d 2, level := bits (d 3) 2 0, entries := bits (d 3) 14 8, applied := false }
      let w : Access.Who := { part := part, aspace := bits (d 0) 15 8, die := part, windows := false }
      let Writes := fun (va pa : Nat) (data : List Byte) (result : Nat) (d1 : W64) (out : Outcome) =>
        s.calm = true → Settled s → s.pkg.softUnits = [] →
        (∀ y ∈ unitPieces va data, AtHome s w y.1 y.2.length .write (pa + (y.1 - va))) →
        ∃ t, out = .next t ∧ Told result d1 t ∧ mreadBytes t.mem (memKey part pa) data.length = data ∧
          OnlyAt [(memKey part pa, data.length)] s.mem t.mem
      let NoWrite := fun (va : Nat) (d1 : W64) (out : Outcome) => (Refused s w va .write ∨ Absent s w va) →
        ∃ t, out = .next t ∧ Told 1 d1 t ∧ t.mem = s.mem
      let report := attestReport s f ((List.range 6).map (fun k => d (k + 1)))
      (asks 1 → prepLegal s part x = true → Answers 0 0 (s.setPart part { p with prepared := p.prepared ++ [x] }) (exec (.prepmap f) s)) ∧
      (asks 1 → prepLegal s part x = false → Answers 1 0 s (exec (.prepmap f) s)) ∧
      (∀ y, asks 2 → p.prepared = [y] → y.covers (bits (d 0) 15 8) (d 1).toNat = true →
        (y.applied = false → Answers 0 0 (s.setPart part { p with prepared := [] }) (exec (.unmap f) s)) ∧
        (y.applied = true → Answers 1 0 s (exec (.unmap f) s))) ∧
      (asks 2 → (∀ y ∈ p.prepared, y.covers (bits (d 0) 15 8) (d 1).toNat = false) → Answers 1 0 s (exec (.unmap f) s)) ∧
      (∀ pa, asks 3 → Writes (bits (d 7) 56 0) pa report 0 0 (exec (.attest f) s)) ∧
      (asks 3 → NoWrite (bits (d 7) 56 0) 0 (exec (.attest f) s)) ∧
      (asks 4 → (d 2).toNat < Config.certificate.length → Answers 1 (w64 Config.certificate.length) s (exec (.cert f) s)) ∧
      (∀ pa, asks 4 → Config.certificate.length ≤ (d 2).toNat →
        Writes (d 1).toNat pa Config.certificate 0 (w64 Config.certificate.length) (exec (.cert f) s)) ∧
      (asks 6 → (f ≠ 0 ∨ layoutBad (d 1) = true ∨ anyContextBusy s = true) → Answers 1 (d 1) s (exec (.partcfg f) s)) ∧
      (asks 6 → f = 0 → layoutBad (d 1) = false → anyContextBusy s = false → ∃ t, exec (.partcfg f) s = .next t ∧
        t.pkg.layout = some (d 1) ∧ t.pkg.flash = some (d 1) ∧
        ((∀ y ∈ s.parts, y.2.asserted = false) → (∀ y ∈ s.ctxs, hasWork s y.1 = false) → s.pkg.guests = [] → Told 0 (d 1) t ∧ t.mem = s.mem)) ∧
      (asks 5 → ∀ ok, Answers 1 0 s (exec (.recover f ok) s)) ∧
      (asks 7 → Answers 0 (s.pkg.layout.getD 0) s (exec (.partget f) s))) ∧
    (s.pkg.phase = 15 →
      (let image := mreadBytes s.mem (2 ^ 51 + (d 1).toNat % 2 ^ 50) (d 2).toNat
       asks 5 → Answers 0 0 { s with pkg := { s.pkg with phase := 2, code := 0, image := some image } } (exec (.recover f true) s)) ∧
      (asks 5 → Answers 1 0 s (exec (.recover f false) s)) ∧
      (asks 7 → Answers 1 0 s (exec (.partget f) s))) ∧
    (s.pkg.phase < 6 → exec (.prepmap f) s = .next s ∧ exec (.partget f) s = .next s ∧ exec (.recover f true) s = .next s) ∧
    (m.busy = false → exec (.partget f) s = .next s) ∧
    (∃ t, exec (.mailboxAck f) s = .next t ∧ t.mailbox f = { m with valid := false } ∧ t.mem = s.mem)) ∧
  (∀ (s : State) (f : Nat) (nonce : List W64), nonce.length = 6 →
    let r := attestReport s f nonce
    let field := fun (a n : Nat) => (r.drop a).take n
    let filled := fun (bs : List Byte) (n : Nat) => (List.range n).map (fun k => bs.getD k 0)
    r.length = 512 ∧ field 0 8 = toBytes 8 (1 + 512 * 2 ^ 16) ∧ field 8 8 = toBytes 8 Config.serial.toNat ∧ field 16 48 = wordBytes nonce ∧
    field 64 48 = filled Config.romDigest 48 ∧ field 112 48 = filled (Config.imageDigest s.pkg.image) 48 ∧
    field 160 8 = toBytes 8 (Config.imageVersion s.pkg.image).toNat ∧ field 168 8 = toBytes 8 Config.rollback.toNat ∧
    field 176 8 = toBytes 8 (cap0 s 0).toNat ∧ field 184 8 = toBytes 8 cap1.toNat ∧
    field 192 8 = toBytes 8 (bits (s.pkg.layout.getD 0) 1 0 + s.pkg.number % 64 * 2 ^ 8 + f % 16 * 2 ^ 16) ∧
    field 200 120 = List.replicate 120 0 ∧ field 320 96 = filled (Config.sign (r.take 320)) 96 ∧ field 416 96 = List.replicate 96 0)

/-- R419, R420, R411, R416 and the register tables (R274, R281, R289, R324, R329, R331, R333, R347, R348, R349, R354, R359, R384, R401,
R412, R414, R418): health samples and their flags; the clock goes down and up by steps of 25 between its floor and 1750, and everything
stops on a thermal trip; where the registers of BAR0 lie, how they are read, what those that cannot be written hold, that before
phase 6 only ID, BOOT_STAT and the mailbox do not read 0, and what the host's writes do: fields that can be
written take their bits and the others do not, and a write that is a command is that command.
The model's readings and choices in it: the physical function finds every partition's block, at 0x200000 * (1 + part)
(notes/assumptions/67.md); a write of CTX_PRIV raises LOGSZ where the size it acts as is greater (notes/assumptions/104.md);
ID.STEP reads 0 (notes/assumptions/4.md); FLT_STAT does not count a void record as open (notes/assumptions/11.md); FLOOR is kept between 875 and 1750, and raising it raises ACLK
(notes/assumptions/73.md); the module power reason of CLOCK_THROTTLE is taken from the event
(notes/assumptions/79.md); EN = 0 takes a port down (notes/assumptions/66.md). -/
def Obligations.HealthAndRegisters : Prop :=
  (∀ s : State,
    let P := fun (p : Pkg) => (Host.Outcome.next { s with pkg := p } : Outcome)
    (∀ core v, exec (.healthSample (.temp core v)) s = P { s.pkg with temps := aput s.pkg.temps core ((1 : BitVec 1) ++ v) }) ∧
    (∀ die v, exec (.healthSample (.proc die v)) s = P { s.pkg with procs := aput s.pkg.procs die v }) ∧
    (∀ k (v : BitVec 16), let x := s.supply k
      let y : Supply := { mv := v.toNat, low := x.low || v.toNat < (Config.vlow k).toNat, high := x.high || (Config.vhigh k).toNat < v.toNat }
      exec (.healthSample (.supply k v)) s = P { s.pkg with supplies := aput s.pkg.supplies k y }) ∧
    (∀ k low high, let x := s.supply k
      (s.pkg.phase = 6 →
        exec (.vmonFlagClear k low high) s = P { s.pkg with supplies := aput s.pkg.supplies k { x with low := x.low && !low, high := x.high && !high } }) ∧
      (s.pkg.phase ≠ 6 → exec (.vmonFlagClear k low high) s = .next s)) ∧
    (s.hot = true ↔ ∃ x ∈ s.pkg.temps, bit x.2 12 = true ∧ (BitVec.ofNat 12 s.pkg.twarn.toNat).toInt < (BitVec.ofNat 12 x.2.toNat).toInt) ∧
    (s.lowVoltage = true ↔ ∃ d, d < 16 ∧ (s.supply d).mv < (Config.vlow d).toNat) ∧
    (∀ reason : BitVec 3,
      let Holds := reason ≠ 0 ∧ (bit reason 0 = true → s.hot = true) ∧ (bit reason 1 = true → s.lowVoltage = true)
      (Holds → exec (.clockThrottle reason) s = P { s.pkg with aclk := max s.pkg.floor (s.pkg.aclk - 25), throttled := true, reason := reason }) ∧
      (¬ Holds → exec (.clockThrottle reason) s = .next s)) ∧
    (s.hot = false → s.lowVoltage = false → s.pkg.throttled = true →
      let aclk := min 1750 (s.pkg.aclk + 25)
      exec .clockRestore s = P { s.pkg with aclk := aclk, throttled := decide (aclk < 1750), reason := if aclk < 1750 then s.pkg.reason else 0 }) ∧
    ((s.hot = true ∨ s.lowVoltage = true) → exec .clockRestore s = .next s) ∧
    exec .thermalTrip s = (if s.critical = true then P { s.pkg with tripped := true } else .next s) ∧
    (s.pkg.tripped = true → (∀ i, i ≠ .fundamentalReset → runAction (.event i) s = .next s) ∧ (∀ id b, runAction (.issue id b) s = .next s))) ∧
  (∀ (s : State) (f off : Nat),
    let reg := readRegister s f off
    (s.pkg.tripped = true → ∀ size, readBar0 s f off size = none) ∧
    (regSite s f off = .none → reg = 0) ∧
    (∀ o, regSite s f off = .package o →
      let p := s.pkg
      let m := s.mailbox f
      (o = 0 → reg = if p.mini then 0x714D else 0x7140) ∧ (o = 8 → reg = w64 (p.phase + p.code * 2 ^ 8)) ∧
      (∀ k, k < 8 → (o = 0xF000 + 8 * k → reg = tget 0 m.toFirmware k) ∧ (o = 0xF080 + 8 * k → reg = tget 0 m.toHost k)) ∧
      (o = 0xF040 → reg = if m.busy then 2 else 0) ∧ (o = 0xF0C0 → reg = if m.valid then 1 else 0) ∧
      (p.phase ≠ 6 → o ≠ 0 → o ≠ 8 → o < 0xF000 ∨ 0xF0C8 ≤ o → reg = 0) ∧
      (p.phase = 6 →
        (o = 0x10 → reg = w64 (p.aclk + p.throttled.toNat * 2 ^ 12 + p.reason.toNat * 2 ^ 13 + p.floor * 2 ^ 16)) ∧
        (o = 0x18 → reg = w64 (p.twarn.toNat + 0x730 * 2 ^ 16)) ∧
        (∀ k, k < 160 → o = 0x100 + 8 * k → reg = ((aget p.temps k).getD 0).setWidth 64) ∧
        (∀ k, k < 16 → o = 0x600 + 8 * k → let x := s.supply k; reg = w64 (x.mv % 2 ^ 16 + x.low.toNat * 2 ^ 16 + x.high.toNat * 2 ^ 17)) ∧
        (∀ k, k < 4 → o = 0x680 + 8 * k → reg = w64 ((aget p.procs k).getD 0).toNat) ∧
        (∀ k, k < 16 → o = 0x700 + 8 * k → reg = w64 ((Config.vlow k).toNat + (Config.vhigh k).toNat * 2 ^ 16)) ∧
        (∀ k, k < 8 → let e := s.ecc k
          (o = 0x1100 + 16 * k → reg = w64 (e.corr + e.uncorr * 2 ^ 16)) ∧
          (o = 0x1108 + 16 * k → reg = w64 (e.addr % 2 ^ 52 / 32 * 32 + e.valid.toNat * 2 ^ 63))) ∧
        (∀ k, k < 256 → let c := s.channel k
          (o = 0x2000 + 32 * k → reg =
            w64 (c.cur + c.old * 2 ^ 3 + c.active.toNat * 2 ^ 6 + c.auto.toNat * 2 ^ 7 + c.tgt * 2 ^ 8 + c.bound * 2 ^ 16)) ∧
          (o = 0x2008 + 32 * k → reg = w64 (c.last + c.changes * 2 ^ 32)) ∧
          (o = 0x2010 + 32 * k → reg = w64 (c.pos + scrubLevel s c * 2 ^ 26 + c.passes * 2 ^ 32 + c.missed * 2 ^ 48))) ∧
        (∀ k, k < 18 → o = 0x4000 + 8 * k → let q := s.port k
          reg = w64 (q.up.toNat + q.train.toNat * 2 + q.en.toNat * 2 ^ 2 + q.peer * 2 ^ 8 + q.peerValid.toNat * 2 ^ 14 + q.replays * 2 ^ 16 +
            q.retrains * 2 ^ 32)))) ∧
    (∀ n o, regSite s f off = .part n o → (s.pkg.phase ≠ 6 → reg = 0) ∧ (s.pkg.phase = 6 →
      let p := s.part n
      (o = 0x008 → reg = w64 (p.fltProd.toNat + p.fltCons.toNat * 2 ^ 32)) ∧ (o = 0x018 → reg = w64 (p.hqProd.toNat + p.hqCons.toNat * 2 ^ 32)) ∧
      (o = 0x028 → reg = w64 (((p.dieList n).map (fun d => min 64 (s.die d).hold.length)).sum + p.badResp * 2 ^ 16 +
        min 0xFFFF (p.openRecords.filter (fun x => recordLive s n x.1 x.2)).length * 2 ^ 32)) ∧
      (o = 0x048 → reg = w64 (p.sd.aspace + p.sd.log * 2 ^ 8 + p.sd.all.toNat * 2 ^ 14 + p.busy.toNat * 2 ^ 16)) ∧
      (o = 0x080 → reg = w64 (p.asserted.toNat + p.stopped.toNat * 2 + p.tornDown.toNat * 2 ^ 2 + p.cause * 2 ^ 8 + p.causeAspace * 2 ^ 16 +
        p.count.toNat * 2 ^ 32)) ∧
      (o = 0x0D0 → reg = w64 (p.nqProd.toNat + p.nqCons.toNat * 2 ^ 32)) ∧ (o = 0x0C0 → reg = w64 (p.nthr + p.ndrop * 2 ^ 32)))) ∧
    (∀ key o, regSite s f off = .ctx key o → (s.pkg.phase ≠ 6 → reg = 0) ∧ (s.pkg.phase = 6 →
      let c := s.ctx key
      (o = 0x040 → reg = w64 (c.preBusy.toNat * 2 ^ 2 + c.preOff.toNat * 2 ^ 3 + c.preHeld * 2 ^ 16 + c.preDisc * 2 ^ 32)) ∧
      (o = 0x048 → reg = w64 c.dispatched.toNat) ∧ (o = 0x050 → reg = w64 (readProgress s key)) ∧
      (∀ q, q < 4 → o = 0x110 + 32 * q → reg = w64 ((c.queue q).cons.toNat * 2 ^ 32)))) ∧
    (s.pkg.tripped = false → off % 8 = 0 → readBar0 s f off 8 = some (readRegister s f off) ∧
      readBar0 s f off 4 = some (w64 ((readRegister s f off).toNat % 2 ^ 32)) ∧
      readBar0 s f (off + 4) 4 = some (w64 ((readRegister s f off).toNat / 2 ^ 32))) ∧
    (off % 8 = 0 → off < 0x200000 → regSite s 0 off = .package off ∧
      (f ≠ 0 → regSite s f off = if off < 0x10 ∨ (0xF000 ≤ off ∧ off < 0xF0C8) then .package off else .none)) ∧
    (∀ part n g o k, off % 8 = 0 → (part, n, g) ∈ partitions s → o < 0x10000 → off = 0x200000 * (1 + part) + o → regSite s 0 off = .part part o ∧
      (k < 256 → o < 0x1000 → regSite s 0 (off + 0x10000 + 0x1000 * k) = .ctx (spaceKey part k) o)) ∧
    (∀ part n o k, f ≠ 0 → off % 8 = 0 → functionPart s f = some (part, n) → o < 0x10000 → off = 0x200000 + o → regSite s f off = .part part o ∧
      (k < 256 → o < 0x1000 → regSite s f (off + 0x10000 + 0x1000 * k) = .ctx (spaceKey part k) o))) ∧
  (∀ (s : State) (f off : Nat) (v : W64), f < 16 →
    let W := exec (.registerWrite f off v) s
    let R := fun (t : State) => W = .next t
    let Reads := fun (x : W64) => ∃ t, R t ∧ readRegister t f off = x
    writeBar0 f off 8 v s = W ∧ (∀ size, size ≠ 8 → writeBar0 f off size v s = .next s) ∧
    (regSite s f off = .none → R s) ∧
    (∀ o, s.pkg.phase ≠ 6 → regSite s f off = .package o → ¬(0xF000 ≤ o ∧ o < 0xF0C8) → R s) ∧
    (∀ n o, s.pkg.phase ≠ 6 → (regSite s f off = .part n o ∨ regSite s f off = .ctx n o) → R s) ∧
    (∀ o, regSite s f off = .package o → 0xF000 ≤ o → o < 0xF0C8 →
      let m := s.mailbox f
      (o < 0xF040 → R (s.setMailbox f { m with toFirmware := tset 0 m.toFirmware ((o - 0xF000) / 8) v })) ∧
      (o = 0xF040 → bit v 0 = true → m.busy = false → R (s.setMailbox f { m with busy := true, sent := m.toFirmware })) ∧
      (o = 0xF040 → (bit v 0 = false ∨ m.busy = true) → R s) ∧
      (o = 0xF0C0 → bit v 0 = true → W = exec (.mailboxAck f) s)) ∧
    (s.pkg.phase = 6 → f = 0 → ∀ o, regSite s f off = .package o →
      let p := s.pkg
      (o = 0x10 → let floor := min 1750 (max 875 (bits v 27 16)); R { s with pkg := { p with floor := floor, aclk := max floor p.aclk } }) ∧
      (o = 0x18 → R { s with pkg := { p with twarn := BitVec.ofNat 12 (bits v 11 0) } }) ∧
      (∀ k, k < 16 → o = 0x600 + 8 * k → W = exec (.vmonFlagClear k (bit v 16) (bit v 17)) s) ∧
      (o = 0x1000 → R { s with pkg := { p with cthr := bits v 16 0 } } ∧ Reads (v &&& 0x1FFFF)) ∧
      (o = 0x1008 → R { s with pkg := { p with lowq := bits v 5 0, deadline := bits v 23 8, scrubEn := bit v 24 } } ∧ Reads (v &&& 0x1FFFF3F)) ∧
      (∀ k, k < 8 → o = 0x1100 + 16 * k → W = if bit v 32 = true then exec (.eccCounterClear k) s else .next s) ∧
      (∀ k, k < 8 → o = 0x1108 + 16 * k → W = if bit v 63 = true then exec (.eccAddressValidClear k) s else .next s) ∧
      (∀ k, k < 256 → o = 0x2000 + 32 * k →
        let t := s.setChannel k { s.channel k with auto := bit v 7, tgt := bits v 10 8 }
        W = if bit v 11 = true then exec (.remapGo k (BitVec.ofNat 3 (bits v 10 8))) t else .next t) ∧
      (∀ k, k < 18 → o = 0x4000 + 8 * k →
        let q := s.port k
        (bit v 2 = true → R (s.setPort k { q with en := true })) ∧
        (bit v 2 = false → q.up = false → R (s.setPort k { q with en := false, train := false })) ∧
        (bit v 2 = false → q.up = true → ∃ t, R t ∧ (t.port k).up = false ∧ (t.port k).en = false ∧ (t.port k).buffer = [])) ∧
      (∀ k, k < 64 → o = 0x4100 + 8 * k → R { s with pkg := { p with routes := aput p.routes k (v &&& 0x3F3F3F3F) } } ∧ Reads (v &&& 0x3F3F3F3F))) ∧
    (s.pkg.phase = 6 → ∀ n o, regSite s f off = .part n o →
      let p := s.part n
      let base := fun (lo : Nat) => bits v 56 lo * 2 ^ lo
      (o = 0x000 → R (s.setPart n { p with fltLog := bits v 3 0, fltBase := base 6 }) ∧ Reads (v &&& 0x01FFFFFFFFFFFFCF)) ∧
      (o = 0x008 → R (s.setPart n { p with fltCons := w32 (bits v 63 32) })) ∧
      (o = 0x010 → R (s.setPart n { p with hqLog := bits v 3 0, hqBase := base 6 }) ∧ Reads (v &&& 0x01FFFFFFFFFFFFCF)) ∧
      (o = 0x018 → R (s.setPart n { p with hqCons := w32 (bits v 63 32) })) ∧
      (o = 0x020 → bits v 33 32 = 0 → W = exec (.fltRespReplay n (v.setWidth 32)) s) ∧
      (o = 0x020 → bits v 33 32 = 1 → W = exec (.fltRespRequeue n (v.setWidth 32)) s) ∧
      (o = 0x020 → bits v 33 32 = 2 → W = exec (.fltRespAbort n (v.setWidth 32)) s) ∧
      (o = 0x020 → bits v 33 32 = 3 → R (s.setPart n { p with badResp := min 0xFFFF (p.badResp + 1) })) ∧
      (o = 0x040 → R (s.setPart n { p with sd := { p.sd with va := base 12 } }) ∧ Reads (v &&& 0x01FFFFFFFFFFF000)) ∧
      (o = 0x048 → W = exec (.shootdown n v) s) ∧
      (o = 0x088 → W = if bit v 1 = true then exec (.kill n (bits v 15 8)) s else .next s) ∧
      (o = 0x090 → R (s.setPart n { p with stopBase := base 12 }) ∧ Reads (v &&& 0x01FFFFFFFFFFF000)) ∧
      (o = 0x098 → R (s.setPart n { p with dumpBase := base 12 }) ∧ Reads (v &&& 0x01FFFFFFFFFFF000)) ∧
      (o = 0x0A0 → R (s.setPart n { p with dumpSize := bits v 39 0 }) ∧ Reads (v &&& 0xFFFFFFFFFF)) ∧
      (o = 0x0C0 → W = if bit v 16 = true then exec (.accessCounterClear n) (s.setPart n { p with nthr := bits v 15 0 })
        else .next (s.setPart n { p with nthr := bits v 15 0 })) ∧
      (o = 0x0C8 → R (s.setPart n { p with nqLog := bits v 3 0, nqBase := base 4 }) ∧ Reads (v &&& 0x01FFFFFFFFFFFFFF)) ∧
      (o = 0x0D0 → R (s.setPart n { p with nqCons := w32 (bits v 63 32) })) ∧
      (o = 0x100 → R (s.setPart n { p with lnkAccept := v }) ∧ Reads v) ∧
      (o = 0x108 → R (s.setPart n { p with octCfg := v &&& 0xFFFFFFFFFFFFFF0F }) ∧ Reads (v &&& 0xFFFFFFFFFFFFFF0F)) ∧
      (o = 0x110 → R (s.setPart n { p with octTown := v &&& 0x01FFFFFFFFFFFFFF }) ∧ Reads (v &&& 0x01FFFFFFFFFFFFFF)) ∧
      (o = 0x118 → R (s.setPart n { p with collGt := v &&& 0x01FFFFFFFFFF8000 }) ∧ Reads (v &&& 0x01FFFFFFFFFF8000))) ∧
    (s.pkg.phase = 6 → ∀ key o, regSite s f off = .ctx key o →
      let c := s.ctx key
      let size := fun (n : Nat) => max 16 (min 40 n)
      let Sets := fun (c1 : Ctx) (mask : W64) => R (s.setCtx key c1) ∧ Reads (v &&& mask)
      (o = 0x000 → (workPlaced s key = true → R (s.setCtx key { c with en := bit v 0 })) ∧
        (workPlaced s key = false → (bit v 1 = false ∨ bit (cap0 s (key / 256)) 5 = true) →
          R (s.setCtx key { c with en := bit v 0, becalm := bit v 1, scheck := bit v 2 }) ∧ Reads (v &&& 7))) ∧
      (o = 0x008 → Sets { c with root := bits v 51 12 * 4096 } 0x000FFFFFFFFFF000) ∧
      (o = 0x010 → Sets { c with pasid := bits v 19 0, pv := bit v 20 } 0x1FFFFF) ∧
      (o = 0x018 →
        (workPlaced s key = false ∨ (bits v 56 12 * 4096 = c.privBase ∧ size c.privLog < size (bits v 5 0)) →
          Sets { c with privLog := bits v 5 0, privBase := bits v 56 12 * 4096 } 0x01FFFFFFFFFFF03F) ∧
        (workPlaced s key = true → (bits v 56 12 * 4096 ≠ c.privBase ∨ size (bits v 5 0) ≤ size c.privLog) → R s)) ∧
      (o = 0x040 → (bit v 0 = bit v 1 → R s) ∧
        (bit v 0 = true → bit v 1 = false → W = exec (.preemptionRequest (key / 256) (key % 256)) s) ∧
        (bit v 0 = false → bit v 1 = true → W = exec (.preemptionResume (key / 256) (key % 256)) s)) ∧
      ((o = 0x080 ∨ o = 0x088 ∨ o = 0x090 ∨ o = 0x098) → workPlaced s key = true → R s) ∧
      (workPlaced s key = false →
        (o = 0x080 → Sets { c with stashBase := v &&& 0x01FFFFFFFFFFF000 } 0x01FFFFFFFFFFF000) ∧
        (o = 0x088 → Sets { c with stashCfg := v &&& 0xFFFF001F } 0xFFFF001F) ∧
        (o = 0x090 → Sets { c with stashOcc := v &&& 0x01FFFFFFFFFFFFFC } 0x01FFFFFFFFFFFFFC) ∧
        (o = 0x098 → Sets { c with stashSpill := v &&& 0x01FFFFFFFFFFF001 } 0x01FFFFFFFFFFF001)) ∧
      (∀ q, q < 4 →
        (o = 0x100 + 32 * q → Sets (c.setQueue q { c.queue q with q := bits v 4 0, base := bits v 56 7 * 128 }) 0x01FFFFFFFFFFFF9F) ∧
        (o = 0x108 + 32 * q → Sets (c.setQueue q { c.queue q with consAddr := bits v 56 3 * 8 }) 0x01FFFFFFFFFFFFF8) ∧
        (o = 0x110 + 32 * q → W = exec (.launchDoorbell (key / 256) (key % 256) q (v.setWidth 32)) s))))

/-! The whole machine. -/

/-- R45, R49, R50, R51, R68: a step whose move is a slot's issue, ready and not put off by its bench, fetches the group at the slot's
program counter, through the core's translation buffer from the core's instruction cache or else from memory, and is the
group's instruction executed at that state, or the fault of a malformed group, and then what follows every move; a step
whose move is a step of the part executes that.
The model's readings and choices in it: the manual does not order the moves of its many agents
(notes/assumptions/1.md). -/
def Obligations.StepsExecuteTheFetchedGroup : Prop :=
  ∀ (s : State) (rest : List Action), s.pkg.tripped = false →
    let s0 := { s with todo := rest, tick := s.tick + 1 }
    (∀ i, s.todo = .event i :: rest → step s = follow (exec i { s0 with cur := none })) ∧
    (∀ (id : Nat) (b : Bool) (g : Gang) (ws : List W32), s.todo = .issue id b :: rest → aget s.gangs id = some g → ready s g b = true →
      outranked s0 id g b = false → (s.ctx (spaceKey g.part g.aspace)).torn = false → s.pkg.softUnits = [] →
      let pc := (g.slot b).pc
      let space := spaceKey g.part g.aspace
      let word := fun (k : Nat) => aget (s.core g.core).icache (space, pc.toNat + 4 * k)
      let AtHome4 := fun (va : Nat) (w : W32) => ∃ t, tlbFind space va (s.core g.core).tlb = some t ∧ leafAdmits .fetch t.leaf = true ∧
        let pa := entryPA t.leaf + va % 2 ^ t.log
        aperture pa = 0 ∧ s.bad (memKey g.part pa) = false ∧ mreadNat s.mem (memKey g.part pa) 4 = w.toNat
      let Cached := fun (va : Nat) => ∃ t, tlbFind space va (s.core g.core).tlb = some t ∧ leafAdmits .fetch t.leaf = true ∧
        aperture (entryPA t.leaf + va % 2 ^ t.log) = 0
      pc.toNat % 4 = 0 → pc.toNat + 4 * ws.length ≤ 2 ^ 57 →
      ((∀ k w, ws[k]? = some w → word k = none ∧ AtHome4 (pc.toNat + 4 * k) w) ∨
        (∀ k w, ws[k]? = some w → word k = some w ∧ Cached (pc.toNat + 4 * k))) →
      let Runs := fun (i : Instr) => ∃ cores,
        let t := { s0 with cores := cores, cur := some { gang := id, slotB := b, pc := pc, major := bits (encodeWord i) 31 26 } }
        (∀ n, t.core n = if n = g.core then { s.core n with icache := (t.core n).icache } else s.core n) ∧
        step s = follow (match exec i t with
          | .next u => .next (notePassed s0 id g b (u.answered g.part (.slot id b)))
          | x => x)
      (∀ i, decode ws = .ok (i, []) → Runs i) ∧
      (∀ e, decode ws = .error e → e ≠ .truncated → ∃ cores,
        let t := { s0 with cores := cores, cur := some { gang := id, slotB := b, pc := pc } }
        (∀ n, t.core n = if n = g.core then { s.core n with icache := (t.core n).icache } else s.core n) ∧
        step s = follow (exec .illegalOp t)))

/-- R47, R50, R53 to R61, R69: the words of a well-formed instruction decode to it, with every field of its operands, its prefix, its
long immediates and its hints at every value the encoding admits; and what decodes is well formed and has an encoding. -/
def Obligations.DecodeOfEncode : Prop :=
  (∀ (i : Instr) (rest : List W32), i.encoded = true → i.wf = true → decode (encode i ++ rest) = .ok (i, rest)) ∧
  (∀ (ws rest : List W32) (i : Instr), decode ws = .ok (i, rest) → i.encoded = true ∧ i.wf = true)

/-- R47, R53, R56, R59 to R61: words of the encoding tables and the instructions they stand for, alone and under a prefix, `limm`
words, a modifier hint and an extended stall count; and words that are none. -/
def Obligations.WordsDecode : Prop :=
  let A := Grp.alone 0
  decode [0x04954209] = .ok (.sadr3 A { d := 20, a := 8, b := 9 }, []) ∧
  decode [0xFD000012, 0xFD345678, 0x08149ABC] = .ok (.sli { A with limms := [0x12, 0x345678] } { d := 20, imm := 0x9ABC }, []) ∧
  decode [0x1425FFFA] = .ok (.brnz A { a := 9, off := 0xFFFA }, []) ∧
  decode [0xF8913420, 0x30650A96] = .ok (.vfma { A with pfx := some { Pfx.default with mask := 1, rnd := 1, op4 := 9, zero := true, typ := 8, negb := true } }
    { d := 20, a := 21, b := 22 }, []) ∧
  decode [0xFF000002, 0x53C04000] = .ok (.vlane { Grp.alone 3 with ext := some 2 } { d := 1 }, []) ∧
  decode [0xFE00001E, 0x60910207] = .ok (.vld32 { A with modifier := some { policy := 2, nt := true, line := 3 } } { byp := true, ds := 8, sb := 4, vo := 7 }, []) ∧
  decode [0x7C040005] = .ok (.trel A { t := 5 }, []) ∧
  decode [0x80021886] = .ok (.mmaF16 A { na := false, nb := false, zc := true, c := 3, va := 2, vb := 3, ext := false }, []) ∧
  decode [0x9800109E] = .ok (.trace A { n := 1, g := 2, k := 30 }, []) ∧
  decode [0] = .error .reservedMajor ∧ decode [0xF8000001, 0x2002858C] = .error .reservedField ∧ decode [0xF8000000, 0xF8000000] = .error .structure

/-- R11: every step that goes on keeps memory in its one canonical form, so that equal memories are equal data. -/
def Obligations.StepsKeepMemoryCanonical : Prop :=
  ∀ s t : State, Canonical s → step s = .next t → Canonical t

/-- R356, R359, R411, R415, R419, R420: every step that goes on keeps the package orderly: PHASE one of the phases of bring-up, the clock
between its floor and 1750 MHz and throttled below that, the layout in force and the one stored such as PARTCFG takes, and on
every squall line TORN only with STOPPED and STOPPED only with ASSERTED.
The model's choice in it: FLOOR is kept between 875 and 1750 (notes/assumptions/73.md). -/
def Obligations.StepsKeepThePackageOrderly : Prop :=
  ∀ s t : State, Orderly s → step s = .next t → Orderly t

/-- R11: memory is in canonical form at reset.
R324, R331, R347, R354, R359, R384, R411, R414, R418, R419: the values that registers have after reset.
The model's readings and choices in it: what host memory and other packages' memory hold before anything is written
has no value in the manual (notes/assumptions/5.md); FUNDAMENTAL_RESET gives phase 0, and the next completion phase 1
(notes/assumptions/72.md). -/
def Obligations.ResetState : Prop :=
  Canonical State.reset ∧ Orderly State.reset ∧
   (let s := State.reset
    (s.pkg.phase = 0 ∧ s.pkg.code = 0 ∧ s.pkg.cthr = 16384 ∧ s.pkg.lowq = 8 ∧ s.pkg.deadline = 0xFFFF ∧ s.pkg.scrubEn = true ∧
      s.pkg.twarn = 0x5F0 ∧ s.pkg.aclk = 1750 ∧ s.pkg.throttled = false ∧ s.pkg.floor = 875 ∧ s.gangs = [] ∧ s.crews = [] ∧ s.launches = []) ∧
    (∀ k, let c := s.channel k
      c.cur = 0 ∧ c.old = 0 ∧ c.active = false ∧ c.auto = true ∧ c.tgt = 0 ∧ c.bound = 0 ∧ c.pos = 0 ∧ c.passes = 0 ∧ c.missed = 0) ∧
    (∀ n, let p := s.port n
      p.up = false ∧ p.train = false ∧ p.en = true ∧ p.peerValid = false ∧ p.replays = 0 ∧ p.retrains = 0) ∧
    (∀ n, let p := s.part n
      p.fltLog = 0 ∧ p.fltBase = 0 ∧ p.fltProd = 0 ∧ p.fltCons = 0 ∧ p.hqProd = 0 ∧ p.hqCons = 0 ∧ p.sd.va = 0 ∧ p.sd.aspace = 0 ∧
      p.sd.log = 12 ∧ p.sd.all = false ∧ p.shoots = [] ∧ p.asserted = false ∧ p.stopped = false ∧ p.tornDown = false ∧ p.cause = 0 ∧
      p.count = 0 ∧ p.stopBase = 0 ∧ p.dumpBase = 0 ∧ p.dumpSize = 0 ∧ p.nthr = 0 ∧ p.ndrop = 0 ∧ p.lnkAccept = 0 ∧ p.octCfg = 0) ∧
    (∀ k, let c := s.ctx k
      c.en = false ∧ c.becalm = false ∧ c.scheck = false ∧ c.root = 0 ∧ c.pasid = 0 ∧ c.pv = false ∧ c.privLog = 0 ∧ c.privBase = 0 ∧
      c.preBusy = false ∧ c.preOff = false ∧ c.preHeld = 0 ∧ c.preDisc = 0 ∧ c.dispatched = 0) ∧
    (∀ f, s.mailbox f = { toFirmware := [], sent := [], busy := false, toHost := [], valid := false }) ∧ (∀ n, (s.core n).cyc = 0) ∧
    (∀ k, s.supply k = { mv := 0, low := false, high := false }))
end

