-- ==== Sys2Proof/Laws/Tab.lean ====
section
/-! SUPPORT. Laws of the tables: what a read gives after a write, and what the stable sort keeps. -/

namespace Sys2Proof.Machine

variable {α κ : Type}

theorem tget_tset_same (d : α) (l : List α) (i : Nat) (v : α) : tget d (tset d l i v) i = v := by
  induction i generalizing l with
  | zero => cases l <;> rfl
  | succ i ih => cases l <;> simpa [tset, tget] using ih _

theorem tget_tset_other (d : α) (l : List α) {i j : Nat} (v : α) (h : j ≠ i) : tget d (tset d l i v) j = tget d l j := by
  induction i generalizing l j with
  | zero => cases j with
    | zero => exact absurd rfl h
    | succ j => cases l <;> simp [tset, tget]
  | succ i ih => cases j with
    | zero => cases l <;> simp [tset, tget]
    | succ j =>
      have h' : j ≠ i := fun e => h (by rw [e])
      cases l with
      | nil => simpa [tset, tget] using ih [] h'
      | cons x t => simpa [tset, tget] using ih t h'

theorem tget_tset (d : α) (l : List α) (i j : Nat) (v : α) : tget d (tset d l i v) j = if j = i then v else tget d l j := by
  split
  · next h => rw [h, tget_tset_same]
  · next h => exact tget_tset_other d l v h

/-- An entry of a mapped range. -/
theorem tget_map_range (d : α) (f : Nat → α) (n i : Nat) : tget d ((List.range n).map f) i = if i < n then f i else d := by
  unfold tget
  split
  · next h => simp [List.getD, h]
  · next h => simp [List.getD, h]

variable [DecidableEq κ]

@[simp] theorem aget_aput_same (l : List (κ × α)) (k : κ) (v : α) : aget (aput l k v) k = some v := by
  induction l with
  | nil => simp [aput, aget]
  | cons x t ih =>
    obtain ⟨a, w⟩ := x
    by_cases h : a = k
    · simp [aput, aget, h]
    · simp [aput, aget, h, ih]

theorem aget_aput_other (l : List (κ × α)) {k j : κ} (v : α) (h : j ≠ k) : aget (aput l k v) j = aget l j := by
  induction l with
  | nil => simp [aput, aget, Ne.symm h]
  | cons x t ih =>
    obtain ⟨a, w⟩ := x
    by_cases hk : a = k
    · subst hk; simp [aput, aget, Ne.symm h]
    · by_cases hj : a = j
      · subst hj; simp [aput, aget, hk]
      · simp [aput, aget, hk, hj, ih]

@[simp] theorem aput_aput (l : List (κ × α)) (k : κ) (v w : α) : aput (aput l k v) k w = aput l k w := by
  induction l with
  | nil => simp [aput]
  | cons x t ih =>
    obtain ⟨a, u⟩ := x
    by_cases h : a = k <;> simp [aput, h, ih]

@[simp] theorem aget_adel_same (l : List (κ × α)) (k : κ) : aget (adel l k) k = none := by
  induction l with
  | nil => rfl
  | cons x t ih =>
    obtain ⟨a, w⟩ := x
    by_cases h : a = k <;> simp [adel, aget, h, ih]

theorem aget_adel_other (l : List (κ × α)) {k j : κ} (h : j ≠ k) : aget (adel l k) j = aget l j := by
  induction l with
  | nil => rfl
  | cons x t ih =>
    obtain ⟨a, w⟩ := x
    by_cases hk : a = k
    · subst hk; simp [adel, aget, Ne.symm h, ih]
    · by_cases hj : a = j
      · subst hj; simp [adel, aget, hk]
      · simp [adel, aget, hk, hj, ih]

theorem mem_insertFront (lt : α → α → Bool) (x y : α) (l : List α) : y ∈ insertFront lt x l ↔ y = x ∨ y ∈ l := by
  induction l with
  | nil => simp [insertFront]
  | cons a t ih =>
    by_cases h : lt a x = true
    · simp [insertFront, h, ih]; tauto
    · simp [insertFront, h]

theorem mem_sortBy (lt : α → α → Bool) (y : α) (l : List α) : y ∈ sortBy lt l ↔ y ∈ l := by
  induction l with
  | nil => simp [sortBy]
  | cons a t ih => simp [sortBy, mem_insertFront, ih]

/-- Elements none of which comes before another keep their order. -/
theorem sortBy_const (lt : α → α → Bool) (l : List α) (h : ∀ x ∈ l, ∀ y ∈ l, lt x y = false) : sortBy lt l = l := by
  induction l with
  | nil => rfl
  | cons a t ih =>
    rw [sortBy, ih (fun x hx y hy => h x (by simp [hx]) y (by simp [hy]))]
    cases t with
    | nil => rfl
    | cons b u => simp [insertFront, h b (by simp) a (by simp)]

/-- A fold whose steps all leave the state as it is leaves it. -/
theorem foldl_still {β : Type} (f : β → α → β) (l : List α) (s : β) (h : ∀ x ∈ l, f s x = s) : l.foldl f s = s := by
  induction l with
  | nil => rfl
  | cons x rest ih => rw [List.foldl_cons, h x (by simp)]; exact ih (fun y hy => h y (by simp [hy]))

end Sys2Proof.Machine
end

