-- ==== Sys2Proof/Laws/Order.lean ====
section
/-! SUPPORT. Laws of what an access brings about before and after itself: what its party may not find undone (R303, R309, R314), and the tests
of what waits (R182, R262). -/

namespace Sys2Proof.Machine

/-- In a calm state nothing comes first of an access. -/
theorem observe_calm {s : State} (h : s.calm = true) (p : Party) (skip : Option Nat) (key n : Nat) (write : Bool) :
    observe s p skip key n write = s := by simp [observe, h]

/-- Nothing comes first of an access of commit `k` where only its own entries are early. -/
theorem observe_own {s : State} {k : Nat} (h1 : s.pkg.homeOps = []) (h2 : ∀ j a, s.acks[j]? = some a → j ≠ k → a.early = [])
    (h3 : ∀ x ∈ s.gangs, ∀ l ∈ x.2.loads, l.passed = none) (p : Party) (key n : Nat) (write : Bool) :
    observe s p (some k) key n write = s := by
  have home : ∀ touch, forceHomeOps touch s key n = s := fun touch => by
    have : s = { s with pkg := { s.pkg with homeOps := [] } } := by rw [← h1]
    simp [forceHomeOps, h1, ← this]
  have early : ∀ touch j, j ≠ k → forceEarly touch s p key n j = s := fun touch j hj => by
    unfold forceEarly
    cases ha : s.acks[j]? with
    | none => rfl
    | some a => simp [Ack.overtaken, h2 j a ha hj]
  have passed : ∀ touch, forcePassed touch s p key n = s := fun touch => by
    refine foldl_still _ _ _ (fun x hx => ?_)
    simp only [List.isEmpty_iff, List.filter_eq_nil_iff]
    rw [if_pos]
    intro l hl
    simp [h3 x hx l hl]
  unfold observe
  split
  · rfl
  · rw [observeN]
    simp only [home]
    rw [foldl_still _ _ s (fun j _ => by
      by_cases hj : j = k
      · simp [hj]
      · simp [Ne.symm hj, early _ j hj])]
    split
    · exact passed _
    · rfl

/-- The tests that follow a change of state find nothing that waits. -/
theorem testSteps_still {s : State} (h : s.waits = false) : testSteps s = s := by simp [testSteps, h]

/-- The tests that follow a change of state change nothing where all that waits has been found to hold. -/
theorem testSteps_settled {s : State} (h : Settled s) : testSteps s = s := by
  have watches : observeWatches s = s := by
    unfold observeWatches
    split
    · rfl
    · dsimp only
      rw [foldl_still _ s.gangs s (fun x hx => by
        cases hp : x.2.phase with
        | waiting w => simp [hp, (h.steps x hx w hp).2]
        | running => simp [hp]
        | ended => simp [hp])]
      exact foldl_still _ _ _ (fun x hx => by simp [h.starts x hx])
  have steps : retest s = s := by
    have : s.gangs.map (fun ((id, g) : Nat × Gang) => (id, match g.phase with | .waiting _ => testGang s id g | _ => g)) = s.gangs := by
      conv_rhs => rw [← List.map_id s.gangs]
      refine List.map_congr_left (fun x hx => ?_)
      cases hp : x.2.phase with
      | waiting w => simp [testGang, hp, (h.steps x hx w hp).1]
      | running => simp [hp]
      | ended => simp [hp]
    exact congrArg (fun gs => { s with gangs := gs }) this
  have starts : testStarts s (fun _ => false) = s :=
    foldl_still _ _ _ (fun x hx => by simp [Launch.tests, h.starts x hx])
  have past : ({ s with past := [] } : State) = s := by rw [← h.tested]
  unfold testSteps
  split
  · simp only [testAll, watches, h.tested, List.foldl_nil, past, steps, starts]
  · rfl

end Sys2Proof.Machine
end

