-- ==== Sys2Proof/Laws/Engine.lean ====
section
/-! SUPPORT. Laws of the accesses that engines and front ends make at virtual addresses: what one gives that is served at once, and one
whose page refuses it or is not resident (R38, R212, R328, R329, R342). -/

namespace Sys2Proof.Machine

theorem isWindow_low {va : Nat} (h : va < 2 ^ 57) : isWindow va = false := by
  have : va / 2 ^ 48 < 0xFE00 := by omega
  simp [isWindow]; omega

theorem memKey_low {part pa : Nat} (h : memKey part pa < 2 ^ 50) : pa < 2 ^ 50 ∧ aperture pa = 0 ∧ aperture (memKey part pa) = 0 := by
  have h1 : pa < 2 ^ 50 := by
    unfold memKey at h; split at h
    · assumption
    · exact h
  exact ⟨h1, by unfold aperture; omega, by unfold aperture; omega⟩

/-- An access that is served at once finds local memory, and changes nothing. -/
theorem AtHome.siteOf_eq {s : State} {w : Access.Who} {va n pa : Nat} {need : Need} (h : AtHome s w va n need pa) :
    ∃ scene, (scene = true → octetOthers s w.part = []) ∧ siteOf s w va need = (s, .ok (.home w.part pa scene, false)) := by
  obtain ⟨t, h1, h2, h3, h4, h5⟩ := h.held
  have h6 := memKey_low h.near
  have h7 : ¬ 2 ^ 57 ≤ va := by have := h.low; omega
  refine ⟨leafScene t.leaf, h5, ?_⟩
  simp only [siteOf, isWindow_low h.low, State.xlate, State.xlateFrom, h.whole, if_neg h7, State.coreTlb, Option.bind_none, h1, State.keepTlb,
    useLeaf, h2, ← h4, h6.2.1, State.unreachable, State.refuses, State.trains]
  simp [h6.2.1, h3]

theorem AtHome.locate_eq {s : State} {w : Access.Who} {va n m pa : Nat} {need : Need} (h : AtHome s w va n need pa) (hc : s.calm = true) :
    ∃ scene, (scene = true → octetOthers s w.part = []) ∧ locate s w va need m = (s, .ok (.home w.part pa scene)) := by
  obtain ⟨scene, h1, h2⟩ := h.siteOf_eq
  exact ⟨scene, h1, by simp [locate, h2, reachSite, observe_calm hc]⟩

/-- A read that is served at once gives the bytes of memory, and changes nothing. -/
theorem AtHome.engRead_eq {s : State} {w : Access.Who} {va n pa : Nat} (h : AtHome s w va n .read pa) (hc : s.calm = true)
    (hs : s.pkg.softUnits = []) :
    engRead s w va n = (s, .ok (mreadBytes s.mem (memKey w.part pa) n)) := by
  obtain ⟨scene, -, h2⟩ := h.locate_eq (m := n) hc
  have h3 := memKey_low h.near
  simp only [engRead, h2, readSite, correctUnits, hs, List.isEmpty_nil, if_true, State.linkFor, h3.2.1, h.sound]
  simp

theorem storeHome_sound {s : State} {part pa : Nat} {data : List Byte} (hk : memKey part pa < 2 ^ 50) (hs : s.pkg.softUnits = [])
    (hb : s.badUnit (memKey part pa) data.length = none) :
    storeHome s part pa data = .ok { s with mem := mwriteBytes s.mem (memKey part pa) data } := by
  have h1 : ∀ u ∈ unitsOf (memKey part pa) data.length, s.pkg.badUnits.contains u = false := by
    simpa [State.badUnit, List.find?_eq_none] using hb
  have h2 : (unitsOf (memKey part pa) data.length).find? (fun u => s.pkg.badUnits.contains u && !coversUnit (memKey part pa) data.length u) = none :=
    List.find?_eq_none.2 (fun u hu => by rw [h1 u hu, Bool.false_and]; exact Bool.false_ne_true)
  have h3 : ∀ (l : List Nat), l.foldl (fun s u => correctUnits s part (32 * u) 1) s = s := by
    intro l; induction l with
    | nil => rfl
    | cons u l ih => rw [List.foldl_cons, show correctUnits s part (32 * u) 1 = s by simp [correctUnits, hs]]; exact ih
  have h4 : s.pkg.badUnits.filter (fun u => !(unitsOf (memKey part pa) data.length).contains u) = s.pkg.badUnits := by
    rw [List.filter_eq_self]
    intro u hu
    by_cases hm : u ∈ unitsOf (memKey part pa) data.length
    · have := h1 u hm; simp [hu] at this
    · simp [hm]
  simp only [storeHome, h2, h3]
  rw [State.touch.eq_def, (memKey_low hk).2.2]
  simp only [State.freshUnits, hs, List.isEmpty_nil, Bool.and_true, List.filter_nil, h4]
  split
  · rfl
  · obtain ⟨todo, tick, cur, loose, mem, gangs, crews, barriers, launches, cores, dies, ctxs, parts, pkg, serial, cmds, failed, markers, acks, answers, past⟩ := s
    have : pkg.softUnits = [] := hs
    rw [← this]

/-- A write that is served at once changes its bytes of memory, and nothing else. -/
theorem AtHome.engWrite_eq {s : State} {w : Access.Who} {va pa : Nat} {data : List Byte} (h : AtHome s w va data.length .write pa)
    (hc : s.calm = true) (hw : Settled s) (hs : s.pkg.softUnits = []) :
    engWrite s w va data = ({ s with mem := mwriteBytes s.mem (memKey w.part pa) data }, .ok ()) := by
  obtain ⟨scene, h1, h2⟩ := h.locate_eq (m := data.length) hc
  have h3 : (scene && decide (aperture pa = 0) && !(octetOthers s w.part).isEmpty && !sceneReady s [memKey w.part pa / 128]) = false := by
    cases scene with
    | false => rfl
    | true => simp [h1 rfl]
  have h4 : testSteps { s with mem := mwriteBytes s.mem (memKey w.part pa) data } = { s with mem := mwriteBytes s.mem (memKey w.part pa) data } :=
    testSteps_settled ⟨hw.steps, hw.starts, hw.tested⟩
  simp [engWrite, h2, writeSite, h3, storeHome_sound h.near hs h.sound, h4]

/-- A page that refuses an access is found without a change. -/
theorem Refused.siteOf_eq {s : State} {w : Access.Who} {va : Nat} {need : Need} (h : Refused s w va need) : siteOf s w va need = (s, .error .perm) := by
  obtain ⟨t, h1, h2⟩ := h.held
  have h7 : ¬ 2 ^ 57 ≤ va := by have := h.low; omega
  simp only [siteOf, isWindow_low h.low, State.xlate, State.xlateFrom, h.whole, if_neg h7, State.coreTlb, Option.bind_none, h1, State.keepTlb,
    useLeaf, h2]
  simp

theorem Refused.locate_eq {s : State} {w : Access.Who} {va : Nat} {need : Need} (h : Refused s w va need) (m : Nat) :
    locate s w va need m = (s, .error .perm) := by
  simp [locate, h.siteOf_eq]

/-- A page that is not resident is found so, with no soft error corrected where there is none. -/
theorem Absent.locate_eq {s : State} {w : Access.Who} {va : Nat} {need : Need} (h : Absent s w va) (hs : s.pkg.softUnits = []) (m : Nat) :
    locate s w va need m = (s, .error (.miss none)) := by
  have h7 : ¬ 2 ^ 57 ≤ va := by have := h.low; omega
  have h8 : s.walked w.part w.aspace va = s := by
    simp [State.walked, hs]
  simp only [locate, siteOf, isWindow_low h.low, State.xlate, State.xlateFrom, h.whole, if_neg h7, State.coreTlb, Option.bind_none, h.notHeld, h.walk, h8]
  simp

end Sys2Proof.Machine
end

