-- ==== Sys2Proof/Laws/State.lean ====
section
/-! SUPPORT. What each update of the state, of a gang and of a slot does to each field: one lemma a field. -/

namespace Sys2Proof.Machine

@[simp] theorem State.setGang_todo (s : State) (id : Nat) (g : Gang) : (s.setGang id g).todo = s.todo := rfl
@[simp] theorem State.setGang_tick (s : State) (id : Nat) (g : Gang) : (s.setGang id g).tick = s.tick := rfl
@[simp] theorem State.setGang_cur (s : State) (id : Nat) (g : Gang) : (s.setGang id g).cur = s.cur := rfl
@[simp] theorem State.setGang_loose (s : State) (id : Nat) (g : Gang) : (s.setGang id g).loose = s.loose := rfl
@[simp] theorem State.setGang_mem (s : State) (id : Nat) (g : Gang) : (s.setGang id g).mem = s.mem := rfl
@[simp] theorem State.setGang_gangs (s : State) (id : Nat) (g : Gang) : (s.setGang id g).gangs = aput s.gangs id g := rfl
@[simp] theorem State.setGang_crews (s : State) (id : Nat) (g : Gang) : (s.setGang id g).crews = s.crews := rfl
@[simp] theorem State.setGang_barriers (s : State) (id : Nat) (g : Gang) : (s.setGang id g).barriers = s.barriers := rfl
@[simp] theorem State.setGang_launches (s : State) (id : Nat) (g : Gang) : (s.setGang id g).launches = s.launches := rfl
@[simp] theorem State.setGang_cores (s : State) (id : Nat) (g : Gang) : (s.setGang id g).cores = s.cores := rfl
@[simp] theorem State.setGang_dies (s : State) (id : Nat) (g : Gang) : (s.setGang id g).dies = s.dies := rfl
@[simp] theorem State.setGang_ctxs (s : State) (id : Nat) (g : Gang) : (s.setGang id g).ctxs = s.ctxs := rfl
@[simp] theorem State.setGang_parts (s : State) (id : Nat) (g : Gang) : (s.setGang id g).parts = s.parts := rfl
@[simp] theorem State.setGang_pkg (s : State) (id : Nat) (g : Gang) : (s.setGang id g).pkg = s.pkg := rfl
@[simp] theorem State.setGang_serial (s : State) (id : Nat) (g : Gang) : (s.setGang id g).serial = s.serial := rfl
@[simp] theorem State.setGang_cmds (s : State) (id : Nat) (g : Gang) : (s.setGang id g).cmds = s.cmds := rfl
@[simp] theorem State.setGang_failed (s : State) (id : Nat) (g : Gang) : (s.setGang id g).failed = s.failed := rfl
@[simp] theorem State.setGang_markers (s : State) (id : Nat) (g : Gang) : (s.setGang id g).markers = s.markers := rfl
@[simp] theorem State.setGang_acks (s : State) (id : Nat) (g : Gang) : (s.setGang id g).acks = s.acks := rfl
@[simp] theorem State.setGang_answers (s : State) (id : Nat) (g : Gang) : (s.setGang id g).answers = s.answers := rfl
@[simp] theorem State.setGang_past (s : State) (id : Nat) (g : Gang) : (s.setGang id g).past = s.past := rfl

@[simp] theorem State.setCore_todo (s : State) (n : Nat) (c : Core) : (s.setCore n c).todo = s.todo := rfl
@[simp] theorem State.setCore_tick (s : State) (n : Nat) (c : Core) : (s.setCore n c).tick = s.tick := rfl
@[simp] theorem State.setCore_cur (s : State) (n : Nat) (c : Core) : (s.setCore n c).cur = s.cur := rfl
@[simp] theorem State.setCore_loose (s : State) (n : Nat) (c : Core) : (s.setCore n c).loose = s.loose := rfl
@[simp] theorem State.setCore_mem (s : State) (n : Nat) (c : Core) : (s.setCore n c).mem = s.mem := rfl
@[simp] theorem State.setCore_gangs (s : State) (n : Nat) (c : Core) : (s.setCore n c).gangs = s.gangs := rfl
@[simp] theorem State.setCore_crews (s : State) (n : Nat) (c : Core) : (s.setCore n c).crews = s.crews := rfl
@[simp] theorem State.setCore_barriers (s : State) (n : Nat) (c : Core) : (s.setCore n c).barriers = s.barriers := rfl
@[simp] theorem State.setCore_launches (s : State) (n : Nat) (c : Core) : (s.setCore n c).launches = s.launches := rfl
@[simp] theorem State.setCore_cores (s : State) (n : Nat) (c : Core) : (s.setCore n c).cores = aput s.cores n c := rfl
@[simp] theorem State.setCore_dies (s : State) (n : Nat) (c : Core) : (s.setCore n c).dies = s.dies := rfl
@[simp] theorem State.setCore_ctxs (s : State) (n : Nat) (c : Core) : (s.setCore n c).ctxs = s.ctxs := rfl
@[simp] theorem State.setCore_parts (s : State) (n : Nat) (c : Core) : (s.setCore n c).parts = s.parts := rfl
@[simp] theorem State.setCore_pkg (s : State) (n : Nat) (c : Core) : (s.setCore n c).pkg = s.pkg := rfl
@[simp] theorem State.setCore_serial (s : State) (n : Nat) (c : Core) : (s.setCore n c).serial = s.serial := rfl
@[simp] theorem State.setCore_cmds (s : State) (n : Nat) (c : Core) : (s.setCore n c).cmds = s.cmds := rfl
@[simp] theorem State.setCore_failed (s : State) (n : Nat) (c : Core) : (s.setCore n c).failed = s.failed := rfl
@[simp] theorem State.setCore_markers (s : State) (n : Nat) (c : Core) : (s.setCore n c).markers = s.markers := rfl
@[simp] theorem State.setCore_acks (s : State) (n : Nat) (c : Core) : (s.setCore n c).acks = s.acks := rfl
@[simp] theorem State.setCore_answers (s : State) (n : Nat) (c : Core) : (s.setCore n c).answers = s.answers := rfl
@[simp] theorem State.setCore_past (s : State) (n : Nat) (c : Core) : (s.setCore n c).past = s.past := rfl

@[simp] theorem State.setDie_todo (s : State) (n : Nat) (d : Die) : (s.setDie n d).todo = s.todo := rfl
@[simp] theorem State.setDie_tick (s : State) (n : Nat) (d : Die) : (s.setDie n d).tick = s.tick := rfl
@[simp] theorem State.setDie_cur (s : State) (n : Nat) (d : Die) : (s.setDie n d).cur = s.cur := rfl
@[simp] theorem State.setDie_loose (s : State) (n : Nat) (d : Die) : (s.setDie n d).loose = s.loose := rfl
@[simp] theorem State.setDie_mem (s : State) (n : Nat) (d : Die) : (s.setDie n d).mem = s.mem := rfl
@[simp] theorem State.setDie_gangs (s : State) (n : Nat) (d : Die) : (s.setDie n d).gangs = s.gangs := rfl
@[simp] theorem State.setDie_crews (s : State) (n : Nat) (d : Die) : (s.setDie n d).crews = s.crews := rfl
@[simp] theorem State.setDie_barriers (s : State) (n : Nat) (d : Die) : (s.setDie n d).barriers = s.barriers := rfl
@[simp] theorem State.setDie_launches (s : State) (n : Nat) (d : Die) : (s.setDie n d).launches = s.launches := rfl
@[simp] theorem State.setDie_cores (s : State) (n : Nat) (d : Die) : (s.setDie n d).cores = s.cores := rfl
@[simp] theorem State.setDie_dies (s : State) (n : Nat) (d : Die) : (s.setDie n d).dies = aput s.dies n d := rfl
@[simp] theorem State.setDie_ctxs (s : State) (n : Nat) (d : Die) : (s.setDie n d).ctxs = s.ctxs := rfl
@[simp] theorem State.setDie_parts (s : State) (n : Nat) (d : Die) : (s.setDie n d).parts = s.parts := rfl
@[simp] theorem State.setDie_pkg (s : State) (n : Nat) (d : Die) : (s.setDie n d).pkg = s.pkg := rfl
@[simp] theorem State.setDie_serial (s : State) (n : Nat) (d : Die) : (s.setDie n d).serial = s.serial := rfl
@[simp] theorem State.setDie_cmds (s : State) (n : Nat) (d : Die) : (s.setDie n d).cmds = s.cmds := rfl
@[simp] theorem State.setDie_failed (s : State) (n : Nat) (d : Die) : (s.setDie n d).failed = s.failed := rfl
@[simp] theorem State.setDie_markers (s : State) (n : Nat) (d : Die) : (s.setDie n d).markers = s.markers := rfl
@[simp] theorem State.setDie_acks (s : State) (n : Nat) (d : Die) : (s.setDie n d).acks = s.acks := rfl
@[simp] theorem State.setDie_answers (s : State) (n : Nat) (d : Die) : (s.setDie n d).answers = s.answers := rfl
@[simp] theorem State.setDie_past (s : State) (n : Nat) (d : Die) : (s.setDie n d).past = s.past := rfl

@[simp] theorem State.setPart_todo (s : State) (n : Nat) (p : Part) : (s.setPart n p).todo = s.todo := rfl
@[simp] theorem State.setPart_tick (s : State) (n : Nat) (p : Part) : (s.setPart n p).tick = s.tick := rfl
@[simp] theorem State.setPart_cur (s : State) (n : Nat) (p : Part) : (s.setPart n p).cur = s.cur := rfl
@[simp] theorem State.setPart_loose (s : State) (n : Nat) (p : Part) : (s.setPart n p).loose = s.loose := rfl
@[simp] theorem State.setPart_mem (s : State) (n : Nat) (p : Part) : (s.setPart n p).mem = s.mem := rfl
@[simp] theorem State.setPart_gangs (s : State) (n : Nat) (p : Part) : (s.setPart n p).gangs = s.gangs := rfl
@[simp] theorem State.setPart_crews (s : State) (n : Nat) (p : Part) : (s.setPart n p).crews = s.crews := rfl
@[simp] theorem State.setPart_barriers (s : State) (n : Nat) (p : Part) : (s.setPart n p).barriers = s.barriers := rfl
@[simp] theorem State.setPart_launches (s : State) (n : Nat) (p : Part) : (s.setPart n p).launches = s.launches := rfl
@[simp] theorem State.setPart_cores (s : State) (n : Nat) (p : Part) : (s.setPart n p).cores = s.cores := rfl
@[simp] theorem State.setPart_dies (s : State) (n : Nat) (p : Part) : (s.setPart n p).dies = s.dies := rfl
@[simp] theorem State.setPart_ctxs (s : State) (n : Nat) (p : Part) : (s.setPart n p).ctxs = s.ctxs := rfl
@[simp] theorem State.setPart_parts (s : State) (n : Nat) (p : Part) : (s.setPart n p).parts = aput s.parts n p := rfl
@[simp] theorem State.setPart_pkg (s : State) (n : Nat) (p : Part) : (s.setPart n p).pkg = s.pkg := rfl
@[simp] theorem State.setPart_serial (s : State) (n : Nat) (p : Part) : (s.setPart n p).serial = s.serial := rfl
@[simp] theorem State.setPart_cmds (s : State) (n : Nat) (p : Part) : (s.setPart n p).cmds = s.cmds := rfl
@[simp] theorem State.setPart_failed (s : State) (n : Nat) (p : Part) : (s.setPart n p).failed = s.failed := rfl
@[simp] theorem State.setPart_markers (s : State) (n : Nat) (p : Part) : (s.setPart n p).markers = s.markers := rfl
@[simp] theorem State.setPart_acks (s : State) (n : Nat) (p : Part) : (s.setPart n p).acks = s.acks := rfl
@[simp] theorem State.setPart_answers (s : State) (n : Nat) (p : Part) : (s.setPart n p).answers = s.answers := rfl
@[simp] theorem State.setPart_past (s : State) (n : Nat) (p : Part) : (s.setPart n p).past = s.past := rfl

@[simp] theorem State.setCtx_todo (s : State) (k : Nat) (c : Ctx) : (s.setCtx k c).todo = s.todo := rfl
@[simp] theorem State.setCtx_tick (s : State) (k : Nat) (c : Ctx) : (s.setCtx k c).tick = s.tick := rfl
@[simp] theorem State.setCtx_cur (s : State) (k : Nat) (c : Ctx) : (s.setCtx k c).cur = s.cur := rfl
@[simp] theorem State.setCtx_loose (s : State) (k : Nat) (c : Ctx) : (s.setCtx k c).loose = s.loose := rfl
@[simp] theorem State.setCtx_mem (s : State) (k : Nat) (c : Ctx) : (s.setCtx k c).mem = s.mem := rfl
@[simp] theorem State.setCtx_gangs (s : State) (k : Nat) (c : Ctx) : (s.setCtx k c).gangs = s.gangs := rfl
@[simp] theorem State.setCtx_crews (s : State) (k : Nat) (c : Ctx) : (s.setCtx k c).crews = s.crews := rfl
@[simp] theorem State.setCtx_barriers (s : State) (k : Nat) (c : Ctx) : (s.setCtx k c).barriers = s.barriers := rfl
@[simp] theorem State.setCtx_launches (s : State) (k : Nat) (c : Ctx) : (s.setCtx k c).launches = s.launches := rfl
@[simp] theorem State.setCtx_cores (s : State) (k : Nat) (c : Ctx) : (s.setCtx k c).cores = s.cores := rfl
@[simp] theorem State.setCtx_dies (s : State) (k : Nat) (c : Ctx) : (s.setCtx k c).dies = s.dies := rfl
@[simp] theorem State.setCtx_ctxs (s : State) (k : Nat) (c : Ctx) : (s.setCtx k c).ctxs = aput s.ctxs k c := rfl
@[simp] theorem State.setCtx_parts (s : State) (k : Nat) (c : Ctx) : (s.setCtx k c).parts = s.parts := rfl
@[simp] theorem State.setCtx_pkg (s : State) (k : Nat) (c : Ctx) : (s.setCtx k c).pkg = s.pkg := rfl
@[simp] theorem State.setCtx_serial (s : State) (k : Nat) (c : Ctx) : (s.setCtx k c).serial = s.serial := rfl
@[simp] theorem State.setCtx_cmds (s : State) (k : Nat) (c : Ctx) : (s.setCtx k c).cmds = s.cmds := rfl
@[simp] theorem State.setCtx_failed (s : State) (k : Nat) (c : Ctx) : (s.setCtx k c).failed = s.failed := rfl
@[simp] theorem State.setCtx_markers (s : State) (k : Nat) (c : Ctx) : (s.setCtx k c).markers = s.markers := rfl
@[simp] theorem State.setCtx_acks (s : State) (k : Nat) (c : Ctx) : (s.setCtx k c).acks = s.acks := rfl
@[simp] theorem State.setCtx_answers (s : State) (k : Nat) (c : Ctx) : (s.setCtx k c).answers = s.answers := rfl
@[simp] theorem State.setCtx_past (s : State) (k : Nat) (c : Ctx) : (s.setCtx k c).past = s.past := rfl

@[simp] theorem State.addCycles_todo (s : State) (core n : Nat) : (s.addCycles core n).todo = s.todo := rfl
@[simp] theorem State.addCycles_tick (s : State) (core n : Nat) : (s.addCycles core n).tick = s.tick := rfl
@[simp] theorem State.addCycles_cur (s : State) (core n : Nat) : (s.addCycles core n).cur = s.cur := rfl
@[simp] theorem State.addCycles_loose (s : State) (core n : Nat) : (s.addCycles core n).loose = s.loose := rfl
@[simp] theorem State.addCycles_mem (s : State) (core n : Nat) : (s.addCycles core n).mem = s.mem := rfl
@[simp] theorem State.addCycles_gangs (s : State) (core n : Nat) : (s.addCycles core n).gangs = s.gangs := rfl
@[simp] theorem State.addCycles_crews (s : State) (core n : Nat) : (s.addCycles core n).crews = s.crews := rfl
@[simp] theorem State.addCycles_barriers (s : State) (core n : Nat) : (s.addCycles core n).barriers = s.barriers := rfl
@[simp] theorem State.addCycles_launches (s : State) (core n : Nat) : (s.addCycles core n).launches = s.launches := rfl
@[simp] theorem State.addCycles_dies (s : State) (core n : Nat) : (s.addCycles core n).dies = s.dies := rfl
@[simp] theorem State.addCycles_ctxs (s : State) (core n : Nat) : (s.addCycles core n).ctxs = s.ctxs := rfl
@[simp] theorem State.addCycles_parts (s : State) (core n : Nat) : (s.addCycles core n).parts = s.parts := rfl
@[simp] theorem State.addCycles_pkg (s : State) (core n : Nat) : (s.addCycles core n).pkg = s.pkg := rfl
@[simp] theorem State.addCycles_serial (s : State) (core n : Nat) : (s.addCycles core n).serial = s.serial := rfl
@[simp] theorem State.addCycles_cmds (s : State) (core n : Nat) : (s.addCycles core n).cmds = s.cmds := rfl
@[simp] theorem State.addCycles_failed (s : State) (core n : Nat) : (s.addCycles core n).failed = s.failed := rfl
@[simp] theorem State.addCycles_markers (s : State) (core n : Nat) : (s.addCycles core n).markers = s.markers := rfl
@[simp] theorem State.addCycles_acks (s : State) (core n : Nat) : (s.addCycles core n).acks = s.acks := rfl
@[simp] theorem State.addCycles_answers (s : State) (core n : Nat) : (s.addCycles core n).answers = s.answers := rfl
@[simp] theorem State.addCycles_past (s : State) (core n : Nat) : (s.addCycles core n).past = s.past := rfl
@[simp] theorem State.issuedAt_todo (s : State) (g : Gang) (cycle : Nat) (x : UnitUse) : (s.issuedAt g cycle x).todo = s.todo := rfl
@[simp] theorem State.issuedAt_tick (s : State) (g : Gang) (cycle : Nat) (x : UnitUse) : (s.issuedAt g cycle x).tick = s.tick := rfl
@[simp] theorem State.issuedAt_cur (s : State) (g : Gang) (cycle : Nat) (x : UnitUse) : (s.issuedAt g cycle x).cur = s.cur := rfl
@[simp] theorem State.issuedAt_loose (s : State) (g : Gang) (cycle : Nat) (x : UnitUse) : (s.issuedAt g cycle x).loose = s.loose := rfl
@[simp] theorem State.issuedAt_mem (s : State) (g : Gang) (cycle : Nat) (x : UnitUse) : (s.issuedAt g cycle x).mem = s.mem := rfl
@[simp] theorem State.issuedAt_gangs (s : State) (g : Gang) (cycle : Nat) (x : UnitUse) : (s.issuedAt g cycle x).gangs = s.gangs := rfl
@[simp] theorem State.issuedAt_crews (s : State) (g : Gang) (cycle : Nat) (x : UnitUse) : (s.issuedAt g cycle x).crews = s.crews := rfl
@[simp] theorem State.issuedAt_barriers (s : State) (g : Gang) (cycle : Nat) (x : UnitUse) : (s.issuedAt g cycle x).barriers = s.barriers := rfl
@[simp] theorem State.issuedAt_launches (s : State) (g : Gang) (cycle : Nat) (x : UnitUse) : (s.issuedAt g cycle x).launches = s.launches := rfl
@[simp] theorem State.issuedAt_dies (s : State) (g : Gang) (cycle : Nat) (x : UnitUse) : (s.issuedAt g cycle x).dies = s.dies := rfl
@[simp] theorem State.issuedAt_ctxs (s : State) (g : Gang) (cycle : Nat) (x : UnitUse) : (s.issuedAt g cycle x).ctxs = s.ctxs := rfl
@[simp] theorem State.issuedAt_parts (s : State) (g : Gang) (cycle : Nat) (x : UnitUse) : (s.issuedAt g cycle x).parts = s.parts := rfl
@[simp] theorem State.issuedAt_pkg (s : State) (g : Gang) (cycle : Nat) (x : UnitUse) : (s.issuedAt g cycle x).pkg = s.pkg := rfl
@[simp] theorem State.issuedAt_serial (s : State) (g : Gang) (cycle : Nat) (x : UnitUse) : (s.issuedAt g cycle x).serial = s.serial := rfl
@[simp] theorem State.issuedAt_cmds (s : State) (g : Gang) (cycle : Nat) (x : UnitUse) : (s.issuedAt g cycle x).cmds = s.cmds := rfl
@[simp] theorem State.issuedAt_failed (s : State) (g : Gang) (cycle : Nat) (x : UnitUse) : (s.issuedAt g cycle x).failed = s.failed := rfl
@[simp] theorem State.issuedAt_markers (s : State) (g : Gang) (cycle : Nat) (x : UnitUse) : (s.issuedAt g cycle x).markers = s.markers := rfl
@[simp] theorem State.issuedAt_acks (s : State) (g : Gang) (cycle : Nat) (x : UnitUse) : (s.issuedAt g cycle x).acks = s.acks := rfl
@[simp] theorem State.issuedAt_answers (s : State) (g : Gang) (cycle : Nat) (x : UnitUse) : (s.issuedAt g cycle x).answers = s.answers := rfl
@[simp] theorem State.issuedAt_past (s : State) (g : Gang) (cycle : Nat) (x : UnitUse) : (s.issuedAt g cycle x).past = s.past := rfl

@[simp] theorem Gang.setSlot_core (g : Gang) (x : Bool) (y : Slot) : (g.setSlot x y).core = g.core := by cases x <;> rfl
@[simp] theorem Gang.setSlot_slotNo (g : Gang) (x : Bool) (y : Slot) : (g.setSlot x y).slotNo = g.slotNo := by cases x <;> rfl
@[simp] theorem Gang.setSlot_part (g : Gang) (x : Bool) (y : Slot) : (g.setSlot x y).part = g.part := by cases x <;> rfl
@[simp] theorem Gang.setSlot_aspace (g : Gang) (x : Bool) (y : Slot) : (g.setSlot x y).aspace = g.aspace := by cases x <;> rfl
@[simp] theorem Gang.setSlot_launch (g : Gang) (x : Bool) (y : Slot) : (g.setSlot x y).launch = g.launch := by cases x <;> rfl
@[simp] theorem Gang.setSlot_crewKey (g : Gang) (x : Bool) (y : Slot) : (g.setSlot x y).crewKey = g.crewKey := by cases x <;> rfl
@[simp] theorem Gang.setSlot_kind (g : Gang) (x : Bool) (y : Slot) : (g.setSlot x y).kind = g.kind := by cases x <;> rfl
@[simp] theorem Gang.setSlot_entry (g : Gang) (x : Bool) (y : Slot) : (g.setSlot x y).entry = g.entry := by cases x <;> rfl
@[simp] theorem Gang.setSlot_role (g : Gang) (x : Bool) (y : Slot) : (g.setSlot x y).role = g.role := by cases x <;> rfl
@[simp] theorem Gang.setSlot_crew (g : Gang) (x : Bool) (y : Slot) : (g.setSlot x y).crew = g.crew := by cases x <;> rfl
@[simp] theorem Gang.setSlot_idCore (g : Gang) (x : Bool) (y : Slot) : (g.setSlot x y).idCore = g.idCore := by cases x <;> rfl
@[simp] theorem Gang.setSlot_gangIndex (g : Gang) (x : Bool) (y : Slot) : (g.setSlot x y).gangIndex = g.gangIndex := by cases x <;> rfl
@[simp] theorem Gang.setSlot_idSlot (g : Gang) (x : Bool) (y : Slot) : (g.setSlot x y).idSlot = g.idSlot := by cases x <;> rfl
@[simp] theorem Gang.setSlot_lane (g : Gang) (x : Bool) (y : Slot) : (g.setSlot x y).lane = g.lane := by cases x <;> rfl
@[simp] theorem Gang.setSlot_entryS (g : Gang) (x : Bool) (y : Slot) : (g.setSlot x y).entryS = g.entryS := by cases x <;> rfl
@[simp] theorem Gang.setSlot_entryV (g : Gang) (x : Bool) (y : Slot) : (g.setSlot x y).entryV = g.entryV := by cases x <;> rfl
@[simp] theorem Gang.setSlot_vcount (g : Gang) (x : Bool) (y : Slot) : (g.setSlot x y).vcount = g.vcount := by cases x <;> rfl
@[simp] theorem Gang.setSlot_generation (g : Gang) (x : Bool) (y : Slot) : (g.setSlot x y).generation = g.generation := by cases x <;> rfl
@[simp] theorem Gang.setSlot_key (g : Gang) (x : Bool) (y : Slot) : (g.setSlot x y).key = g.key := by cases x <;> rfl
@[simp] theorem Gang.setSlot_origins (g : Gang) (x : Bool) (y : Slot) : (g.setSlot x y).origins = g.origins := by cases x <;> rfl
@[simp] theorem Gang.setSlot_spawned (g : Gang) (x : Bool) (y : Slot) : (g.setSlot x y).spawned = g.spawned := by cases x <;> rfl
@[simp] theorem Gang.setSlot_v (g : Gang) (x : Bool) (y : Slot) : (g.setSlot x y).v = g.v := by cases x <;> rfl
@[simp] theorem Gang.setSlot_s (g : Gang) (x : Bool) (y : Slot) : (g.setSlot x y).s = g.s := by cases x <;> rfl
@[simp] theorem Gang.setSlot_m (g : Gang) (x : Bool) (y : Slot) : (g.setSlot x y).m = g.m := by cases x <;> rfl
@[simp] theorem Gang.setSlot_pendV (g : Gang) (x : Bool) (y : Slot) : (g.setSlot x y).pendV = g.pendV := by cases x <;> rfl
@[simp] theorem Gang.setSlot_pendS (g : Gang) (x : Bool) (y : Slot) : (g.setSlot x y).pendS = g.pendS := by cases x <;> rfl
@[simp] theorem Gang.setSlot_vtOwner (g : Gang) (x : Bool) (y : Slot) : (g.setSlot x y).vtOwner = g.vtOwner := by cases x <;> rfl
@[simp] theorem Gang.setSlot_bStart (g : Gang) (x : Bool) (y : Slot) : (g.setSlot x y).bStart = g.bStart := by cases x <;> rfl
@[simp] theorem Gang.setSlot_bCount (g : Gang) (x : Bool) (y : Slot) : (g.setSlot x y).bCount = g.bCount := by cases x <;> rfl
@[simp] theorem Gang.setSlot_cb (g : Gang) (x : Bool) (y : Slot) : (g.setSlot x y).cb = g.cb := by cases x <;> rfl
@[simp] theorem Gang.setSlot_cn (g : Gang) (x : Bool) (y : Slot) : (g.setSlot x y).cn = g.cn := by cases x <;> rfl
@[simp] theorem Gang.setSlot_joining (g : Gang) (x : Bool) (y : Slot) : (g.setSlot x y).joining = g.joining := by cases x <;> rfl
@[simp] theorem Gang.setSlot_seq (g : Gang) (x : Bool) (y : Slot) : (g.setSlot x y).seq = g.seq := by cases x <;> rfl
@[simp] theorem Gang.setSlot_phase (g : Gang) (x : Bool) (y : Slot) : (g.setSlot x y).phase = g.phase := by cases x <;> rfl
@[simp] theorem Gang.setSlot_detstep (g : Gang) (x : Bool) (y : Slot) : (g.setSlot x y).detstep = g.detstep := by cases x <;> rfl
@[simp] theorem Gang.setSlot_replay (g : Gang) (x : Bool) (y : Slot) : (g.setSlot x y).replay = g.replay := by cases x <;> rfl
@[simp] theorem Gang.setSlot_traparg (g : Gang) (x : Bool) (y : Slot) : (g.setSlot x y).traparg = g.traparg := by cases x <;> rfl
@[simp] theorem Gang.setSlot_prefersB (g : Gang) (x : Bool) (y : Slot) : (g.setSlot x y).prefersB = g.prefersB := by cases x <;> rfl
@[simp] theorem Gang.setSlot_sealed (g : Gang) (x : Bool) (y : Slot) : (g.setSlot x y).sealed = g.sealed := by cases x <;> rfl
@[simp] theorem Gang.setSlot_unclean (g : Gang) (x : Bool) (y : Slot) : (g.setSlot x y).unclean = g.unclean := by cases x <;> rfl
@[simp] theorem Gang.setSlot_rerun (g : Gang) (x : Bool) (y : Slot) : (g.setSlot x y).rerun = g.rerun := by cases x <;> rfl
@[simp] theorem Gang.setSlot_restarting (g : Gang) (x : Bool) (y : Slot) : (g.setSlot x y).restarting = g.restarting := by cases x <;> rfl
@[simp] theorem Gang.setSlot_flight (g : Gang) (x : Bool) (y : Slot) : (g.setSlot x y).flight = g.flight := by cases x <;> rfl
@[simp] theorem Gang.setSlot_loads (g : Gang) (x : Bool) (y : Slot) : (g.setSlot x y).loads = g.loads := by cases x <;> rfl
@[simp] theorem Gang.setSlot_order (g : Gang) (x : Bool) (y : Slot) : (g.setSlot x y).order = g.order := by cases x <;> rfl
@[simp] theorem Gang.setSlot_entries (g : Gang) (x : Bool) (y : Slot) : (g.setSlot x y).entries = g.entries := by cases x <;> rfl
@[simp] theorem Gang.setSlot_returns (g : Gang) (x : Bool) (y : Slot) : (g.setSlot x y).returns = g.returns := by cases x <;> rfl
@[simp] theorem Gang.setSlot_rays (g : Gang) (x : Bool) (y : Slot) : (g.setSlot x y).rays = g.rays := by cases x <;> rfl
@[simp] theorem Gang.setSlot_batch (g : Gang) (x : Bool) (y : Slot) : (g.setSlot x y).batch = g.batch := by cases x <;> rfl
@[simp] theorem Gang.setSlot_covered (g : Gang) (x : Bool) (y : Slot) : (g.setSlot x y).covered = g.covered := by cases x <;> rfl
@[simp] theorem Gang.slot_setSlot (g : Gang) (x : Bool) (y : Slot) : (g.setSlot x y).slot x = y := by cases x <;> rfl
@[simp] theorem Gang.slot_setSlot_other (g : Gang) (x : Bool) (y : Slot) : (g.setSlot x y).slot (!x) = g.slot (!x) := by cases x <;> rfl
@[simp] theorem Gang.setSlot_setSlot (g : Gang) (x : Bool) (y z : Slot) : (g.setSlot x y).setSlot x z = g.setSlot x z := by cases x <;> rfl
@[simp] theorem Gang.setSlot_slot (g : Gang) (x : Bool) : g.setSlot x (g.slot x) = g := by cases x <;> rfl

@[simp] theorem Slot.advance_live (sl : Slot) (i : Issue) (target : W64) : (sl.advance i target).live = sl.live := rfl
@[simp] theorem Slot.advance_pc (sl : Slot) (i : Issue) (target : W64) : (sl.advance i target).pc = target := rfl
@[simp] theorem Slot.advance_mask (sl : Slot) (i : Issue) (target : W64) : (sl.advance i target).mask = sl.mask := rfl
@[simp] theorem Slot.advance_stack (sl : Slot) (i : Issue) (target : W64) : (sl.advance i target).stack = sl.stack := rfl
@[simp] theorem Slot.advance_path (sl : Slot) (i : Issue) (target : W64) : (sl.advance i target).path = sl.path := rfl
@[simp] theorem Slot.advance_icnt (sl : Slot) (i : Issue) (target : W64) : (sl.advance i target).icnt = sl.icnt + 1 := rfl
@[simp] theorem Slot.advance_dist (sl : Slot) (i : Issue) (target : W64) : (sl.advance i target).dist = i.nextDist := rfl
@[simp] theorem Slot.advance_haz (sl : Slot) (i : Issue) (target : W64) : (sl.advance i target).haz = sl.haz.filter (fun h => decide (i.nextDist < h.2)) := rfl
@[simp] theorem Slot.advance_parked (sl : Slot) (i : Issue) (target : W64) : (sl.advance i target).parked = sl.parked := rfl
@[simp] theorem Slot.advance_waits (sl : Slot) (i : Issue) (target : W64) : (sl.advance i target).waits = sl.waits := rfl
@[simp] theorem Slot.advance_yieldTo (sl : Slot) (i : Issue) (target : W64) : (sl.advance i target).yieldTo = sl.yieldTo := rfl
@[simp] theorem Slot.advance_aged (sl : Slot) (i : Issue) (target : W64) : (sl.advance i target).aged = sl.aged := rfl
@[simp] theorem Slot.advance_ready (sl : Slot) (i : Issue) (target : W64) : (sl.advance i target).ready = i.cycle + (i.nextDist - i.dist) := rfl
@[simp] theorem Slot.advance_passed (sl : Slot) (i : Issue) (target : W64) : (sl.advance i target).passed = sl.passed := rfl
@[simp] theorem Slot.advance_since (sl : Slot) (i : Issue) (target : W64) : (sl.advance i target).since = sl.since := rfl
@[simp] theorem Slot.advance_pended (sl : Slot) (i : Issue) (target : W64) : (sl.advance i target).pended = false := rfl

@[simp] theorem Gang.writeS_core (g : Gang) (x : Bool) (n : Nat) (v : W64) : (g.writeS x n v).core = g.core := by unfold Gang.writeS; split <;> [skip; split] <;> simp
@[simp] theorem Gang.writeS_slotNo (g : Gang) (x : Bool) (n : Nat) (v : W64) : (g.writeS x n v).slotNo = g.slotNo := by unfold Gang.writeS; split <;> [skip; split] <;> simp
@[simp] theorem Gang.writeS_part (g : Gang) (x : Bool) (n : Nat) (v : W64) : (g.writeS x n v).part = g.part := by unfold Gang.writeS; split <;> [skip; split] <;> simp
@[simp] theorem Gang.writeS_aspace (g : Gang) (x : Bool) (n : Nat) (v : W64) : (g.writeS x n v).aspace = g.aspace := by unfold Gang.writeS; split <;> [skip; split] <;> simp
@[simp] theorem Gang.writeS_launch (g : Gang) (x : Bool) (n : Nat) (v : W64) : (g.writeS x n v).launch = g.launch := by unfold Gang.writeS; split <;> [skip; split] <;> simp
@[simp] theorem Gang.writeS_crewKey (g : Gang) (x : Bool) (n : Nat) (v : W64) : (g.writeS x n v).crewKey = g.crewKey := by unfold Gang.writeS; split <;> [skip; split] <;> simp
@[simp] theorem Gang.writeS_kind (g : Gang) (x : Bool) (n : Nat) (v : W64) : (g.writeS x n v).kind = g.kind := by unfold Gang.writeS; split <;> [skip; split] <;> simp
@[simp] theorem Gang.writeS_entry (g : Gang) (x : Bool) (n : Nat) (v : W64) : (g.writeS x n v).entry = g.entry := by unfold Gang.writeS; split <;> [skip; split] <;> simp
@[simp] theorem Gang.writeS_role (g : Gang) (x : Bool) (n : Nat) (v : W64) : (g.writeS x n v).role = g.role := by unfold Gang.writeS; split <;> [skip; split] <;> simp
@[simp] theorem Gang.writeS_crew (g : Gang) (x : Bool) (n : Nat) (v : W64) : (g.writeS x n v).crew = g.crew := by unfold Gang.writeS; split <;> [skip; split] <;> simp
@[simp] theorem Gang.writeS_idCore (g : Gang) (x : Bool) (n : Nat) (v : W64) : (g.writeS x n v).idCore = g.idCore := by unfold Gang.writeS; split <;> [skip; split] <;> simp
@[simp] theorem Gang.writeS_gangIndex (g : Gang) (x : Bool) (n : Nat) (v : W64) : (g.writeS x n v).gangIndex = g.gangIndex := by unfold Gang.writeS; split <;> [skip; split] <;> simp
@[simp] theorem Gang.writeS_idSlot (g : Gang) (x : Bool) (n : Nat) (v : W64) : (g.writeS x n v).idSlot = g.idSlot := by unfold Gang.writeS; split <;> [skip; split] <;> simp
@[simp] theorem Gang.writeS_lane (g : Gang) (x : Bool) (n : Nat) (v : W64) : (g.writeS x n v).lane = g.lane := by unfold Gang.writeS; split <;> [skip; split] <;> simp
@[simp] theorem Gang.writeS_entryS (g : Gang) (x : Bool) (n : Nat) (v : W64) : (g.writeS x n v).entryS = g.entryS := by unfold Gang.writeS; split <;> [skip; split] <;> simp
@[simp] theorem Gang.writeS_entryV (g : Gang) (x : Bool) (n : Nat) (v : W64) : (g.writeS x n v).entryV = g.entryV := by unfold Gang.writeS; split <;> [skip; split] <;> simp
@[simp] theorem Gang.writeS_vcount (g : Gang) (x : Bool) (n : Nat) (v : W64) : (g.writeS x n v).vcount = g.vcount := by unfold Gang.writeS; split <;> [skip; split] <;> simp
@[simp] theorem Gang.writeS_generation (g : Gang) (x : Bool) (n : Nat) (v : W64) : (g.writeS x n v).generation = g.generation := by unfold Gang.writeS; split <;> [skip; split] <;> simp
@[simp] theorem Gang.writeS_key (g : Gang) (x : Bool) (n : Nat) (v : W64) : (g.writeS x n v).key = g.key := by unfold Gang.writeS; split <;> [skip; split] <;> simp
@[simp] theorem Gang.writeS_origins (g : Gang) (x : Bool) (n : Nat) (v : W64) : (g.writeS x n v).origins = g.origins := by unfold Gang.writeS; split <;> [skip; split] <;> simp
@[simp] theorem Gang.writeS_spawned (g : Gang) (x : Bool) (n : Nat) (v : W64) : (g.writeS x n v).spawned = g.spawned := by unfold Gang.writeS; split <;> [skip; split] <;> simp
@[simp] theorem Gang.writeS_v (g : Gang) (x : Bool) (n : Nat) (v : W64) : (g.writeS x n v).v = g.v := by unfold Gang.writeS; split <;> [skip; split] <;> simp
@[simp] theorem Gang.writeS_m (g : Gang) (x : Bool) (n : Nat) (v : W64) : (g.writeS x n v).m = g.m := by unfold Gang.writeS; split <;> [skip; split] <;> simp
@[simp] theorem Gang.writeS_pendV (g : Gang) (x : Bool) (n : Nat) (v : W64) : (g.writeS x n v).pendV = g.pendV := by unfold Gang.writeS; split <;> [skip; split] <;> simp
@[simp] theorem Gang.writeS_pendS (g : Gang) (x : Bool) (n : Nat) (v : W64) : (g.writeS x n v).pendS = g.pendS := by unfold Gang.writeS; split <;> [skip; split] <;> simp
@[simp] theorem Gang.writeS_vtOwner (g : Gang) (x : Bool) (n : Nat) (v : W64) : (g.writeS x n v).vtOwner = g.vtOwner := by unfold Gang.writeS; split <;> [skip; split] <;> simp
@[simp] theorem Gang.writeS_bStart (g : Gang) (x : Bool) (n : Nat) (v : W64) : (g.writeS x n v).bStart = g.bStart := by unfold Gang.writeS; split <;> [skip; split] <;> simp
@[simp] theorem Gang.writeS_bCount (g : Gang) (x : Bool) (n : Nat) (v : W64) : (g.writeS x n v).bCount = g.bCount := by unfold Gang.writeS; split <;> [skip; split] <;> simp
@[simp] theorem Gang.writeS_cb (g : Gang) (x : Bool) (n : Nat) (v : W64) : (g.writeS x n v).cb = g.cb := by unfold Gang.writeS; split <;> [skip; split] <;> simp
@[simp] theorem Gang.writeS_cn (g : Gang) (x : Bool) (n : Nat) (v : W64) : (g.writeS x n v).cn = g.cn := by unfold Gang.writeS; split <;> [skip; split] <;> simp
@[simp] theorem Gang.writeS_joining (g : Gang) (x : Bool) (n : Nat) (v : W64) : (g.writeS x n v).joining = g.joining := by unfold Gang.writeS; split <;> [skip; split] <;> simp
@[simp] theorem Gang.writeS_seq (g : Gang) (x : Bool) (n : Nat) (v : W64) : (g.writeS x n v).seq = g.seq := by unfold Gang.writeS; split <;> [skip; split] <;> simp
@[simp] theorem Gang.writeS_phase (g : Gang) (x : Bool) (n : Nat) (v : W64) : (g.writeS x n v).phase = g.phase := by unfold Gang.writeS; split <;> [skip; split] <;> simp
@[simp] theorem Gang.writeS_detstep (g : Gang) (x : Bool) (n : Nat) (v : W64) : (g.writeS x n v).detstep = g.detstep := by unfold Gang.writeS; split <;> [skip; split] <;> simp
@[simp] theorem Gang.writeS_replay (g : Gang) (x : Bool) (n : Nat) (v : W64) : (g.writeS x n v).replay = g.replay := by unfold Gang.writeS; split <;> [skip; split] <;> simp
@[simp] theorem Gang.writeS_traparg (g : Gang) (x : Bool) (n : Nat) (v : W64) : (g.writeS x n v).traparg = g.traparg := by unfold Gang.writeS; split <;> [skip; split] <;> simp
@[simp] theorem Gang.writeS_prefersB (g : Gang) (x : Bool) (n : Nat) (v : W64) : (g.writeS x n v).prefersB = g.prefersB := by unfold Gang.writeS; split <;> [skip; split] <;> simp
@[simp] theorem Gang.writeS_sealed (g : Gang) (x : Bool) (n : Nat) (v : W64) : (g.writeS x n v).sealed = g.sealed := by unfold Gang.writeS; split <;> [skip; split] <;> simp
@[simp] theorem Gang.writeS_unclean (g : Gang) (x : Bool) (n : Nat) (v : W64) : (g.writeS x n v).unclean = g.unclean := by unfold Gang.writeS; split <;> [skip; split] <;> simp
@[simp] theorem Gang.writeS_rerun (g : Gang) (x : Bool) (n : Nat) (v : W64) : (g.writeS x n v).rerun = g.rerun := by unfold Gang.writeS; split <;> [skip; split] <;> simp
@[simp] theorem Gang.writeS_restarting (g : Gang) (x : Bool) (n : Nat) (v : W64) : (g.writeS x n v).restarting = g.restarting := by unfold Gang.writeS; split <;> [skip; split] <;> simp
@[simp] theorem Gang.writeS_flight (g : Gang) (x : Bool) (n : Nat) (v : W64) : (g.writeS x n v).flight = g.flight := by unfold Gang.writeS; split <;> [skip; split] <;> simp
@[simp] theorem Gang.writeS_loads (g : Gang) (x : Bool) (n : Nat) (v : W64) : (g.writeS x n v).loads = g.loads := by unfold Gang.writeS; split <;> [skip; split] <;> simp
@[simp] theorem Gang.writeS_order (g : Gang) (x : Bool) (n : Nat) (v : W64) : (g.writeS x n v).order = g.order := by unfold Gang.writeS; split <;> [skip; split] <;> simp
@[simp] theorem Gang.writeS_entries (g : Gang) (x : Bool) (n : Nat) (v : W64) : (g.writeS x n v).entries = g.entries := by unfold Gang.writeS; split <;> [skip; split] <;> simp
@[simp] theorem Gang.writeS_returns (g : Gang) (x : Bool) (n : Nat) (v : W64) : (g.writeS x n v).returns = g.returns := by unfold Gang.writeS; split <;> [skip; split] <;> simp
@[simp] theorem Gang.writeS_rays (g : Gang) (x : Bool) (n : Nat) (v : W64) : (g.writeS x n v).rays = g.rays := by unfold Gang.writeS; split <;> [skip; split] <;> simp
@[simp] theorem Gang.writeS_batch (g : Gang) (x : Bool) (n : Nat) (v : W64) : (g.writeS x n v).batch = g.batch := by unfold Gang.writeS; split <;> [skip; split] <;> simp
@[simp] theorem Gang.writeS_covered (g : Gang) (x : Bool) (n : Nat) (v : W64) : (g.writeS x n v).covered = g.covered := by unfold Gang.writeS; split <;> [skip; split] <;> simp

@[simp] theorem Gang.writeM_core (g : Gang) (n : Nat) (v : W32) : (g.writeM n v).core = g.core := by unfold Gang.writeM; split <;> rfl
@[simp] theorem Gang.writeM_slotNo (g : Gang) (n : Nat) (v : W32) : (g.writeM n v).slotNo = g.slotNo := by unfold Gang.writeM; split <;> rfl
@[simp] theorem Gang.writeM_part (g : Gang) (n : Nat) (v : W32) : (g.writeM n v).part = g.part := by unfold Gang.writeM; split <;> rfl
@[simp] theorem Gang.writeM_aspace (g : Gang) (n : Nat) (v : W32) : (g.writeM n v).aspace = g.aspace := by unfold Gang.writeM; split <;> rfl
@[simp] theorem Gang.writeM_launch (g : Gang) (n : Nat) (v : W32) : (g.writeM n v).launch = g.launch := by unfold Gang.writeM; split <;> rfl
@[simp] theorem Gang.writeM_crewKey (g : Gang) (n : Nat) (v : W32) : (g.writeM n v).crewKey = g.crewKey := by unfold Gang.writeM; split <;> rfl
@[simp] theorem Gang.writeM_kind (g : Gang) (n : Nat) (v : W32) : (g.writeM n v).kind = g.kind := by unfold Gang.writeM; split <;> rfl
@[simp] theorem Gang.writeM_entry (g : Gang) (n : Nat) (v : W32) : (g.writeM n v).entry = g.entry := by unfold Gang.writeM; split <;> rfl
@[simp] theorem Gang.writeM_role (g : Gang) (n : Nat) (v : W32) : (g.writeM n v).role = g.role := by unfold Gang.writeM; split <;> rfl
@[simp] theorem Gang.writeM_crew (g : Gang) (n : Nat) (v : W32) : (g.writeM n v).crew = g.crew := by unfold Gang.writeM; split <;> rfl
@[simp] theorem Gang.writeM_idCore (g : Gang) (n : Nat) (v : W32) : (g.writeM n v).idCore = g.idCore := by unfold Gang.writeM; split <;> rfl
@[simp] theorem Gang.writeM_gangIndex (g : Gang) (n : Nat) (v : W32) : (g.writeM n v).gangIndex = g.gangIndex := by unfold Gang.writeM; split <;> rfl
@[simp] theorem Gang.writeM_idSlot (g : Gang) (n : Nat) (v : W32) : (g.writeM n v).idSlot = g.idSlot := by unfold Gang.writeM; split <;> rfl
@[simp] theorem Gang.writeM_lane (g : Gang) (n : Nat) (v : W32) : (g.writeM n v).lane = g.lane := by unfold Gang.writeM; split <;> rfl
@[simp] theorem Gang.writeM_entryS (g : Gang) (n : Nat) (v : W32) : (g.writeM n v).entryS = g.entryS := by unfold Gang.writeM; split <;> rfl
@[simp] theorem Gang.writeM_entryV (g : Gang) (n : Nat) (v : W32) : (g.writeM n v).entryV = g.entryV := by unfold Gang.writeM; split <;> rfl
@[simp] theorem Gang.writeM_vcount (g : Gang) (n : Nat) (v : W32) : (g.writeM n v).vcount = g.vcount := by unfold Gang.writeM; split <;> rfl
@[simp] theorem Gang.writeM_generation (g : Gang) (n : Nat) (v : W32) : (g.writeM n v).generation = g.generation := by unfold Gang.writeM; split <;> rfl
@[simp] theorem Gang.writeM_key (g : Gang) (n : Nat) (v : W32) : (g.writeM n v).key = g.key := by unfold Gang.writeM; split <;> rfl
@[simp] theorem Gang.writeM_origins (g : Gang) (n : Nat) (v : W32) : (g.writeM n v).origins = g.origins := by unfold Gang.writeM; split <;> rfl
@[simp] theorem Gang.writeM_spawned (g : Gang) (n : Nat) (v : W32) : (g.writeM n v).spawned = g.spawned := by unfold Gang.writeM; split <;> rfl
@[simp] theorem Gang.writeM_v (g : Gang) (n : Nat) (v : W32) : (g.writeM n v).v = g.v := by unfold Gang.writeM; split <;> rfl
@[simp] theorem Gang.writeM_s (g : Gang) (n : Nat) (v : W32) : (g.writeM n v).s = g.s := by unfold Gang.writeM; split <;> rfl
@[simp] theorem Gang.writeM_pendV (g : Gang) (n : Nat) (v : W32) : (g.writeM n v).pendV = g.pendV := by unfold Gang.writeM; split <;> rfl
@[simp] theorem Gang.writeM_pendS (g : Gang) (n : Nat) (v : W32) : (g.writeM n v).pendS = g.pendS := by unfold Gang.writeM; split <;> rfl
@[simp] theorem Gang.writeM_vtOwner (g : Gang) (n : Nat) (v : W32) : (g.writeM n v).vtOwner = g.vtOwner := by unfold Gang.writeM; split <;> rfl
@[simp] theorem Gang.writeM_a (g : Gang) (n : Nat) (v : W32) : (g.writeM n v).a = g.a := by unfold Gang.writeM; split <;> rfl
@[simp] theorem Gang.writeM_b (g : Gang) (n : Nat) (v : W32) : (g.writeM n v).b = g.b := by unfold Gang.writeM; split <;> rfl
@[simp] theorem Gang.writeM_bStart (g : Gang) (n : Nat) (v : W32) : (g.writeM n v).bStart = g.bStart := by unfold Gang.writeM; split <;> rfl
@[simp] theorem Gang.writeM_bCount (g : Gang) (n : Nat) (v : W32) : (g.writeM n v).bCount = g.bCount := by unfold Gang.writeM; split <;> rfl
@[simp] theorem Gang.writeM_cb (g : Gang) (n : Nat) (v : W32) : (g.writeM n v).cb = g.cb := by unfold Gang.writeM; split <;> rfl
@[simp] theorem Gang.writeM_cn (g : Gang) (n : Nat) (v : W32) : (g.writeM n v).cn = g.cn := by unfold Gang.writeM; split <;> rfl
@[simp] theorem Gang.writeM_joining (g : Gang) (n : Nat) (v : W32) : (g.writeM n v).joining = g.joining := by unfold Gang.writeM; split <;> rfl
@[simp] theorem Gang.writeM_seq (g : Gang) (n : Nat) (v : W32) : (g.writeM n v).seq = g.seq := by unfold Gang.writeM; split <;> rfl
@[simp] theorem Gang.writeM_phase (g : Gang) (n : Nat) (v : W32) : (g.writeM n v).phase = g.phase := by unfold Gang.writeM; split <;> rfl
@[simp] theorem Gang.writeM_detstep (g : Gang) (n : Nat) (v : W32) : (g.writeM n v).detstep = g.detstep := by unfold Gang.writeM; split <;> rfl
@[simp] theorem Gang.writeM_replay (g : Gang) (n : Nat) (v : W32) : (g.writeM n v).replay = g.replay := by unfold Gang.writeM; split <;> rfl
@[simp] theorem Gang.writeM_traparg (g : Gang) (n : Nat) (v : W32) : (g.writeM n v).traparg = g.traparg := by unfold Gang.writeM; split <;> rfl
@[simp] theorem Gang.writeM_prefersB (g : Gang) (n : Nat) (v : W32) : (g.writeM n v).prefersB = g.prefersB := by unfold Gang.writeM; split <;> rfl
@[simp] theorem Gang.writeM_sealed (g : Gang) (n : Nat) (v : W32) : (g.writeM n v).sealed = g.sealed := by unfold Gang.writeM; split <;> rfl
@[simp] theorem Gang.writeM_unclean (g : Gang) (n : Nat) (v : W32) : (g.writeM n v).unclean = g.unclean := by unfold Gang.writeM; split <;> rfl
@[simp] theorem Gang.writeM_rerun (g : Gang) (n : Nat) (v : W32) : (g.writeM n v).rerun = g.rerun := by unfold Gang.writeM; split <;> rfl
@[simp] theorem Gang.writeM_restarting (g : Gang) (n : Nat) (v : W32) : (g.writeM n v).restarting = g.restarting := by unfold Gang.writeM; split <;> rfl
@[simp] theorem Gang.writeM_flight (g : Gang) (n : Nat) (v : W32) : (g.writeM n v).flight = g.flight := by unfold Gang.writeM; split <;> rfl
@[simp] theorem Gang.writeM_loads (g : Gang) (n : Nat) (v : W32) : (g.writeM n v).loads = g.loads := by unfold Gang.writeM; split <;> rfl
@[simp] theorem Gang.writeM_order (g : Gang) (n : Nat) (v : W32) : (g.writeM n v).order = g.order := by unfold Gang.writeM; split <;> rfl
@[simp] theorem Gang.writeM_entries (g : Gang) (n : Nat) (v : W32) : (g.writeM n v).entries = g.entries := by unfold Gang.writeM; split <;> rfl
@[simp] theorem Gang.writeM_returns (g : Gang) (n : Nat) (v : W32) : (g.writeM n v).returns = g.returns := by unfold Gang.writeM; split <;> rfl
@[simp] theorem Gang.writeM_rays (g : Gang) (n : Nat) (v : W32) : (g.writeM n v).rays = g.rays := by unfold Gang.writeM; split <;> rfl
@[simp] theorem Gang.writeM_batch (g : Gang) (n : Nat) (v : W32) : (g.writeM n v).batch = g.batch := by unfold Gang.writeM; split <;> rfl
@[simp] theorem Gang.writeM_covered (g : Gang) (n : Nat) (v : W32) : (g.writeM n v).covered = g.covered := by unfold Gang.writeM; split <;> rfl

@[simp] theorem Gang.writeV_core (g : Gang) (n : Nat) (lanes : W32) (vs : List W32) : (g.writeV n lanes vs).core = g.core := by unfold Gang.writeV; split <;> rfl
@[simp] theorem Gang.writeV_slotNo (g : Gang) (n : Nat) (lanes : W32) (vs : List W32) : (g.writeV n lanes vs).slotNo = g.slotNo := by unfold Gang.writeV; split <;> rfl
@[simp] theorem Gang.writeV_part (g : Gang) (n : Nat) (lanes : W32) (vs : List W32) : (g.writeV n lanes vs).part = g.part := by unfold Gang.writeV; split <;> rfl
@[simp] theorem Gang.writeV_aspace (g : Gang) (n : Nat) (lanes : W32) (vs : List W32) : (g.writeV n lanes vs).aspace = g.aspace := by unfold Gang.writeV; split <;> rfl
@[simp] theorem Gang.writeV_launch (g : Gang) (n : Nat) (lanes : W32) (vs : List W32) : (g.writeV n lanes vs).launch = g.launch := by unfold Gang.writeV; split <;> rfl
@[simp] theorem Gang.writeV_crewKey (g : Gang) (n : Nat) (lanes : W32) (vs : List W32) : (g.writeV n lanes vs).crewKey = g.crewKey := by unfold Gang.writeV; split <;> rfl
@[simp] theorem Gang.writeV_kind (g : Gang) (n : Nat) (lanes : W32) (vs : List W32) : (g.writeV n lanes vs).kind = g.kind := by unfold Gang.writeV; split <;> rfl
@[simp] theorem Gang.writeV_entry (g : Gang) (n : Nat) (lanes : W32) (vs : List W32) : (g.writeV n lanes vs).entry = g.entry := by unfold Gang.writeV; split <;> rfl
@[simp] theorem Gang.writeV_role (g : Gang) (n : Nat) (lanes : W32) (vs : List W32) : (g.writeV n lanes vs).role = g.role := by unfold Gang.writeV; split <;> rfl
@[simp] theorem Gang.writeV_crew (g : Gang) (n : Nat) (lanes : W32) (vs : List W32) : (g.writeV n lanes vs).crew = g.crew := by unfold Gang.writeV; split <;> rfl
@[simp] theorem Gang.writeV_idCore (g : Gang) (n : Nat) (lanes : W32) (vs : List W32) : (g.writeV n lanes vs).idCore = g.idCore := by unfold Gang.writeV; split <;> rfl
@[simp] theorem Gang.writeV_gangIndex (g : Gang) (n : Nat) (lanes : W32) (vs : List W32) : (g.writeV n lanes vs).gangIndex = g.gangIndex := by unfold Gang.writeV; split <;> rfl
@[simp] theorem Gang.writeV_idSlot (g : Gang) (n : Nat) (lanes : W32) (vs : List W32) : (g.writeV n lanes vs).idSlot = g.idSlot := by unfold Gang.writeV; split <;> rfl
@[simp] theorem Gang.writeV_lane (g : Gang) (n : Nat) (lanes : W32) (vs : List W32) : (g.writeV n lanes vs).lane = g.lane := by unfold Gang.writeV; split <;> rfl
@[simp] theorem Gang.writeV_entryS (g : Gang) (n : Nat) (lanes : W32) (vs : List W32) : (g.writeV n lanes vs).entryS = g.entryS := by unfold Gang.writeV; split <;> rfl
@[simp] theorem Gang.writeV_entryV (g : Gang) (n : Nat) (lanes : W32) (vs : List W32) : (g.writeV n lanes vs).entryV = g.entryV := by unfold Gang.writeV; split <;> rfl
@[simp] theorem Gang.writeV_vcount (g : Gang) (n : Nat) (lanes : W32) (vs : List W32) : (g.writeV n lanes vs).vcount = g.vcount := by unfold Gang.writeV; split <;> rfl
@[simp] theorem Gang.writeV_generation (g : Gang) (n : Nat) (lanes : W32) (vs : List W32) : (g.writeV n lanes vs).generation = g.generation := by unfold Gang.writeV; split <;> rfl
@[simp] theorem Gang.writeV_key (g : Gang) (n : Nat) (lanes : W32) (vs : List W32) : (g.writeV n lanes vs).key = g.key := by unfold Gang.writeV; split <;> rfl
@[simp] theorem Gang.writeV_origins (g : Gang) (n : Nat) (lanes : W32) (vs : List W32) : (g.writeV n lanes vs).origins = g.origins := by unfold Gang.writeV; split <;> rfl
@[simp] theorem Gang.writeV_spawned (g : Gang) (n : Nat) (lanes : W32) (vs : List W32) : (g.writeV n lanes vs).spawned = g.spawned := by unfold Gang.writeV; split <;> rfl
@[simp] theorem Gang.writeV_s (g : Gang) (n : Nat) (lanes : W32) (vs : List W32) : (g.writeV n lanes vs).s = g.s := by unfold Gang.writeV; split <;> rfl
@[simp] theorem Gang.writeV_m (g : Gang) (n : Nat) (lanes : W32) (vs : List W32) : (g.writeV n lanes vs).m = g.m := by unfold Gang.writeV; split <;> rfl
@[simp] theorem Gang.writeV_pendV (g : Gang) (n : Nat) (lanes : W32) (vs : List W32) : (g.writeV n lanes vs).pendV = g.pendV := by unfold Gang.writeV; split <;> rfl
@[simp] theorem Gang.writeV_pendS (g : Gang) (n : Nat) (lanes : W32) (vs : List W32) : (g.writeV n lanes vs).pendS = g.pendS := by unfold Gang.writeV; split <;> rfl
@[simp] theorem Gang.writeV_vtOwner (g : Gang) (n : Nat) (lanes : W32) (vs : List W32) : (g.writeV n lanes vs).vtOwner = g.vtOwner := by unfold Gang.writeV; split <;> rfl
@[simp] theorem Gang.writeV_a (g : Gang) (n : Nat) (lanes : W32) (vs : List W32) : (g.writeV n lanes vs).a = g.a := by unfold Gang.writeV; split <;> rfl
@[simp] theorem Gang.writeV_b (g : Gang) (n : Nat) (lanes : W32) (vs : List W32) : (g.writeV n lanes vs).b = g.b := by unfold Gang.writeV; split <;> rfl
@[simp] theorem Gang.writeV_bStart (g : Gang) (n : Nat) (lanes : W32) (vs : List W32) : (g.writeV n lanes vs).bStart = g.bStart := by unfold Gang.writeV; split <;> rfl
@[simp] theorem Gang.writeV_bCount (g : Gang) (n : Nat) (lanes : W32) (vs : List W32) : (g.writeV n lanes vs).bCount = g.bCount := by unfold Gang.writeV; split <;> rfl
@[simp] theorem Gang.writeV_cb (g : Gang) (n : Nat) (lanes : W32) (vs : List W32) : (g.writeV n lanes vs).cb = g.cb := by unfold Gang.writeV; split <;> rfl
@[simp] theorem Gang.writeV_cn (g : Gang) (n : Nat) (lanes : W32) (vs : List W32) : (g.writeV n lanes vs).cn = g.cn := by unfold Gang.writeV; split <;> rfl
@[simp] theorem Gang.writeV_joining (g : Gang) (n : Nat) (lanes : W32) (vs : List W32) : (g.writeV n lanes vs).joining = g.joining := by unfold Gang.writeV; split <;> rfl
@[simp] theorem Gang.writeV_seq (g : Gang) (n : Nat) (lanes : W32) (vs : List W32) : (g.writeV n lanes vs).seq = g.seq := by unfold Gang.writeV; split <;> rfl
@[simp] theorem Gang.writeV_phase (g : Gang) (n : Nat) (lanes : W32) (vs : List W32) : (g.writeV n lanes vs).phase = g.phase := by unfold Gang.writeV; split <;> rfl
@[simp] theorem Gang.writeV_detstep (g : Gang) (n : Nat) (lanes : W32) (vs : List W32) : (g.writeV n lanes vs).detstep = g.detstep := by unfold Gang.writeV; split <;> rfl
@[simp] theorem Gang.writeV_replay (g : Gang) (n : Nat) (lanes : W32) (vs : List W32) : (g.writeV n lanes vs).replay = g.replay := by unfold Gang.writeV; split <;> rfl
@[simp] theorem Gang.writeV_traparg (g : Gang) (n : Nat) (lanes : W32) (vs : List W32) : (g.writeV n lanes vs).traparg = g.traparg := by unfold Gang.writeV; split <;> rfl
@[simp] theorem Gang.writeV_prefersB (g : Gang) (n : Nat) (lanes : W32) (vs : List W32) : (g.writeV n lanes vs).prefersB = g.prefersB := by unfold Gang.writeV; split <;> rfl
@[simp] theorem Gang.writeV_sealed (g : Gang) (n : Nat) (lanes : W32) (vs : List W32) : (g.writeV n lanes vs).sealed = g.sealed := by unfold Gang.writeV; split <;> rfl
@[simp] theorem Gang.writeV_unclean (g : Gang) (n : Nat) (lanes : W32) (vs : List W32) : (g.writeV n lanes vs).unclean = g.unclean := by unfold Gang.writeV; split <;> rfl
@[simp] theorem Gang.writeV_rerun (g : Gang) (n : Nat) (lanes : W32) (vs : List W32) : (g.writeV n lanes vs).rerun = g.rerun := by unfold Gang.writeV; split <;> rfl
@[simp] theorem Gang.writeV_restarting (g : Gang) (n : Nat) (lanes : W32) (vs : List W32) : (g.writeV n lanes vs).restarting = g.restarting := by unfold Gang.writeV; split <;> rfl
@[simp] theorem Gang.writeV_flight (g : Gang) (n : Nat) (lanes : W32) (vs : List W32) : (g.writeV n lanes vs).flight = g.flight := by unfold Gang.writeV; split <;> rfl
@[simp] theorem Gang.writeV_loads (g : Gang) (n : Nat) (lanes : W32) (vs : List W32) : (g.writeV n lanes vs).loads = g.loads := by unfold Gang.writeV; split <;> rfl
@[simp] theorem Gang.writeV_order (g : Gang) (n : Nat) (lanes : W32) (vs : List W32) : (g.writeV n lanes vs).order = g.order := by unfold Gang.writeV; split <;> rfl
@[simp] theorem Gang.writeV_entries (g : Gang) (n : Nat) (lanes : W32) (vs : List W32) : (g.writeV n lanes vs).entries = g.entries := by unfold Gang.writeV; split <;> rfl
@[simp] theorem Gang.writeV_returns (g : Gang) (n : Nat) (lanes : W32) (vs : List W32) : (g.writeV n lanes vs).returns = g.returns := by unfold Gang.writeV; split <;> rfl
@[simp] theorem Gang.writeV_rays (g : Gang) (n : Nat) (lanes : W32) (vs : List W32) : (g.writeV n lanes vs).rays = g.rays := by unfold Gang.writeV; split <;> rfl
@[simp] theorem Gang.writeV_batch (g : Gang) (n : Nat) (lanes : W32) (vs : List W32) : (g.writeV n lanes vs).batch = g.batch := by unfold Gang.writeV; split <;> rfl
@[simp] theorem Gang.writeV_covered (g : Gang) (n : Nat) (lanes : W32) (vs : List W32) : (g.writeV n lanes vs).covered = g.covered := by unfold Gang.writeV; split <;> rfl

theorem Gang.eq_of_slot {g h : Gang} (x : Bool) (slot : g.slot x = h.slot x) (other : g.slot (!x) = h.slot (!x))
    (core : g.core = h.core)
    (slotNo : g.slotNo = h.slotNo)
    (part : g.part = h.part)
    (aspace : g.aspace = h.aspace)
    (launch : g.launch = h.launch)
    (crewKey : g.crewKey = h.crewKey)
    (kind : g.kind = h.kind)
    (entry : g.entry = h.entry)
    (role : g.role = h.role)
    (crew : g.crew = h.crew)
    (idCore : g.idCore = h.idCore)
    (gangIndex : g.gangIndex = h.gangIndex)
    (idSlot : g.idSlot = h.idSlot)
    (lane : g.lane = h.lane)
    (entryS : g.entryS = h.entryS)
    (entryV : g.entryV = h.entryV)
    (vcount : g.vcount = h.vcount)
    (generation : g.generation = h.generation)
    (key : g.key = h.key)
    (origins : g.origins = h.origins)
    (spawned : g.spawned = h.spawned)
    (v : g.v = h.v)
    (s : g.s = h.s)
    (m : g.m = h.m)
    (pendV : g.pendV = h.pendV)
    (pendS : g.pendS = h.pendS)
    (vtOwner : g.vtOwner = h.vtOwner)
    (bStart : g.bStart = h.bStart)
    (bCount : g.bCount = h.bCount)
    (cb : g.cb = h.cb)
    (cn : g.cn = h.cn)
    (joining : g.joining = h.joining)
    (seq : g.seq = h.seq)
    (phase : g.phase = h.phase)
    (detstep : g.detstep = h.detstep)
    (replay : g.replay = h.replay)
    (traparg : g.traparg = h.traparg)
    (prefersB : g.prefersB = h.prefersB)
    (sealed : g.sealed = h.sealed)
    (unclean : g.unclean = h.unclean)
    (rerun : g.rerun = h.rerun)
    (restarting : g.restarting = h.restarting)
    (flight : g.flight = h.flight)
    (loads : g.loads = h.loads)
    (order : g.order = h.order)
    (entries : g.entries = h.entries)
    (returns : g.returns = h.returns)
    (rays : g.rays = h.rays)
    (batch : g.batch = h.batch)
    (covered : g.covered = h.covered)
    : g = h := by
  cases x
  · exact Gang.ext core slotNo part aspace launch crewKey kind entry role crew idCore gangIndex idSlot lane entryS entryV vcount generation key origins spawned v s m pendV pendS vtOwner slot other bStart bCount cb cn joining seq phase detstep replay traparg prefersB sealed unclean rerun restarting flight loads order entries returns rays batch covered
  · exact Gang.ext core slotNo part aspace launch crewKey kind entry role crew idCore gangIndex idSlot lane entryS entryV vcount generation key origins spawned v s m pendV pendS vtOwner other slot bStart bCount cb cn joining seq phase detstep replay traparg prefersB sealed unclean rerun restarting flight loads order entries returns rays batch covered

@[simp] theorem Gang.launchResults_core (g : Gang) (i : Issue) (l : Nat) (ws : List RegWrite) : (g.launchResults i l ws).core = g.core := by simp [Gang.launchResults]
@[simp] theorem Gang.launchResults_slotNo (g : Gang) (i : Issue) (l : Nat) (ws : List RegWrite) : (g.launchResults i l ws).slotNo = g.slotNo := by simp [Gang.launchResults]
@[simp] theorem Gang.launchResults_part (g : Gang) (i : Issue) (l : Nat) (ws : List RegWrite) : (g.launchResults i l ws).part = g.part := by simp [Gang.launchResults]
@[simp] theorem Gang.launchResults_aspace (g : Gang) (i : Issue) (l : Nat) (ws : List RegWrite) : (g.launchResults i l ws).aspace = g.aspace := by simp [Gang.launchResults]
@[simp] theorem Gang.launchResults_launch (g : Gang) (i : Issue) (l : Nat) (ws : List RegWrite) : (g.launchResults i l ws).launch = g.launch := by simp [Gang.launchResults]
@[simp] theorem Gang.launchResults_crewKey (g : Gang) (i : Issue) (l : Nat) (ws : List RegWrite) : (g.launchResults i l ws).crewKey = g.crewKey := by simp [Gang.launchResults]
@[simp] theorem Gang.launchResults_kind (g : Gang) (i : Issue) (l : Nat) (ws : List RegWrite) : (g.launchResults i l ws).kind = g.kind := by simp [Gang.launchResults]
@[simp] theorem Gang.launchResults_entry (g : Gang) (i : Issue) (l : Nat) (ws : List RegWrite) : (g.launchResults i l ws).entry = g.entry := by simp [Gang.launchResults]
@[simp] theorem Gang.launchResults_role (g : Gang) (i : Issue) (l : Nat) (ws : List RegWrite) : (g.launchResults i l ws).role = g.role := by simp [Gang.launchResults]
@[simp] theorem Gang.launchResults_crew (g : Gang) (i : Issue) (l : Nat) (ws : List RegWrite) : (g.launchResults i l ws).crew = g.crew := by simp [Gang.launchResults]
@[simp] theorem Gang.launchResults_idCore (g : Gang) (i : Issue) (l : Nat) (ws : List RegWrite) : (g.launchResults i l ws).idCore = g.idCore := by simp [Gang.launchResults]
@[simp] theorem Gang.launchResults_gangIndex (g : Gang) (i : Issue) (l : Nat) (ws : List RegWrite) : (g.launchResults i l ws).gangIndex = g.gangIndex := by simp [Gang.launchResults]
@[simp] theorem Gang.launchResults_idSlot (g : Gang) (i : Issue) (l : Nat) (ws : List RegWrite) : (g.launchResults i l ws).idSlot = g.idSlot := by simp [Gang.launchResults]
@[simp] theorem Gang.launchResults_lane (g : Gang) (i : Issue) (l : Nat) (ws : List RegWrite) : (g.launchResults i l ws).lane = g.lane := by simp [Gang.launchResults]
@[simp] theorem Gang.launchResults_entryS (g : Gang) (i : Issue) (l : Nat) (ws : List RegWrite) : (g.launchResults i l ws).entryS = g.entryS := by simp [Gang.launchResults]
@[simp] theorem Gang.launchResults_entryV (g : Gang) (i : Issue) (l : Nat) (ws : List RegWrite) : (g.launchResults i l ws).entryV = g.entryV := by simp [Gang.launchResults]
@[simp] theorem Gang.launchResults_vcount (g : Gang) (i : Issue) (l : Nat) (ws : List RegWrite) : (g.launchResults i l ws).vcount = g.vcount := by simp [Gang.launchResults]
@[simp] theorem Gang.launchResults_generation (g : Gang) (i : Issue) (l : Nat) (ws : List RegWrite) : (g.launchResults i l ws).generation = g.generation := by simp [Gang.launchResults]
@[simp] theorem Gang.launchResults_key (g : Gang) (i : Issue) (l : Nat) (ws : List RegWrite) : (g.launchResults i l ws).key = g.key := by simp [Gang.launchResults]
@[simp] theorem Gang.launchResults_origins (g : Gang) (i : Issue) (l : Nat) (ws : List RegWrite) : (g.launchResults i l ws).origins = g.origins := by simp [Gang.launchResults]
@[simp] theorem Gang.launchResults_spawned (g : Gang) (i : Issue) (l : Nat) (ws : List RegWrite) : (g.launchResults i l ws).spawned = g.spawned := by simp [Gang.launchResults]
@[simp] theorem Gang.launchResults_v (g : Gang) (i : Issue) (l : Nat) (ws : List RegWrite) : (g.launchResults i l ws).v = g.v := by simp [Gang.launchResults]
@[simp] theorem Gang.launchResults_s (g : Gang) (i : Issue) (l : Nat) (ws : List RegWrite) : (g.launchResults i l ws).s = g.s := by simp [Gang.launchResults]
@[simp] theorem Gang.launchResults_m (g : Gang) (i : Issue) (l : Nat) (ws : List RegWrite) : (g.launchResults i l ws).m = g.m := by simp [Gang.launchResults]
@[simp] theorem Gang.launchResults_pendV (g : Gang) (i : Issue) (l : Nat) (ws : List RegWrite) : (g.launchResults i l ws).pendV = g.pendV := by simp [Gang.launchResults]
@[simp] theorem Gang.launchResults_pendS (g : Gang) (i : Issue) (l : Nat) (ws : List RegWrite) : (g.launchResults i l ws).pendS = g.pendS := by simp [Gang.launchResults]
@[simp] theorem Gang.launchResults_vtOwner (g : Gang) (i : Issue) (l : Nat) (ws : List RegWrite) : (g.launchResults i l ws).vtOwner = g.vtOwner := by simp [Gang.launchResults]
@[simp] theorem Gang.launchResults_bStart (g : Gang) (i : Issue) (l : Nat) (ws : List RegWrite) : (g.launchResults i l ws).bStart = g.bStart := by simp [Gang.launchResults]
@[simp] theorem Gang.launchResults_bCount (g : Gang) (i : Issue) (l : Nat) (ws : List RegWrite) : (g.launchResults i l ws).bCount = g.bCount := by simp [Gang.launchResults]
@[simp] theorem Gang.launchResults_cb (g : Gang) (i : Issue) (l : Nat) (ws : List RegWrite) : (g.launchResults i l ws).cb = g.cb := by simp [Gang.launchResults]
@[simp] theorem Gang.launchResults_cn (g : Gang) (i : Issue) (l : Nat) (ws : List RegWrite) : (g.launchResults i l ws).cn = g.cn := by simp [Gang.launchResults]
@[simp] theorem Gang.launchResults_joining (g : Gang) (i : Issue) (l : Nat) (ws : List RegWrite) : (g.launchResults i l ws).joining = g.joining := by simp [Gang.launchResults]
@[simp] theorem Gang.launchResults_seq (g : Gang) (i : Issue) (l : Nat) (ws : List RegWrite) : (g.launchResults i l ws).seq = g.seq := by simp [Gang.launchResults]
@[simp] theorem Gang.launchResults_phase (g : Gang) (i : Issue) (l : Nat) (ws : List RegWrite) : (g.launchResults i l ws).phase = g.phase := by simp [Gang.launchResults]
@[simp] theorem Gang.launchResults_detstep (g : Gang) (i : Issue) (l : Nat) (ws : List RegWrite) : (g.launchResults i l ws).detstep = g.detstep := by simp [Gang.launchResults]
@[simp] theorem Gang.launchResults_replay (g : Gang) (i : Issue) (l : Nat) (ws : List RegWrite) : (g.launchResults i l ws).replay = g.replay := by simp [Gang.launchResults]
@[simp] theorem Gang.launchResults_traparg (g : Gang) (i : Issue) (l : Nat) (ws : List RegWrite) : (g.launchResults i l ws).traparg = g.traparg := by simp [Gang.launchResults]
@[simp] theorem Gang.launchResults_prefersB (g : Gang) (i : Issue) (l : Nat) (ws : List RegWrite) : (g.launchResults i l ws).prefersB = g.prefersB := by simp [Gang.launchResults]
@[simp] theorem Gang.launchResults_sealed (g : Gang) (i : Issue) (l : Nat) (ws : List RegWrite) : (g.launchResults i l ws).sealed = g.sealed := by simp [Gang.launchResults]
@[simp] theorem Gang.launchResults_unclean (g : Gang) (i : Issue) (l : Nat) (ws : List RegWrite) : (g.launchResults i l ws).unclean = g.unclean := by simp [Gang.launchResults]
@[simp] theorem Gang.launchResults_rerun (g : Gang) (i : Issue) (l : Nat) (ws : List RegWrite) : (g.launchResults i l ws).rerun = g.rerun := by simp [Gang.launchResults]
@[simp] theorem Gang.launchResults_restarting (g : Gang) (i : Issue) (l : Nat) (ws : List RegWrite) : (g.launchResults i l ws).restarting = g.restarting := by simp [Gang.launchResults]
@[simp] theorem Gang.launchResults_loads (g : Gang) (i : Issue) (l : Nat) (ws : List RegWrite) : (g.launchResults i l ws).loads = g.loads := by simp [Gang.launchResults]
@[simp] theorem Gang.launchResults_order (g : Gang) (i : Issue) (l : Nat) (ws : List RegWrite) : (g.launchResults i l ws).order = g.order := by simp [Gang.launchResults]
@[simp] theorem Gang.launchResults_entries (g : Gang) (i : Issue) (l : Nat) (ws : List RegWrite) : (g.launchResults i l ws).entries = g.entries := by simp [Gang.launchResults]
@[simp] theorem Gang.launchResults_returns (g : Gang) (i : Issue) (l : Nat) (ws : List RegWrite) : (g.launchResults i l ws).returns = g.returns := by simp [Gang.launchResults]
@[simp] theorem Gang.launchResults_rays (g : Gang) (i : Issue) (l : Nat) (ws : List RegWrite) : (g.launchResults i l ws).rays = g.rays := by simp [Gang.launchResults]
@[simp] theorem Gang.launchResults_batch (g : Gang) (i : Issue) (l : Nat) (ws : List RegWrite) : (g.launchResults i l ws).batch = g.batch := by simp [Gang.launchResults]
@[simp] theorem Gang.launchResults_covered (g : Gang) (i : Issue) (l : Nat) (ws : List RegWrite) : (g.launchResults i l ws).covered = g.covered := by simp [Gang.launchResults]
@[simp] theorem Gang.launchResults_other (g : Gang) (i : Issue) (l : Nat) (ws : List RegWrite) : (g.launchResults i l ws).slot (!i.slotB) = g.slot (!i.slotB) := by simp only [Gang.launchResults, Gang.slot_setSlot_other]; cases i.slotB <;> rfl

end Sys2Proof.Machine
end

