-- ==== Sys2Proof/Laws/Issue.lean ====
section
/-! SUPPORT. What issuing a group does when nothing is in its way, and what the landing of its results gives: the lemmas
that a proof about a meaning cites instead of unfolding `issue`. -/

namespace Sys2Proof.Machine

theorem State.core_issuedAt (s : State) (g : Gang) (cycle : Nat) (x : UnitUse) (k : Nat) :
    (s.issuedAt g cycle x).core k = if k = g.core then (s.core k).issued g cycle x else s.core k := by
  by_cases h : k = g.core
  · subst h; simp [State.issuedAt, State.core]
  · simp [State.issuedAt, State.core, aget_aput_other _ _ h, h]

theorem Gang.setSlot_seq_comm (g : Gang) (b : Bool) (y : Slot) (n : Nat) :
    ({ g.setSlot b y with seq := n } : Gang) = ({ g with seq := n } : Gang).setSlot b y := by cases b <;> rfl

theorem Gang.setSlot_flight_comm (g : Gang) (b : Bool) (y : Slot) (l : List Flight) :
    ({ g.setSlot b y with flight := l } : Gang) = ({ g with flight := l } : Gang).setSlot b y := by cases b <;> rfl

/-- The gang as an issue with nothing in its way begins. -/
def begun (c : Cur) (g : Gang) : Gang :=
  { g.setSlot c.slotB { g.slot c.slotB with parked := none, waits := false, aged := false, passed := false } with seq := g.seq + 1 }

@[simp] theorem begun_core (c : Cur) (g : Gang) : (begun c g).core = g.core := by simp [begun]
@[simp] theorem begun_slotNo (c : Cur) (g : Gang) : (begun c g).slotNo = g.slotNo := by simp [begun]
@[simp] theorem begun_part (c : Cur) (g : Gang) : (begun c g).part = g.part := by simp [begun]
@[simp] theorem begun_aspace (c : Cur) (g : Gang) : (begun c g).aspace = g.aspace := by simp [begun]
@[simp] theorem begun_launch (c : Cur) (g : Gang) : (begun c g).launch = g.launch := by simp [begun]
@[simp] theorem begun_crewKey (c : Cur) (g : Gang) : (begun c g).crewKey = g.crewKey := by simp [begun]
@[simp] theorem begun_kind (c : Cur) (g : Gang) : (begun c g).kind = g.kind := by simp [begun]
@[simp] theorem begun_entry (c : Cur) (g : Gang) : (begun c g).entry = g.entry := by simp [begun]
@[simp] theorem begun_role (c : Cur) (g : Gang) : (begun c g).role = g.role := by simp [begun]
@[simp] theorem begun_crew (c : Cur) (g : Gang) : (begun c g).crew = g.crew := by simp [begun]
@[simp] theorem begun_idCore (c : Cur) (g : Gang) : (begun c g).idCore = g.idCore := by simp [begun]
@[simp] theorem begun_gangIndex (c : Cur) (g : Gang) : (begun c g).gangIndex = g.gangIndex := by simp [begun]
@[simp] theorem begun_idSlot (c : Cur) (g : Gang) : (begun c g).idSlot = g.idSlot := by simp [begun]
@[simp] theorem begun_lane (c : Cur) (g : Gang) : (begun c g).lane = g.lane := by simp [begun]
@[simp] theorem begun_entryS (c : Cur) (g : Gang) : (begun c g).entryS = g.entryS := by simp [begun]
@[simp] theorem begun_entryV (c : Cur) (g : Gang) : (begun c g).entryV = g.entryV := by simp [begun]
@[simp] theorem begun_vcount (c : Cur) (g : Gang) : (begun c g).vcount = g.vcount := by simp [begun]
@[simp] theorem begun_generation (c : Cur) (g : Gang) : (begun c g).generation = g.generation := by simp [begun]
@[simp] theorem begun_key (c : Cur) (g : Gang) : (begun c g).key = g.key := by simp [begun]
@[simp] theorem begun_origins (c : Cur) (g : Gang) : (begun c g).origins = g.origins := by simp [begun]
@[simp] theorem begun_spawned (c : Cur) (g : Gang) : (begun c g).spawned = g.spawned := by simp [begun]
@[simp] theorem begun_v (c : Cur) (g : Gang) : (begun c g).v = g.v := by simp [begun]
@[simp] theorem begun_s (c : Cur) (g : Gang) : (begun c g).s = g.s := by simp [begun]
@[simp] theorem begun_m (c : Cur) (g : Gang) : (begun c g).m = g.m := by simp [begun]
@[simp] theorem begun_pendV (c : Cur) (g : Gang) : (begun c g).pendV = g.pendV := by simp [begun]
@[simp] theorem begun_pendS (c : Cur) (g : Gang) : (begun c g).pendS = g.pendS := by simp [begun]
@[simp] theorem begun_vtOwner (c : Cur) (g : Gang) : (begun c g).vtOwner = g.vtOwner := by simp [begun]
@[simp] theorem begun_bStart (c : Cur) (g : Gang) : (begun c g).bStart = g.bStart := by simp [begun]
@[simp] theorem begun_bCount (c : Cur) (g : Gang) : (begun c g).bCount = g.bCount := by simp [begun]
@[simp] theorem begun_cb (c : Cur) (g : Gang) : (begun c g).cb = g.cb := by simp [begun]
@[simp] theorem begun_cn (c : Cur) (g : Gang) : (begun c g).cn = g.cn := by simp [begun]
@[simp] theorem begun_joining (c : Cur) (g : Gang) : (begun c g).joining = g.joining := by simp [begun]
@[simp] theorem begun_seq (c : Cur) (g : Gang) : (begun c g).seq = g.seq + 1 := by simp [begun]
@[simp] theorem begun_phase (c : Cur) (g : Gang) : (begun c g).phase = g.phase := by simp [begun]
@[simp] theorem begun_detstep (c : Cur) (g : Gang) : (begun c g).detstep = g.detstep := by simp [begun]
@[simp] theorem begun_replay (c : Cur) (g : Gang) : (begun c g).replay = g.replay := by simp [begun]
@[simp] theorem begun_traparg (c : Cur) (g : Gang) : (begun c g).traparg = g.traparg := by simp [begun]
@[simp] theorem begun_prefersB (c : Cur) (g : Gang) : (begun c g).prefersB = g.prefersB := by simp [begun]
@[simp] theorem begun_sealed (c : Cur) (g : Gang) : (begun c g).sealed = g.sealed := by simp [begun]
@[simp] theorem begun_unclean (c : Cur) (g : Gang) : (begun c g).unclean = g.unclean := by simp [begun]
@[simp] theorem begun_rerun (c : Cur) (g : Gang) : (begun c g).rerun = g.rerun := by simp [begun]
@[simp] theorem begun_restarting (c : Cur) (g : Gang) : (begun c g).restarting = g.restarting := by simp [begun]
@[simp] theorem begun_flight (c : Cur) (g : Gang) : (begun c g).flight = g.flight := by simp [begun]
@[simp] theorem begun_order (c : Cur) (g : Gang) : (begun c g).order = g.order := by simp [begun]
@[simp] theorem begun_loads (c : Cur) (g : Gang) : (begun c g).loads = g.loads := by simp [begun]
@[simp] theorem begun_entries (c : Cur) (g : Gang) : (begun c g).entries = g.entries := by simp [begun]
@[simp] theorem begun_returns (c : Cur) (g : Gang) : (begun c g).returns = g.returns := by simp [begun]
@[simp] theorem begun_rays (c : Cur) (g : Gang) : (begun c g).rays = g.rays := by simp [begun]
@[simp] theorem begun_batch (c : Cur) (g : Gang) : (begun c g).batch = g.batch := by simp [begun]
@[simp] theorem begun_covered (c : Cur) (g : Gang) : (begun c g).covered = g.covered := by simp [begun]
@[simp] theorem begun_other (c : Cur) (g : Gang) : (begun c g).slot (!c.slotB) = g.slot (!c.slotB) := by unfold begun; cases c.slotB <;> rfl

/-- The gang after a unit that has only gone on, its slot counting the fixed-latency writes `haz`. -/
def afterUnit (s : State) (c : Cur) (g : Gang) (grp : Grp) (target : W64) (haz : List (Nat × Nat)) : Gang :=
  { g.setSlot c.slotB ((g.slot c.slotB).gone grp (unitReady s c g grp) target (g.slot c.slotB).mask (g.slot c.slotB).stack haz) with seq := g.seq + 1 }

@[simp] theorem afterUnit_core (s : State) (c : Cur) (g : Gang) (grp : Grp) (t : W64) (z : List (Nat × Nat)) : (afterUnit s c g grp t z).core = g.core := by simp [afterUnit]
@[simp] theorem afterUnit_slotNo (s : State) (c : Cur) (g : Gang) (grp : Grp) (t : W64) (z : List (Nat × Nat)) : (afterUnit s c g grp t z).slotNo = g.slotNo := by simp [afterUnit]
@[simp] theorem afterUnit_part (s : State) (c : Cur) (g : Gang) (grp : Grp) (t : W64) (z : List (Nat × Nat)) : (afterUnit s c g grp t z).part = g.part := by simp [afterUnit]
@[simp] theorem afterUnit_aspace (s : State) (c : Cur) (g : Gang) (grp : Grp) (t : W64) (z : List (Nat × Nat)) : (afterUnit s c g grp t z).aspace = g.aspace := by simp [afterUnit]
@[simp] theorem afterUnit_launch (s : State) (c : Cur) (g : Gang) (grp : Grp) (t : W64) (z : List (Nat × Nat)) : (afterUnit s c g grp t z).launch = g.launch := by simp [afterUnit]
@[simp] theorem afterUnit_crewKey (s : State) (c : Cur) (g : Gang) (grp : Grp) (t : W64) (z : List (Nat × Nat)) : (afterUnit s c g grp t z).crewKey = g.crewKey := by simp [afterUnit]
@[simp] theorem afterUnit_kind (s : State) (c : Cur) (g : Gang) (grp : Grp) (t : W64) (z : List (Nat × Nat)) : (afterUnit s c g grp t z).kind = g.kind := by simp [afterUnit]
@[simp] theorem afterUnit_entry (s : State) (c : Cur) (g : Gang) (grp : Grp) (t : W64) (z : List (Nat × Nat)) : (afterUnit s c g grp t z).entry = g.entry := by simp [afterUnit]
@[simp] theorem afterUnit_role (s : State) (c : Cur) (g : Gang) (grp : Grp) (t : W64) (z : List (Nat × Nat)) : (afterUnit s c g grp t z).role = g.role := by simp [afterUnit]
@[simp] theorem afterUnit_crew (s : State) (c : Cur) (g : Gang) (grp : Grp) (t : W64) (z : List (Nat × Nat)) : (afterUnit s c g grp t z).crew = g.crew := by simp [afterUnit]
@[simp] theorem afterUnit_idCore (s : State) (c : Cur) (g : Gang) (grp : Grp) (t : W64) (z : List (Nat × Nat)) : (afterUnit s c g grp t z).idCore = g.idCore := by simp [afterUnit]
@[simp] theorem afterUnit_gangIndex (s : State) (c : Cur) (g : Gang) (grp : Grp) (t : W64) (z : List (Nat × Nat)) : (afterUnit s c g grp t z).gangIndex = g.gangIndex := by simp [afterUnit]
@[simp] theorem afterUnit_idSlot (s : State) (c : Cur) (g : Gang) (grp : Grp) (t : W64) (z : List (Nat × Nat)) : (afterUnit s c g grp t z).idSlot = g.idSlot := by simp [afterUnit]
@[simp] theorem afterUnit_lane (s : State) (c : Cur) (g : Gang) (grp : Grp) (t : W64) (z : List (Nat × Nat)) : (afterUnit s c g grp t z).lane = g.lane := by simp [afterUnit]
@[simp] theorem afterUnit_entryS (s : State) (c : Cur) (g : Gang) (grp : Grp) (t : W64) (z : List (Nat × Nat)) : (afterUnit s c g grp t z).entryS = g.entryS := by simp [afterUnit]
@[simp] theorem afterUnit_entryV (s : State) (c : Cur) (g : Gang) (grp : Grp) (t : W64) (z : List (Nat × Nat)) : (afterUnit s c g grp t z).entryV = g.entryV := by simp [afterUnit]
@[simp] theorem afterUnit_vcount (s : State) (c : Cur) (g : Gang) (grp : Grp) (t : W64) (z : List (Nat × Nat)) : (afterUnit s c g grp t z).vcount = g.vcount := by simp [afterUnit]
@[simp] theorem afterUnit_generation (s : State) (c : Cur) (g : Gang) (grp : Grp) (t : W64) (z : List (Nat × Nat)) : (afterUnit s c g grp t z).generation = g.generation := by simp [afterUnit]
@[simp] theorem afterUnit_key (s : State) (c : Cur) (g : Gang) (grp : Grp) (t : W64) (z : List (Nat × Nat)) : (afterUnit s c g grp t z).key = g.key := by simp [afterUnit]
@[simp] theorem afterUnit_origins (s : State) (c : Cur) (g : Gang) (grp : Grp) (t : W64) (z : List (Nat × Nat)) : (afterUnit s c g grp t z).origins = g.origins := by simp [afterUnit]
@[simp] theorem afterUnit_spawned (s : State) (c : Cur) (g : Gang) (grp : Grp) (t : W64) (z : List (Nat × Nat)) : (afterUnit s c g grp t z).spawned = g.spawned := by simp [afterUnit]
@[simp] theorem afterUnit_v (s : State) (c : Cur) (g : Gang) (grp : Grp) (t : W64) (z : List (Nat × Nat)) : (afterUnit s c g grp t z).v = g.v := by simp [afterUnit]
@[simp] theorem afterUnit_s (s : State) (c : Cur) (g : Gang) (grp : Grp) (t : W64) (z : List (Nat × Nat)) : (afterUnit s c g grp t z).s = g.s := by simp [afterUnit]
@[simp] theorem afterUnit_m (s : State) (c : Cur) (g : Gang) (grp : Grp) (t : W64) (z : List (Nat × Nat)) : (afterUnit s c g grp t z).m = g.m := by simp [afterUnit]
@[simp] theorem afterUnit_pendV (s : State) (c : Cur) (g : Gang) (grp : Grp) (t : W64) (z : List (Nat × Nat)) : (afterUnit s c g grp t z).pendV = g.pendV := by simp [afterUnit]
@[simp] theorem afterUnit_pendS (s : State) (c : Cur) (g : Gang) (grp : Grp) (t : W64) (z : List (Nat × Nat)) : (afterUnit s c g grp t z).pendS = g.pendS := by simp [afterUnit]
@[simp] theorem afterUnit_vtOwner (s : State) (c : Cur) (g : Gang) (grp : Grp) (t : W64) (z : List (Nat × Nat)) : (afterUnit s c g grp t z).vtOwner = g.vtOwner := by simp [afterUnit]
@[simp] theorem afterUnit_bStart (s : State) (c : Cur) (g : Gang) (grp : Grp) (t : W64) (z : List (Nat × Nat)) : (afterUnit s c g grp t z).bStart = g.bStart := by simp [afterUnit]
@[simp] theorem afterUnit_bCount (s : State) (c : Cur) (g : Gang) (grp : Grp) (t : W64) (z : List (Nat × Nat)) : (afterUnit s c g grp t z).bCount = g.bCount := by simp [afterUnit]
@[simp] theorem afterUnit_cb (s : State) (c : Cur) (g : Gang) (grp : Grp) (t : W64) (z : List (Nat × Nat)) : (afterUnit s c g grp t z).cb = g.cb := by simp [afterUnit]
@[simp] theorem afterUnit_cn (s : State) (c : Cur) (g : Gang) (grp : Grp) (t : W64) (z : List (Nat × Nat)) : (afterUnit s c g grp t z).cn = g.cn := by simp [afterUnit]
@[simp] theorem afterUnit_joining (s : State) (c : Cur) (g : Gang) (grp : Grp) (t : W64) (z : List (Nat × Nat)) : (afterUnit s c g grp t z).joining = g.joining := by simp [afterUnit]
@[simp] theorem afterUnit_seq (s : State) (c : Cur) (g : Gang) (grp : Grp) (t : W64) (z : List (Nat × Nat)) : (afterUnit s c g grp t z).seq = g.seq + 1 := by simp [afterUnit]
@[simp] theorem afterUnit_phase (s : State) (c : Cur) (g : Gang) (grp : Grp) (t : W64) (z : List (Nat × Nat)) : (afterUnit s c g grp t z).phase = g.phase := by simp [afterUnit]
@[simp] theorem afterUnit_detstep (s : State) (c : Cur) (g : Gang) (grp : Grp) (t : W64) (z : List (Nat × Nat)) : (afterUnit s c g grp t z).detstep = g.detstep := by simp [afterUnit]
@[simp] theorem afterUnit_replay (s : State) (c : Cur) (g : Gang) (grp : Grp) (t : W64) (z : List (Nat × Nat)) : (afterUnit s c g grp t z).replay = g.replay := by simp [afterUnit]
@[simp] theorem afterUnit_traparg (s : State) (c : Cur) (g : Gang) (grp : Grp) (t : W64) (z : List (Nat × Nat)) : (afterUnit s c g grp t z).traparg = g.traparg := by simp [afterUnit]
@[simp] theorem afterUnit_prefersB (s : State) (c : Cur) (g : Gang) (grp : Grp) (t : W64) (z : List (Nat × Nat)) : (afterUnit s c g grp t z).prefersB = g.prefersB := by simp [afterUnit]
@[simp] theorem afterUnit_sealed (s : State) (c : Cur) (g : Gang) (grp : Grp) (t : W64) (z : List (Nat × Nat)) : (afterUnit s c g grp t z).sealed = g.sealed := by simp [afterUnit]
@[simp] theorem afterUnit_unclean (s : State) (c : Cur) (g : Gang) (grp : Grp) (t : W64) (z : List (Nat × Nat)) : (afterUnit s c g grp t z).unclean = g.unclean := by simp [afterUnit]
@[simp] theorem afterUnit_rerun (s : State) (c : Cur) (g : Gang) (grp : Grp) (t : W64) (z : List (Nat × Nat)) : (afterUnit s c g grp t z).rerun = g.rerun := by simp [afterUnit]
@[simp] theorem afterUnit_restarting (s : State) (c : Cur) (g : Gang) (grp : Grp) (t : W64) (z : List (Nat × Nat)) : (afterUnit s c g grp t z).restarting = g.restarting := by simp [afterUnit]
@[simp] theorem afterUnit_flight (s : State) (c : Cur) (g : Gang) (grp : Grp) (t : W64) (z : List (Nat × Nat)) : (afterUnit s c g grp t z).flight = g.flight := by simp [afterUnit]
@[simp] theorem afterUnit_order (s : State) (c : Cur) (g : Gang) (grp : Grp) (t : W64) (z : List (Nat × Nat)) : (afterUnit s c g grp t z).order = g.order := by simp [afterUnit]
@[simp] theorem afterUnit_loads (s : State) (c : Cur) (g : Gang) (grp : Grp) (t : W64) (z : List (Nat × Nat)) : (afterUnit s c g grp t z).loads = g.loads := by simp [afterUnit]
@[simp] theorem afterUnit_entries (s : State) (c : Cur) (g : Gang) (grp : Grp) (t : W64) (z : List (Nat × Nat)) : (afterUnit s c g grp t z).entries = g.entries := by simp [afterUnit]
@[simp] theorem afterUnit_returns (s : State) (c : Cur) (g : Gang) (grp : Grp) (t : W64) (z : List (Nat × Nat)) : (afterUnit s c g grp t z).returns = g.returns := by simp [afterUnit]
@[simp] theorem afterUnit_rays (s : State) (c : Cur) (g : Gang) (grp : Grp) (t : W64) (z : List (Nat × Nat)) : (afterUnit s c g grp t z).rays = g.rays := by simp [afterUnit]
@[simp] theorem afterUnit_batch (s : State) (c : Cur) (g : Gang) (grp : Grp) (t : W64) (z : List (Nat × Nat)) : (afterUnit s c g grp t z).batch = g.batch := by simp [afterUnit]
@[simp] theorem afterUnit_covered (s : State) (c : Cur) (g : Gang) (grp : Grp) (t : W64) (z : List (Nat × Nat)) : (afterUnit s c g grp t z).covered = g.covered := by simp [afterUnit]
@[simp] theorem afterUnit_other (s : State) (c : Cur) (g : Gang) (grp : Grp) (t : W64) (z : List (Nat × Nat)) : (afterUnit s c g grp t z).slot (!c.slotB) = g.slot (!c.slotB) := by unfold afterUnit; cases c.slotB <;> rfl

@[simp] theorem afterUnit_slot (s : State) (c : Cur) (g : Gang) (grp : Grp) (t : W64) (z : List (Nat × Nat)) :
    (afterUnit s c g grp t z).slot c.slotB = (g.slot c.slotB).gone grp (unitReady s c g grp) t (g.slot c.slotB).mask (g.slot c.slotB).stack z := by
  unfold afterUnit; cases c.slotB <;> rfl

/-- The issue of a group with nothing in its way, naming these registers. -/
def issueOf (s : State) (c : Cur) (g : Gang) (grp : Grp) (regs : List Reg) : Issue :=
  { id := c.gang, slotB := c.slotB, pc := c.pc, wordPc := wordPc c grp, next := nextPc c grp, dist := unitDist c g grp,
    nextDist := unitDist c g grp + 1 + stallsOf grp, pos := (g.slot c.slotB).path ++ [g.seq], replay := none,
    cycle := unitCycle s c g grp, use := unitUse c.gang c.major regs }

@[simp] theorem slot_begun (c : Cur) (g : Gang) :
    (begun c g).slot c.slotB = { g.slot c.slotB with parked := none, waits := false, aged := false, passed := false } := by
  unfold begun Gang.slot Gang.setSlot; cases c.slotB <;> rfl

@[simp] theorem readS_begun (c : Cur) (g : Gang) (n : Nat) : (begun c g).readS c.slotB n = g.readS c.slotB n := by
  unfold Gang.readS; simp [begun, Gang.slot, Gang.setSlot]; cases c.slotB <;> rfl

@[simp] theorem readM_begun (c : Cur) (g : Gang) (n : Nat) : (begun c g).readM n = g.readM n := by
  unfold Gang.readM; simp [begun]

@[simp] theorem lane_begun (c : Cur) (g : Gang) (n l : Nat) : (begun c g).lane? n l = g.lane? n l := by
  simp [Gang.lane?, Gang.row, begun]

@[simp] theorem row_begun (c : Cur) (g : Gang) (n : Nat) : (begun c g).row n = g.row n := by
  simp [Gang.row, begun]

@[simp] theorem beyond_begun (c : Cur) (g : Gang) (r : Reg) : (begun c g).beyond r = g.beyond r := by
  cases r <;> simp [Gang.beyond, begun]

@[simp] theorem pending_begun (c : Cur) (g : Gang) (r : Reg) : (begun c g).pending r = g.pending r := by
  cases r <;> simp [Gang.pending, begun]

@[simp] theorem owned_begun (c : Cur) (g : Gang) (r : Reg) : (begun c g).owned r = g.owned r := by
  cases r <;> simp [Gang.owned, begun]

@[simp] theorem domain_begun (c : Cur) (g : Gang) : (begun c g).domain c.slotB = g.domain c.slotB := by
  unfold begun Gang.domain Gang.setSlot; cases c.slotB <;> rfl

theorem startIssue_clear {s : State} {c : Cur} {g : Gang} (h : Clear s c g) (grp : Grp) :
    startIssue c g grp (s.core g.core).cyc = (begun c g, issueOf s c g grp []) := by
  have hp := h.parked
  simp [startIssue, hp, begun, issueOf, wordPc, nextPc, unitDist, unitCycle]

/-- A bench that has issued nothing in the cycle has room for the unit. -/
theorem onBench_clear {s : State} {c : Cur} {g : Gang} (h : Clear s c g) (grp : Grp) (x : UnitUse) :
    (issueOf s c g grp []).onBench (s.core g.core) (benchOf g.slotNo) (hintWords grp) 0 x = issueOf s c g grp [] := by
  have hroom : ∀ y, (s.core g.core).roomFrom (benchOf g.slotNo) (max (s.core g.core).cyc (g.slot c.slotB).ready) y
      = max (s.core g.core).cyc (g.slot c.slotB).ready := by
    intro y
    unfold Core.roomFrom
    cases hb : aget (s.core g.core).benches (benchOf g.slotNo) with
    | none => rfl
    | some b => simp [BenchUse.shuts, h.room b hb]
  simp [Issue.onBench, issueOf, hroom, unitCycle]

theorem Gang.landIf_empty (g : Gang) (p : Flight → Bool) (h : g.flight = []) : g.landIf p = g := by
  unfold Gang.landIf; rw [h]

theorem settle_empty {s : State} {id : Nat} {g : Gang} (rs : List Reg) (mask : Option Bool) (chip : List (Nat × Nat)) (x : Option Load)
    (h : aget s.gangs id = some g) (hl : g.loads = []) : settle s id rs mask chip x = s := by
  simp [settle, settleIf, h, hl]

theorem prepare_empty {s : State} {i : Issue} {g : Gang} (uses : State → Gang → Issue → Uses) (h : aget s.gangs i.id = some g)
    (hl : g.loads = []) : prepare uses i s = s := by
  unfold prepare
  rw [h]
  simp only
  split
  · rfl
  · exact settle_empty _ _ _ _ h hl

/-- A unit whose registers are usable, and which has no other ground for a fault, raises none (R66). -/
theorem firstFault_none {check : Bool} {g : Gang} {i : Issue} {u : Uses}
    (hill : u.illegal = false) (hun : u.noUnit = false) (hreg : u.regs.all g.usable = true) (hnam : u.named = [])
    (hhaz : (g.slot i.slotB).haz = []) (hmis : u.misaligned = false) (hperm : u.perm = false) (hown : u.owned = false)
    (hdep : u.depInvalid = false) (hst : u.illegalState = false) : firstFault check g i u = none := by
  have hr : ∀ r ∈ u.regs, g.beyond r = false ∧ g.pending r = false ∧ g.owned r = false := by
    intro r hr
    have := List.all_eq_true.mp hreg r hr
    simpa [Gang.usable, and_assoc] using this
  have h1 : u.regs.any g.beyond = false := by simpa using fun r h => (hr r h).1
  have h2 : u.regs.any ((g.slot i.slotB).short i.dist) = false := by simp [Slot.short, hhaz]
  have h4 : u.regs.any g.owned = false := by simpa using fun r h => (hr r h).2.2
  unfold firstFault
  simp [hill, hun, hst, hnam, hmis, hperm, hown, hdep, h1, h2, h4]
  intro r hmem hp
  exact absurd hp (by simp [(hr r hmem).2.1])

/-- A unit that only names usable registers raises no fault. -/
theorem firstFault_of {check : Bool} {s : State} {c : Cur} {g : Gang} {grp : Grp} {regs : List Reg} (h : (g.slot c.slotB).haz = [])
    (hu : regs.all g.usable = true) : firstFault check (begun c g) (issueOf s c g grp []) (Uses.of regs) = none := by
  apply firstFault_none <;> try rfl
  · simpa [Uses.of, Gang.usable] using hu
  · show ((begun c g).slot c.slotB).haz = []
    simp [h]

/-- An issue with nothing in its way and no ground for a fault has its effect, on the gang as it began. -/
theorem issue_clear {s : State} {c : Cur} {g : Gang} (h : Clear s c g) (grp : Grp) (uses : State → Gang → Issue → Uses)
    (effect : State → Gang → Issue → State)
    (hf : firstFault (s.scheck g) (begun c g) (issueOf s c g grp [])
      (uses (s.setGang c.gang (begun c g)) (begun c g) (issueOf s c g grp [])) = none) :
    ∃ regs, issue grp uses effect s = .next (effect (s.setGang c.gang (begun c g)) (begun c g) (issueOf s c g grp regs)) := by
  have hfl : (begun c g).flight = [] := by simp [begun, h.flight]
  have hld : (begun c g).loads = [] := by simp [begun, h.loads]
  have hid : (issueOf s c g grp []).id = c.gang := rfl
  have hmask : (begun c g).maskReady (issueOf s c g grp []).slotB = 0 := by
    unfold Gang.maskReady; rw [hfl]; rfl
  have hsc : (s.setGang c.gang (begun c g)).scheck (begun c g) = s.scheck g := by
    simp [State.scheck, State.ctx, begun]
  unfold issue
  rw [h.cur]
  simp only [h.gang, startIssue_clear h, Gang.landDue, Gang.landMask, Gang.landIf_empty _ _ hfl, ite_self, hid, hmask, onBench_clear h]
  have hprep : prepare uses (issueOf s c g grp []) (s.setGang c.gang (begun c g)) = s.setGang c.gang (begun c g) :=
    prepare_empty (g := begun c g) _ (by simp [hid]) hld
  rw [hprep, hprep]
  simp only [State.setGang_gangs, aget_aput_same]
  have hslot : ((begun c g).slot (issueOf s c g grp []).slotB).parked = none := by
    show ((begun c g).slot c.slotB).parked = none
    simp
  refine ⟨(uses (s.setGang c.gang (begun c g)) (begun c g) (issueOf s c g grp [])).regs, ?_⟩
  simp only [hslot, hld, hsc, hf, Option.isSome_none, List.any_nil, Bool.false_eq_true, if_false]
  rfl

/-! Retirement. -/

theorem retireTo_onlyGang {s : State} {c : Cur} {g h : Gang} {grp : Grp} {regs : List Reg} (target : W64) (hc : h.core = g.core) (hs : h.slotNo = g.slotNo) :
    OnlyGang s c g grp (h.setSlot c.slotB ((h.slot c.slotB).advance (issueOf s c g grp regs) target))
      (retireTo (s.setGang c.gang (begun c g)) (issueOf s c g grp regs) target h) := by
  refine ⟨?_, ?_, ?_, ?_, ?_⟩
  · simp [retireTo, State.setGang, State.issuedAt, State.setCore]
  · intro a; simp [retireTo]
  · simp [retireTo, issueOf]
  · intro id hid
    have h1 : (issueOf s c g grp regs).id = c.gang := rfl
    simp [retireTo, h1, aget_aput_other _ _ hid]
  · refine ⟨regs, fun k => ?_⟩
    rw [retireTo, State.core_issuedAt, hc]
    simp [Core.issued, hs, issueOf, State.setGang, State.core]

theorem begun_advance {s : State} {c : Cur} {g : Gang} (h : Clear s c g) (grp : Grp) (regs : List Reg) (target : W64) :
    (begun c g).setSlot c.slotB (((begun c g).slot c.slotB).advance (issueOf s c g grp regs) target) = afterUnit s c g grp target [] := by
  have hp := h.parked
  have hz := h.haz
  unfold afterUnit
  rw [slot_begun]
  unfold begun Slot.advance Slot.gone issueOf unitDist unitReady Gang.setSlot Gang.slot at *
  cases hb : c.slotB <;> simp_all <;> omega

/-! Landing. -/

/-- Results of one slot that are due together, and nothing else in flight: they land in their order, at their distance. -/
theorem land_flights {g : Gang} {b : Bool} {due lands : Nat} {ws : List RegWrite}
    (hf : g.flight = ws.map (fun w => ({ slotB := b, shared := false, due := due, lands := lands, write := w } : Flight))) :
    g.landSlot b = ({ g with flight := [] } : Gang).landAll b ws ∧
    ∀ k cycle, g.landDue b k cycle = if due ≤ k ∨ lands ≤ cycle then ({ g with flight := [] } : Gang).landAll b ws else g := by
  have hall : ∀ (x : Gang) (l : List RegWrite),
      x.landFlights (l.map (fun w => ({ slotB := b, shared := false, due := due, lands := lands, write := w } : Flight))) = x.landAll b l := by
    intro x l
    induction l generalizing x with
    | nil => rfl
    | cons w t ih => exact ih _
  have hsort : sortBy (fun (a b : Flight) => decide (a.lands < b.lands)) g.flight = g.flight := by
    apply sortBy_const
    rw [hf]
    simp only [List.mem_map]
    rintro x ⟨_, _, rfl⟩ y ⟨_, _, rfl⟩
    simp
  have hland : ∀ p : Flight → Bool, (∀ f ∈ g.flight, p f = true) → g.landIf p = ({ g with flight := [] } : Gang).landAll b ws := by
    intro p hp
    unfold Gang.landIf
    have h1 : g.flight.filter p = g.flight := List.filter_eq_self.mpr hp
    have h2 : g.flight.filter (fun f => !p f) = [] := by
      rw [List.filter_eq_nil_iff]; intro f hm; simp [hp f hm]
    cases hfl : g.flight with
    | nil =>
      rw [hfl] at hf
      have : ws = [] := by simpa using hf.symm
      subst this
      cases g; simp_all [Gang.landAll]
    | cons f fs =>
      simp only
      rw [← hfl, h1, h2, hsort, hf, hall]
  have hnone : ∀ p : Flight → Bool, (∀ f ∈ g.flight, p f = false) → g.landIf p = g := by
    intro p hp
    unfold Gang.landIf
    have h1 : g.flight.filter p = [] := by rw [List.filter_eq_nil_iff]; intro f hm; simp [hp f hm]
    have h2 : g.flight.filter (fun f => !p f) = g.flight := by
      rw [List.filter_eq_self]; intro f hm; simp [hp f hm]
    cases hfl : g.flight with
    | nil => rfl
    | cons f fs =>
      simp only
      rw [← hfl, h1, h2]
      rfl
  refine ⟨?_, ?_⟩
  · apply hland
    rw [hf]
    simp only [List.mem_map]
    rintro f ⟨_, _, rfl⟩
    simp [Flight.onPath]
  · intro k cycle
    by_cases hk : due ≤ k ∨ lands ≤ cycle
    · rw [if_pos hk]
      apply hland
      rw [hf]
      simp only [List.mem_map]
      rintro f ⟨_, _, rfl⟩
      simp only [Flight.onPath, Bool.or_eq_true, Bool.and_eq_true, decide_eq_true_eq]
      rcases hk with hk | hk <;> simp [hk]
    · rw [if_neg hk]
      apply hnone
      rw [hf]
      simp only [List.mem_map]
      rintro f ⟨_, _, rfl⟩
      have hk' := not_or.mp hk
      simp [hk'.1, hk'.2]

/-- A fixed-latency unit with nothing in its way: its results are in flight until their distance, and its gang has only gone
on otherwise (R63). -/
theorem execFixed_clear {s : State} {c : Cur} {g : Gang} (h : Clear s c g) (grp : Grp) (latency : Nat)
    (uses : State → Gang → Issue → Uses) (results : State → Gang → Issue → List RegWrite)
    (hf : firstFault (s.scheck g) (begun c g) (issueOf s c g grp [])
      (uses (s.setGang c.gang (begun c g)) (begun c g) (issueOf s c g grp [])) = none) :
    ∃ regs t k haz, execFixed grp latency uses results s = .next t ∧ OnlyGang s c g grp k t ∧ LandsAfter s c g grp latency k ∧
      k.landSlot c.slotB = (afterUnit s c g grp (nextPc c grp) haz).landAll c.slotB
        ((results (s.setGang c.gang (begun c g)) (begun c g) (issueOf s c g grp regs)).filter (fun w => !w.reg.constant)) := by
  unfold execFixed
  obtain ⟨regs, hx⟩ := issue_clear h grp uses (fun s g i => retire s i (g.launchResults i latency (results s g i))) hf
  rw [hx]
  refine ⟨regs, ?_⟩
  generalize hw : results (s.setGang c.gang (begun c g)) (begun c g) (issueOf s c g grp regs) = rs
  let x := (begun c g).launchResults (issueOf s c g grp regs) latency rs
  let k := x.setSlot c.slotB ((x.slot c.slotB).advance (issueOf s c g grp regs) (nextPc c grp))
  have hflight : k.flight = (rs.filter (fun w => !w.reg.constant)).map
      (fun w => ({ slotB := c.slotB, shared := false, due := unitDist c g grp + latency, lands := unitCycle s c g grp + latency, write := w } : Flight)) := by
    simp [k, x, Gang.launchResults, begun, h.flight, issueOf]
  have hbase : ({ k with flight := [] } : Gang) = afterUnit s c g grp (nextPc c grp) (k.slot c.slotB).haz := by
    have hslot : (g.slot c.slotB).gone grp (unitReady s c g grp) (nextPc c grp) (g.slot c.slotB).mask (g.slot c.slotB).stack (k.slot c.slotB).haz
        = k.slot c.slotB := by
      simp [k, x, Gang.launchResults, Slot.gone, Slot.advance, issueOf, unitDist, unitReady, h.parked]
      omega
    have hback : ({ k with flight := [] } : Gang).slot c.slotB = k.slot c.slotB := by cases c.slotB <;> rfl
    have hother : ({ k with flight := [] } : Gang).slot (!c.slotB) = k.slot (!c.slotB) := by cases c.slotB <;> rfl
    apply Gang.eq_of_slot c.slotB
    · rw [hback, afterUnit_slot, hslot]
    · rw [hother, afterUnit_other]
      simp only [k, Gang.slot_setSlot_other]
      exact (Gang.launchResults_other _ (issueOf s c g grp regs) _ _).trans (begun_other c g)
    all_goals simp [k, x, h.flight]
  obtain ⟨hall, hdue⟩ := land_flights hflight
  have hcore : x.core = g.core := by simp [x]
  have hslotNo : x.slotNo = g.slotNo := by simp [x]
  refine ⟨_, k, (k.slot c.slotB).haz, rfl, retireTo_onlyGang (nextPc c grp) hcore hslotNo, ?_, ?_⟩
  · intro j cycle
    rw [hdue j cycle, hall]
  · rw [hall, hbase]

end Sys2Proof.Machine
end

