-- ==== Sys2Proof/Laws/Memory.lean ====
section
/-! SUPPORT. Laws of memory: a read after a write, and the canonical form that every memory operation keeps. -/

namespace Sys2Proof.Machine

theorem mread_merase (m : Memory) (a b : Nat) : mread (merase m a) b = if b = a then unlisted else mread m b := by
  induction m with
  | nil => simp [merase, mread]
  | cons c t ih =>
    obtain ⟨x, v⟩ := c
    by_cases hx : x = a
    · subst hx
      by_cases hb : b = x
      · subst hb; simpa [merase] using ih
      · simp [merase, mread, ih, hb, Ne.symm hb]
    · by_cases hb : x = b
      · subst hb; simp [merase, mread, hx]
      · simp [merase, mread, hx, hb, ih]

theorem mread_minsert (m : Memory) (a b : Nat) (v : Byte) (h : ∀ c ∈ m, c.1 ≠ a) :
    mread (minsert a v m) b = if b = a then v else mread m b := by
  induction m with
  | nil =>
    by_cases hb : b = a
    · simp [minsert, mread, hb]
    · simp [minsert, mread, hb, Ne.symm hb]
  | cons c t ih =>
    obtain ⟨x, w⟩ := c
    have hx : x ≠ a := h (x, w) (by simp)
    have ht := ih (fun c hc => h c (by simp [hc]))
    by_cases hlt : a < x
    · by_cases hb : b = a
      · simp [minsert, mread, hlt, hb]
      · simp [minsert, mread, hlt, hb, Ne.symm hb]
    · by_cases hb : x = b
      · subst hb; simp [minsert, mread, hlt, hx]
      · simp [minsert, mread, hlt, hb, ht]

theorem merase_ne (m : Memory) (a : Nat) : ∀ c ∈ merase m a, c.1 ≠ a := by
  induction m with
  | nil => simp [merase]
  | cons c t ih =>
    obtain ⟨x, v⟩ := c
    by_cases hx : x = a
    · simpa [merase, hx] using ih
    · intro c hc
      simp only [merase, hx, if_false, List.mem_cons] at hc
      rcases hc with rfl | hc
      · exact hx
      · exact ih c hc

/-- A read after a write: the byte written at its address, the former byte elsewhere. -/
theorem mread_mwrite (m : Memory) (a b : Nat) (v : Byte) : mread (mwrite m a v) b = if b = a then v else mread m b := by
  unfold mwrite
  split
  · next h => rw [mread_merase, h]
  · rw [mread_minsert _ _ _ _ (merase_ne m a), mread_merase]
    split <;> rfl

/-- A read after a write of bytes. -/
theorem mread_mwriteBytes (m : Memory) (a : Nat) (bs : List Byte) (b : Nat) :
    mread (mwriteBytes m a bs) b = if a ≤ b ∧ b < a + bs.length then bs.getD (b - a) 0 else mread m b := by
  induction bs generalizing m a with
  | nil => simp [mwriteBytes]
  | cons x t ih =>
    rw [mwriteBytes, ih, mread_mwrite]
    by_cases hb : b = a
    · subst hb; simp
    · by_cases h1 : a + 1 ≤ b ∧ b < a + 1 + t.length
      · have h2 : a ≤ b ∧ b < a + (x :: t).length := by simp; omega
        have h3 : b - a = (b - (a + 1)) + 1 := by omega
        rw [if_pos h1, if_pos h2, h3, List.getD_cons_succ]
      · have h2 : ¬ (a ≤ b ∧ b < a + (x :: t).length) := by simp; omega
        rw [if_neg h1, if_neg h2, if_neg hb]

@[simp] theorem mreadBytes_length (m : Memory) (a n : Nat) : (mreadBytes m a n).length = n := by
  induction n generalizing a with
  | zero => rfl
  | succ n ih => simp [mreadBytes, ih]

theorem mreadBytes_getD (m : Memory) (a n i : Nat) (h : i < n) : (mreadBytes m a n).getD i 0 = mread m (a + i) := by
  induction n generalizing a i with
  | zero => omega
  | succ n ih =>
    cases i with
    | zero => simp [mreadBytes]
    | succ i => simpa [mreadBytes, Nat.add_assoc, Nat.add_comm 1 i] using ih (a + 1) i (by omega)

/-! The canonical form. -/

/-- Every address of a list of cells is above `a`. -/
def Above (a : Nat) (m : Memory) : Prop := ∀ c ∈ m, a < c.1

theorem wf_cons (a : Nat) (v : Byte) (m : Memory) :
    Memory.wf ((a, v) :: m) = true ↔ v ≠ unlisted ∧ Above a m ∧ Memory.wf m = true := by
  induction m generalizing a v with
  | nil => simp [Memory.wf, Above]
  | cons c t ih =>
    obtain ⟨b, w⟩ := c
    have hb := ih b w
    constructor
    · intro h
      have h1 : v ≠ unlisted ∧ a < b ∧ Memory.wf ((b, w) :: t) = true := by
        simpa [Memory.wf, and_assoc] using h
      refine ⟨h1.1, ?_, h1.2.2⟩
      intro c hc
      rcases List.mem_cons.mp hc with rfl | hc
      · exact h1.2.1
      · exact Nat.lt_trans h1.2.1 ((hb.mp h1.2.2).2.1 c hc)
    · intro h
      have hab : a < b := h.2.1 (b, w) (by simp)
      have h2 := h.2.2
      simp only [Memory.wf, Bool.and_eq_true, decide_eq_true_eq] at h2 ⊢
      exact ⟨⟨h.1, hab⟩, h2⟩

theorem above_merase {x : Nat} {m : Memory} (a : Nat) (h : Above x m) : Above x (merase m a) := by
  induction m with
  | nil => exact h
  | cons c t ih =>
    obtain ⟨b, w⟩ := c
    have ht := ih (fun c hc => h c (by simp [hc]))
    by_cases hb : b = a
    · simpa [merase, hb] using ht
    · intro c hc
      simp only [merase, hb, if_false, List.mem_cons] at hc
      rcases hc with rfl | hc
      · exact h (b, w) (by simp)
      · exact ht c hc

theorem merase_wf {m : Memory} (a : Nat) (h : m.wf = true) : (merase m a).wf = true := by
  induction m with
  | nil => rfl
  | cons c t ih =>
    obtain ⟨b, w⟩ := c
    obtain ⟨h1, h2, h3⟩ := (wf_cons b w t).mp h
    by_cases hb : b = a
    · simpa [merase, hb] using ih h3
    · simp only [merase, hb, if_false]
      exact (wf_cons b w _).mpr ⟨h1, above_merase a h2, ih h3⟩

theorem above_minsert {x a : Nat} {v : Byte} {m : Memory} (h : Above x m) (hx : x < a) : Above x (minsert a v m) := by
  induction m with
  | nil => intro c hc; simp [minsert] at hc; subst hc; exact hx
  | cons c t ih =>
    obtain ⟨b, w⟩ := c
    have ht := ih (fun c hc => h c (by simp [hc]))
    by_cases hlt : a < b
    · intro c hc
      simp only [minsert, hlt, if_true, List.mem_cons] at hc
      rcases hc with rfl | rfl | hc
      · exact hx
      · exact h (b, w) (by simp)
      · exact h c (by simp [hc])
    · intro c hc
      simp only [minsert, hlt, if_false, List.mem_cons] at hc
      rcases hc with rfl | hc
      · exact h (b, w) (by simp)
      · exact ht c hc

theorem minsert_wf {a : Nat} {v : Byte} {m : Memory} (h : m.wf = true) (hv : v ≠ unlisted) (hm : ∀ c ∈ m, c.1 ≠ a) :
    (minsert a v m).wf = true := by
  induction m with
  | nil => simp [minsert, Memory.wf, hv]
  | cons c t ih =>
    obtain ⟨b, w⟩ := c
    obtain ⟨h1, h2, h3⟩ := (wf_cons b w t).mp h
    have hne : b ≠ a := hm (b, w) (by simp)
    by_cases hlt : a < b
    · simp only [minsert, hlt, if_true]
      refine (wf_cons a v _).mpr ⟨hv, ?_, h⟩
      intro c hc
      rcases List.mem_cons.mp hc with rfl | hc
      · exact hlt
      · exact Nat.lt_trans hlt (h2 c hc)
    · simp only [minsert, hlt, if_false]
      exact (wf_cons b w _).mpr ⟨h1, above_minsert h2 (by omega), ih h3 (fun c hc => hm c (by simp [hc]))⟩

theorem mwrite_wf {m : Memory} (a : Nat) (v : Byte) (h : m.wf = true) : (mwrite m a v).wf = true := by
  unfold mwrite
  split
  · exact merase_wf a h
  · next hv => exact minsert_wf (merase_wf a h) hv (merase_ne m a)

theorem mwriteBytes_wf {m : Memory} (a : Nat) (bs : List Byte) (h : m.wf = true) : (mwriteBytes m a bs).wf = true := by
  induction bs generalizing m a with
  | nil => exact h
  | cons b t ih => exact ih (a + 1) (mwrite_wf a b h)

theorem mwriteNat_wf {m : Memory} (a n v : Nat) (h : m.wf = true) : (mwriteNat m a n v).wf = true := mwriteBytes_wf a _ h

theorem filter_wf {m : Memory} (p : Host.Cell → Bool) (h : m.wf = true) : Memory.wf (m.filter p) = true := by
  induction m with
  | nil => rfl
  | cons c t ih =>
    obtain ⟨b, w⟩ := c
    obtain ⟨h1, h2, h3⟩ := (wf_cons b w t).mp h
    by_cases hp : p (b, w) = true
    · rw [List.filter_cons_of_pos hp]
      exact (wf_cons b w _).mpr ⟨h1, fun c hc => h2 c (List.mem_filter.mp hc).1, ih h3⟩
    · rw [List.filter_cons_of_neg hp]; exact ih h3

theorem mclear_wf {m : Memory} (a n : Nat) (h : m.wf = true) : (mclear m a n).wf = true := filter_wf _ h

/-- Two memories in canonical form that read alike are the same data. -/
theorem wf_ext {m n : Memory} (hm : m.wf = true) (hn : n.wf = true) (h : ∀ a, mread m a = mread n a) : m = n := by
  induction m generalizing n with
  | nil =>
    cases n with
    | nil => rfl
    | cons c t =>
      obtain ⟨b, w⟩ := c
      have := h b
      simp [mread] at this
      exact absurd this.symm ((wf_cons b w t).mp hn).1
  | cons c t ih =>
    obtain ⟨a, v⟩ := c
    obtain ⟨h1, h2, h3⟩ := (wf_cons a v t).mp hm
    have miss : ∀ {x : Nat} {l : Memory}, Above x l → mread l x = unlisted := by
      intro x l hl
      induction l with
      | nil => rfl
      | cons d u ihu =>
        obtain ⟨y, z⟩ := d
        have : y ≠ x := Nat.ne_of_gt (hl (y, z) (by simp))
        simp only [mread, this, if_false]
        exact ihu (fun c hc => hl c (by simp [hc]))
    cases n with
    | nil =>
      have := h a
      simp [mread] at this
      exact absurd this h1
    | cons d u =>
      obtain ⟨b, w⟩ := d
      obtain ⟨g1, g2, g3⟩ := (wf_cons b w u).mp hn
      have low : ∀ {x y : Nat} {z : Byte} {l : Memory}, x < y → Above y l → mread ((y, z) :: l) x = unlisted := by
        intro x y z l hxy hl
        exact miss (fun c hc => by
          rcases List.mem_cons.mp hc with rfl | hc
          · exact hxy
          · exact Nat.lt_trans hxy (hl c hc))
      have hab : a = b := by
        rcases Nat.lt_trichotomy a b with hlt | heq | hgt
        · have := h a
          rw [low hlt g2] at this
          simp [mread] at this
          exact absurd this h1
        · exact heq
        · have := h b
          rw [low hgt h2] at this
          simp [mread] at this
          exact absurd this.symm g1
      subst hab
      have hvw : v = w := by simpa [mread] using h a
      subst hvw
      congr 1
      refine ih h3 g3 (fun x => ?_)
      by_cases hx : a = x
      · subst hx; rw [miss h2, miss g2]
      · simpa [mread, hx] using h x

end Sys2Proof.Machine
end

