-- ==== Sys2Proof/Laws/Regs.lean ====
section
/-! SUPPORT. Laws of the registers: what a read gives after a write (R17 to R20, R25), and the register results of units. -/

namespace Sys2Proof.Machine

theorem readS_writeS (g : Gang) (b : Bool) (d n : Nat) (v : W64) :
    (g.writeS b d v).readS b n =
      if n = d ∧ n ≠ 63 then (if n = 62 then (v.setWidth 32 &&& g.domain b).setWidth 64 else v) else g.readS b n := by
  unfold Gang.writeS
  by_cases h63 : d = 63
  · rw [if_pos h63, if_neg (by omega)]
  · rw [if_neg h63]
    by_cases h62 : d = 62
    · subst h62
      rw [if_pos rfl]
      by_cases hn : n = 62
      · subst hn; simp [Gang.readS]
      · rw [if_neg (by omega)]
        unfold Gang.readS
        simp [hn]
    · rw [if_neg h62]
      unfold Gang.readS
      by_cases hn : n = 63
      · simp [hn]
      · by_cases hn2 : n = 62
        · subst hn2; simp [Ne.symm h62, Gang.slot]
        · by_cases hd : n = d
          · simp [hd, h63, h62, tget_tset_same]
          · simp [hn, hn2, hd, tget_tset_other]

theorem readM_writeM (g : Gang) (d n : Nat) (v : W32) :
    (g.writeM d v).readM n = if n = d ∧ n ≠ 0 then v else g.readM n := by
  unfold Gang.writeM
  by_cases h0 : d = 0
  · rw [if_pos h0, if_neg (by omega)]
  · rw [if_neg h0]
    unfold Gang.readM
    by_cases hn : n = 0
    · simp [hn]
    · by_cases hd : n = d
      · simp [hd, h0, tget_tset_same]
      · simp [hn, hd, tget_tset_other]

theorem lane_writeV (g : Gang) (d : Nat) (lanes : W32) (vs : List W32) (j l : Nat) (hl : l < 32) :
    (g.writeV d lanes vs).lane? j l = if j = d ∧ bit lanes l = true then tget 0 vs l else g.lane? j l := by
  unfold Gang.writeV
  by_cases h0 : lanes = 0
  · subst h0; simp [bit]
  · rw [if_neg h0]
    unfold Gang.lane? Gang.row
    by_cases hj : j = d
    · subst hj
      simp only [tget_tset_same, mergeRow, tget_map_range, if_pos hl, true_and]
    · simp [hj, tget_tset_other]

theorem writeS_slot (g : Gang) (b : Bool) (d : Nat) (v : W64) :
    (g.writeS b d v).slot b = { g.slot b with mask := ((g.writeS b d v).slot b).mask } := by
  unfold Gang.writeS
  split
  · rfl
  · split
    · simp
    · cases b <;> rfl

theorem writeS_other (g : Gang) (b : Bool) (d : Nat) (v : W64) : (g.writeS b d v).slot (!b) = g.slot (!b) := by
  unfold Gang.writeS
  split
  · rfl
  · split
    · simp
    · cases b <;> rfl

/-- A scalar result landing in a gang that has only gone on. -/
theorem scalar_landed (s : State) (c : Cur) (g : Gang) (grp : Grp) (target : W64) (haz : List (Nat × Nat)) (d : Nat) (v : W64) :
    let r := (afterUnit s c g grp target haz).landAll c.slotB ([RegWrite.scalar d v].filter (fun w => !w.reg.constant))
    (∀ n, r.readS c.slotB n =
      if n = d ∧ n ≠ 63 then (if n = 62 then (v.setWidth 32 &&& g.domain c.slotB).setWidth 64 else v) else g.readS c.slotB n) ∧
    Advances s c g grp target (r.slot c.slotB).mask (g.slot c.slotB).stack r ∧ r = { g with s := r.s, a := r.a, b := r.b, seq := r.seq } := by
  have hdom : (afterUnit s c g grp target haz).domain c.slotB = g.domain c.slotB := by
    unfold afterUnit Gang.domain Gang.setSlot; cases c.slotB <;> rfl
  have hread : ∀ n, (afterUnit s c g grp target haz).readS c.slotB n = g.readS c.slotB n := by
    intro n; simp [Gang.readS, Slot.gone]
  have hr : (afterUnit s c g grp target haz).landAll c.slotB ([RegWrite.scalar d v].filter (fun w => !w.reg.constant))
      = (afterUnit s c g grp target haz).writeS c.slotB d v := by
    by_cases h : d = 63
    · subst h; simp [RegWrite.reg, Reg.constant, Gang.landAll, Gang.writeS]
    · simp [RegWrite.reg, Reg.constant, Gang.landAll, Gang.land, h]
  rw [hr]
  refine ⟨fun n => by rw [readS_writeS, hdom, hread], ⟨?_, ?_, by simp⟩, ?_⟩
  · rw [writeS_slot]; simp [Slot.gone]
  · rw [writeS_other]; simp
  · apply Gang.ext <;> simp

/-- A fixed-latency scalar result (R63). -/
theorem scalarResult_fixed {s : State} {c : Cur} {g : Gang} (h : Clear s c g) {grp : Grp} {latency d : Nat} {v : W64}
    {uses : State → Gang → Issue → Uses} {results : State → Gang → Issue → List RegWrite}
    (hf : firstFault (s.scheck g) (begun c g) (issueOf s c g grp [])
      (uses (s.setGang c.gang (begun c g)) (begun c g) (issueOf s c g grp [])) = none)
    (hr : ∀ regs, results (s.setGang c.gang (begun c g)) (begun c g) (issueOf s c g grp regs) = [.scalar d v]) :
    ScalarResult s c g grp (nextPc c grp) latency d v (execFixed grp latency uses results s) := by
  obtain ⟨regs, t, k, haz, ht, honly, hland, hk⟩ := execFixed_clear h grp latency uses results hf
  rw [hr] at hk
  have := scalar_landed s c g grp (nextPc c grp) haz d v
  rw [← hk] at this
  exact ⟨t, k, ht, honly, hland, this⟩

/-- A scalar result that is there when its unit retires. -/
theorem scalarResult_retireTo {s : State} {c : Cur} {g : Gang} (h : Clear s c g) (grp : Grp) (regs : List Reg) (target : W64) (d : Nat) (v : W64) :
    ScalarResult s c g grp target 0 d v
      (.next (retireTo (s.setGang c.gang (begun c g)) (issueOf s c g grp regs) target ((begun c g).writeS c.slotB d v))) := by
  let k := ((begun c g).writeS c.slotB d v).setSlot c.slotB ((((begun c g).writeS c.slotB d v).slot c.slotB).advance (issueOf s c g grp regs) target)
  have hfl : k.flight = [] := by simp [k, h.flight]
  have hmask : (k.slot c.slotB).mask = (((begun c g).writeS c.slotB d v).slot c.slotB).mask := by simp [k]
  have hread : ∀ n, k.readS c.slotB n = ((begun c g).writeS c.slotB d v).readS c.slotB n := by
    intro n; simp only [Gang.readS, hmask]; simp [k]
  have hland : k.landSlot c.slotB = k := Gang.landIf_empty _ _ hfl
  refine ⟨_, k, rfl, retireTo_onlyGang target (by simp) (by simp), ?_, ?_⟩
  · intro j cycle
    rw [Gang.landDue, Gang.landIf_empty _ _ hfl, hland, ite_self]
  · rw [hland]
    refine ⟨fun n => ?_, ⟨?_, ?_, by simp [k]⟩, ?_⟩
    · rw [hread, readS_writeS, domain_begun, readS_begun]
    · simp only [k, Gang.slot_setSlot]
      rw [writeS_slot]
      simp [Slot.gone, Slot.advance, issueOf, unitDist, unitReady, h.parked]
      omega
    · simp only [k, Gang.slot_setSlot_other]
      rw [writeS_other, begun_other]
    · apply Gang.ext <;> simp [k]

/-- An interlocked scalar result (R63). -/
theorem scalarResult_interlocked {s : State} {c : Cur} {g : Gang} (h : Clear s c g) {grp : Grp} {d : Nat} {v : W64}
    {uses : State → Gang → Issue → Uses} {results : State → Gang → Issue → List RegWrite}
    (hf : firstFault (s.scheck g) (begun c g) (issueOf s c g grp [])
      (uses (s.setGang c.gang (begun c g)) (begun c g) (issueOf s c g grp [])) = none)
    (hr : ∀ regs, results (s.setGang c.gang (begun c g)) (begun c g) (issueOf s c g grp regs) = [.scalar d v]) :
    ScalarResult s c g grp (nextPc c grp) 0 d v (execInterlocked grp uses results s) := by
  unfold execInterlocked
  obtain ⟨regs, hx⟩ := issue_clear h grp uses (fun s g i => retire s i (g.landAll i.slotB (results s g i))) hf
  rw [hx, hr]
  exact scalarResult_retireTo h grp regs _ d v

/-- A unit that goes on with a mask and a mask stack. -/
theorem masksTo_retireTo {s : State} {c : Cur} {g : Gang} (h : Clear s c g) (grp : Grp) (regs : List Reg) (target : W64) (mask : W32)
    (stack : List StackEntry) :
    MasksTo s c g grp target mask stack
      (.next (retireTo (s.setGang c.gang (begun c g)) (issueOf s c g grp regs) target ((begun c g).setMask c.slotB mask stack))) := by
  refine ⟨_, _, rfl, retireTo_onlyGang target (by simp [Gang.setMask]) (by simp [Gang.setMask]), ⟨?_, ?_, by simp [Gang.setMask]⟩, ?_⟩
  · simp [Gang.setMask, Slot.gone, Slot.advance, issueOf, unitDist, unitReady, h.parked]
    omega
  · simp [Gang.setMask]
  · apply Gang.ext <;> simp [Gang.setMask]

/-- A unit that only goes on. -/
theorem goesTo_retireTo {s : State} {c : Cur} {g : Gang} (h : Clear s c g) (grp : Grp) (regs : List Reg) (target : W64) :
    GoesTo s c g grp target (.next (retireTo (s.setGang c.gang (begun c g)) (issueOf s c g grp regs) target (begun c g))) := by
  have hm : (begun c g).setMask c.slotB (g.slot c.slotB).mask (g.slot c.slotB).stack = begun c g := by
    unfold Gang.setMask
    conv_rhs => rw [← Gang.setSlot_slot (begun c g) c.slotB]
    simp
  have hg := masksTo_retireTo h grp regs target (g.slot c.slotB).mask (g.slot c.slotB).stack
  rw [hm] at hg
  exact hg

/-! Landing in mask and vector registers. -/

theorem mask_landed (s : State) (c : Cur) (g : Gang) (grp : Grp) (haz : List (Nat × Nat)) (d : Nat) (v : W32) :
    let r := (afterUnit s c g grp (nextPc c grp) haz).landAll c.slotB ([RegWrite.mask d v].filter (fun w => !w.reg.constant))
    (∀ n, r.readM n = if n = d ∧ n ≠ 0 then v else g.readM n) ∧
    Advances s c g grp (nextPc c grp) (g.slot c.slotB).mask (g.slot c.slotB).stack r ∧ r = { g with m := r.m, a := r.a, b := r.b, seq := r.seq } := by
  have hr : (afterUnit s c g grp (nextPc c grp) haz).landAll c.slotB ([RegWrite.mask d v].filter (fun w => !w.reg.constant))
      = (afterUnit s c g grp (nextPc c grp) haz).writeM d v := by
    by_cases h : d = 0
    · subst h; simp [RegWrite.reg, Reg.constant, Gang.landAll, Gang.writeM]
    · simp [RegWrite.reg, Reg.constant, Gang.landAll, Gang.land, h]
  have hslot : ∀ b, ((afterUnit s c g grp (nextPc c grp) haz).writeM d v).slot b = (afterUnit s c g grp (nextPc c grp) haz).slot b := by
    intro b; cases b <;> simp [Gang.slot]
  rw [hr]
  refine ⟨fun n => ?_, ⟨?_, ?_, by simp⟩, ?_⟩
  · rw [readM_writeM]; simp [Gang.readM]
  · rw [hslot]; simp [Slot.gone]
  · rw [hslot]; simp
  · apply Gang.ext <;> simp

/-- A fixed-latency mask result (R63). -/
theorem maskResult_fixed {s : State} {c : Cur} {g : Gang} (h : Clear s c g) {grp : Grp} {latency d : Nat} {v : W32}
    {uses : State → Gang → Issue → Uses} {results : State → Gang → Issue → List RegWrite}
    (hf : firstFault (s.scheck g) (begun c g) (issueOf s c g grp [])
      (uses (s.setGang c.gang (begun c g)) (begun c g) (issueOf s c g grp [])) = none)
    (hr : ∀ regs, results (s.setGang c.gang (begun c g)) (begun c g) (issueOf s c g grp regs) = [.mask d v]) :
    MaskResult s c g grp latency d v (execFixed grp latency uses results s) := by
  obtain ⟨regs, t, k, haz, ht, honly, hland, hk⟩ := execFixed_clear h grp latency uses results hf
  rw [hr] at hk
  have := mask_landed s c g grp haz d v
  rw [← hk] at this
  exact ⟨t, k, ht, honly, hland, this⟩

/-- Whole vector writes to registers `d` up, one list of lanes each, over the lanes `lanes`. -/
theorem landAll_rows (b : Bool) (lanes : W32) (rows : Nat → List W32) (n d : Nat) (x : Gang) (j l : Nat) (hl : l < 32) :
    (x.landAll b ((List.range' d n).map (fun i => RegWrite.vector i lanes (rows i)))).lane? j l =
      if d ≤ j ∧ j < d + n ∧ bit lanes l = true then tget 0 (rows j) l else x.lane? j l := by
  induction n generalizing d x with
  | zero => simp [Gang.landAll]; omega
  | succ n ih =>
    rw [List.range'_succ, List.map_cons, Gang.landAll, ih, Gang.land, lane_writeV _ _ _ _ _ _ hl]
    by_cases hb : bit lanes l = true
    · simp only [hb, and_true]
      by_cases hj : j = d
      · subst hj; simp
      · by_cases h1 : d + 1 ≤ j ∧ j < d + 1 + n
        · rw [if_pos h1, if_pos (by omega)]
        · rw [if_neg h1, if_neg hj, if_neg (by omega)]
    · simp [hb]

theorem landAll_rows_frame (b : Bool) (lanes : W32) (rows : Nat → List W32) (l : List Nat) (x : Gang) :
    x.landAll b (l.map (fun i => RegWrite.vector i lanes (rows i))) =
      { x with v := (x.landAll b (l.map (fun i => RegWrite.vector i lanes (rows i)))).v } := by
  induction l generalizing x with
  | nil => rfl
  | cons i t ih =>
    have hw : x.land b (RegWrite.vector i lanes (rows i)) = x.writeV i lanes (rows i) := rfl
    have hv : x.writeV i lanes (rows i) = { x with v := (x.writeV i lanes (rows i)).v } := by
      unfold Gang.writeV; split <;> rfl
    rw [List.map_cons, Gang.landAll, hw, ih]
    generalize ((x.writeV i lanes (rows i)).landAll b (t.map (fun i => RegWrite.vector i lanes (rows i)))).v = w
    rw [hv]

theorem vecWrites_eq (g : Gang) (i : Issue) (grp : Grp) (d n : Nat) (f : Nat → List W32) :
    (vecWrites g i grp d n f).filter (fun w => !w.reg.constant) =
      (List.range' d n).map (fun j => RegWrite.vector j (partMask g i grp ||| zeroMask g i grp)
        (((List.range 32).map (fun l => if bit (partMask g i grp) l then f l else [])).map (fun r => tget 0 r (j - d)))) := by
  rw [List.filter_eq_self.mpr]
  · simp only [vecWrites, List.range'_eq_map_range, List.map_map]
    apply List.map_congr_left
    intro j _
    simp
  · intro w hw
    simp only [vecWrites, List.mem_map] at hw
    obtain ⟨j, _, rfl⟩ := hw
    simp [RegWrite.reg, Reg.constant]

theorem bit_partMask (s : State) (c : Cur) (g : Gang) (grp : Grp) (regs : List Reg) (l : Nat) :
    bit (partMask (begun c g) (issueOf s c g grp regs) grp) l = participates c g grp l := by
  have : (issueOf s c g grp regs).replay = none := rfl
  simp only [partMask, this, participates, bit, BitVec.getLsbD_and, readM_begun]
  simp [issueOf]

theorem bit_zeroMask (s : State) (c : Cur) (g : Gang) (grp : Grp) (regs : List Reg) (l : Nat) (hl : l < 32) :
    bit (zeroMask (begun c g) (issueOf s c g grp regs) grp) l = zeroed c g grp l := by
  have : (issueOf s c g grp regs).replay = none := rfl
  simp only [zeroMask, maskedOff, this, zeroed, bit, readM_begun]
  by_cases hz : grp.fields.zero = true
  · simp [hz, issueOf, hl]
  · simp [hz]

/-- A vector result landing in a gang that has only gone on. -/
theorem vector_landed (s : State) (c : Cur) (g : Gang) (grp : Grp) (regs : List Reg) (haz : List (Nat × Nat)) (d n : Nat) (f : Nat → List W32) :
    let r := (afterUnit s c g grp (nextPc c grp) haz).landAll c.slotB
      ((vecWrites (begun c g) (issueOf s c g grp regs) grp d n f).filter (fun w => !w.reg.constant))
    (∀ j l, l < 32 → r.lane? j l =
      if d ≤ j ∧ j < d + n ∧ participates c g grp l then tget 0 (f l) (j - d)
      else if d ≤ j ∧ j < d + n ∧ zeroed c g grp l then 0 else g.lane? j l) ∧
    Advances s c g grp (nextPc c grp) (g.slot c.slotB).mask (g.slot c.slotB).stack r ∧ r = { g with v := r.v, a := r.a, b := r.b, seq := r.seq } := by
  intro r
  have hr : r = { afterUnit s c g grp (nextPc c grp) haz with v := r.v } := by
    simp only [r, vecWrites_eq]
    exact landAll_rows_frame _ _ _ _ _
  have hslot : ∀ b, r.slot b = (afterUnit s c g grp (nextPc c grp) haz).slot b := by
    intro b; rw [hr]; cases b <;> rfl
  refine ⟨?_, ⟨?_, ?_, ?_⟩, ?_⟩
  · intro j l hl
    simp only [r, vecWrites_eq]
    rw [landAll_rows _ _ _ _ _ _ _ _ hl]
    have hlane : (afterUnit s c g grp (nextPc c grp) haz).lane? j l = g.lane? j l := by simp [Gang.lane?, Gang.row]
    rw [hlane, List.map_map, tget_map_range, if_pos hl]
    simp only [Function.comp, bit_partMask]
    have hb : bit (partMask (begun c g) (issueOf s c g grp regs) grp ||| zeroMask (begun c g) (issueOf s c g grp regs) grp) l
        = (participates c g grp l || zeroed c g grp l) := by
      rw [← bit_partMask s c g grp regs, ← bit_zeroMask s c g grp regs l hl]; simp [bit]
    rw [hb]
    by_cases hd : d ≤ j ∧ j < d + n
    · cases hp : participates c g grp l <;> cases hz : zeroed c g grp l <;> simp [hd, tget]
    · have : ∀ q : Prop, ¬ (d ≤ j ∧ j < d + n ∧ q) := fun q hq => hd ⟨hq.1, hq.2.1⟩
      simp [this]
  · rw [hslot]; simp [Slot.gone]
  · rw [hslot]; simp
  · rw [hr]; simp
  · apply Gang.ext
    all_goals first | rfl | (rw [hr]; simp)

/-- A fixed-latency vector result in the frame of R129. -/
theorem vectorResult_fixed {s : State} {c : Cur} {g : Gang} (h : Clear s c g) {grp : Grp} {latency d n : Nat} {f : Nat → List W32}
    {uses : State → Gang → Issue → Uses} {results : State → Gang → Issue → List RegWrite}
    (hf : firstFault (s.scheck g) (begun c g) (issueOf s c g grp [])
      (uses (s.setGang c.gang (begun c g)) (begun c g) (issueOf s c g grp [])) = none)
    (hr : ∀ regs, results (s.setGang c.gang (begun c g)) (begun c g) (issueOf s c g grp regs) = vecWrites (begun c g) (issueOf s c g grp regs) grp d n f) :
    VectorResult s c g grp latency d n (fun j l => tget 0 (f l) j) (execFixed grp latency uses results s) := by
  obtain ⟨regs, t, k, haz, ht, honly, hland, hk⟩ := execFixed_clear h grp latency uses results hf
  rw [hr] at hk
  have := vector_landed s c g grp regs haz d n f
  rw [← hk] at this
  exact ⟨t, k, ht, honly, hland, this⟩

end Sys2Proof.Machine
end

