-- ==== Sys2Proof/Laws/Scalar.lean ====
section
/-! SUPPORT. The results of the scalar forms (R100 to R103). -/

namespace Sys2Proof.Machine

variable {s : State} {c : Cur} {g : Gang}

theorem scalar3_result (h : Clear s c g) (grp : Grp) (o : OpS3) (hu : (regsS3 o).all g.usable = true) (latency : Nat)
    (f : W64 → W64 → W64 → W64) :
    ScalarResult s c g grp (nextPc c grp) latency o.d.toNat
      (f (g.readS c.slotB o.d.toNat) (g.readS c.slotB o.a.toNat) (g.readS c.slotB o.b.toNat)) (scalar3 latency f grp o s) := by
  apply scalarResult_fixed h (firstFault_of h.haz hu)
  simp [issueOf]

theorem scalarDiv_result (h : Clear s c g) (grp : Grp) (o : OpS3) (hu : (regsS3 o).all g.usable = true)
    (f : W64 → W64 → W64) :
    ScalarResult s c g grp (nextPc c grp) 0 o.d.toNat
      (f (g.readS c.slotB o.a.toNat) (g.readS c.slotB o.b.toNat)) (scalarDiv f grp o s) := by
  apply scalarResult_interlocked h (firstFault_of h.haz hu)
  simp [issueOf]

theorem scalar2_result (h : Clear s c g) (grp : Grp) (o : OpS2) (hu : (regsS2 o).all g.usable = true) (f : W64 → W64) :
    ScalarResult s c g grp (nextPc c grp) 2 o.d.toNat (f (g.readS c.slotB o.a.toNat)) (scalar2 f grp o s) := by
  apply scalarResult_fixed h (firstFault_of h.haz hu)
  simp [issueOf]

theorem scalarImm_result (h : Clear s c g) (grp : Grp) (o : OpSI) (hu : (regsSI o).all g.usable = true) (f : W64 → W64) :
    ScalarResult s c g grp (nextPc c grp) 2 o.d.toNat (f (g.readS c.slotB o.d.toNat)) (scalarImm f grp o s) := by
  apply scalarResult_fixed h (firstFault_of h.haz hu)
  simp [issueOf]

end Sys2Proof.Machine
end

