-- ==== Sys2Proof/Laws/Operands.lean ====
section
/-! SUPPORT. Immediates and labels as the claims write them, and the first faults of units that use the mask (R25, R49, R59). -/

namespace Sys2Proof.Machine

theorem sext_toInt {w : Nat} (hw : 0 < w) (x : BitVec w) : sext w x.toNat = x.toInt := by
  have hx := x.isLt
  have h2 : 2 * 2 ^ (w - 1) = 2 ^ w := by rw [← Nat.pow_succ']; congr 1; omega
  unfold sext
  rw [Nat.mod_eq_of_lt hx, BitVec.toInt_eq_toNat_cond]
  split <;> split <;> first | rfl | (exfalso; omega)

theorem ofInt_sext {w : Nat} (hw : 0 < w) (x : BitVec w) : BitVec.ofInt 64 (sext w x.toNat) = x.signExtend 64 := by
  rw [sext_toInt hw, BitVec.signExtend]

theorem toNat_append_eq {v w : Nat} (a : BitVec v) (x : BitVec w) : (a ++ x).toNat = a.toNat * 2 ^ w + x.toNat := by
  rw [BitVec.toNat_append, Nat.shiftLeft_eq, Nat.mul_comm, ← Nat.two_pow_add_eq_or_of_lt x.isLt]

theorem immX_eq {w : Nat} (hw : 0 < w) (g : Grp) (x : BitVec w) : immX g x = longSigned g.limms x := by
  unfold immX widen longSigned
  match g.limms with
  | [] => exact ofInt_sext hw x
  | [a] =>
    have := ofInt_sext (w := 24 + w) (by omega) (a ++ x)
    rw [toNat_append_eq] at this
    rw [Nat.add_comm w 24]; exact this
  | a :: b :: _ =>
    have := ofInt_sext (w := 24 + 24 + w) (by omega) (a ++ b ++ x)
    rw [toNat_append_eq, toNat_append_eq, Nat.add_mul, Nat.mul_assoc, ← Nat.pow_add] at this
    rw [show w + 48 = 24 + 24 + w by omega]; exact this

theorem setWidth_eq_w64 {w : Nat} (x : BitVec w) : w64 x.toNat = x.setWidth 64 := by
  apply BitVec.eq_of_toNat_eq
  rw [w64, BitVec.toNat_setWidth, BitVec.toNat_ofNat]

theorem immZ_eq {w : Nat} (g : Grp) (x : BitVec w) : immZ g x = longUnsigned g.limms x := by
  unfold immZ widen longUnsigned
  match g.limms with
  | [] => exact setWidth_eq_w64 x
  | [a] =>
    have := setWidth_eq_w64 (a ++ x)
    rw [toNat_append_eq] at this
    exact this
  | a :: b :: _ =>
    have := setWidth_eq_w64 (a ++ b ++ x)
    rw [toNat_append_eq, toNat_append_eq, Nat.add_mul, Nat.mul_assoc, ← Nat.pow_add] at this
    exact this

theorem branchTarget_eq {w : Nat} (hw : 0 < w) (s : State) (c : Cur) (g : Gang) (grp : Grp) (regs : List Reg) (off : BitVec w) :
    branchTarget grp (issueOf s c g grp regs) off = labelOf c grp off := by
  unfold branchTarget labelOf
  rw [immX_eq hw]
  congr 1
  rw [BitVec.shiftLeft_eq_mul_twoPow, BitVec.mul_comm]
  rfl
/-- A unit that uses the activity mask and names usable registers raises no fault. -/
theorem firstFault_vec {check : Bool} {s : State} {c : Cur} {g : Gang} {grp : Grp} {regs : List Reg} (h : (g.slot c.slotB).haz = [])
    (hu : regs.all g.usable = true) : firstFault check (begun c g) (issueOf s c g grp []) (Uses.vec regs) = none := by
  have := firstFault_of (check := check) (s := s) (grp := grp) h hu
  simpa [firstFault, Uses.vec, Uses.of] using this

end Sys2Proof.Machine
end

