-- ==== Sys2Proof/Laws/Words.lean ====
section
/-! SUPPORT. What the fields of a composed instruction word read as: the opcode fields of each word layout, and
one lemma per operand format, that reading its fields back from its encoding gives the operands (R47). -/

set_option linter.unusedSimpArgs false
set_option linter.unnecessarySeqFocus false

namespace Sys2Proof.Laws

/-- A group with another stall count. -/
def Grp.withStall (g : Grp) (s : BitVec 2) : Grp := { g with stall := s }

/-- The opcode fields of a word with a 6-bit func field. -/
theorem word18 (m : BitVec 6) (t : BitVec 2) (f : BitVec 6) (x : BitVec 18) (w : W32)
    (h : w = (m ++ t ++ f ++ x : BitVec 32)) :
    w.extractLsb' 26 6 = m ∧ w.extractLsb' 24 2 = t ∧ w.extractLsb' 18 6 = f := by
  subst h
  refine ⟨?_, ?_, ?_⟩ <;> ext i hi <;> simp only [BitVec.getElem_extractLsb', BitVec.getLsbD_append] <;> simp <;> grind

/-- A word with a 6-bit func field decodes by its major opcode's table. -/
theorem decodeWord18 (m : BitVec 6) (f : BitVec 6) (x : BitVec 18) (g : Grp) (s : BitVec 2) (i : Instr)
    (M D : Grp → W32 → Decoded)
    (hM : ∀ g0 w, w.extractLsb' 26 6 = m → decodeWord g0 w = M (Grp.withStall g0 (w.extractLsb' 24 2)) w)
    (hF : ∀ w : W32, w.extractLsb' 18 6 = f → M g w = D g w)
    (hD : ∀ h : BitVec 14, D g (h ++ x : BitVec 32) = .ok i) :
    decodeWord (Grp.withStall g s) (m ++ g.stall ++ f ++ x : BitVec 32) = .ok i := by
  obtain ⟨h1, h2, h3⟩ := word18 m g.stall f x _ rfl
  rw [hM _ _ h1, h2]
  exact (hF _ h3).trans (hD _)

/-- The opcode fields of a word with a 4-bit func field. -/
theorem word20 (m : BitVec 6) (t : BitVec 2) (f : BitVec 4) (x : BitVec 20) (w : W32)
    (h : w = (m ++ t ++ f ++ x : BitVec 32)) :
    w.extractLsb' 26 6 = m ∧ w.extractLsb' 24 2 = t ∧ w.extractLsb' 20 4 = f := by
  subst h
  refine ⟨?_, ?_, ?_⟩ <;> ext i hi <;> simp only [BitVec.getElem_extractLsb', BitVec.getLsbD_append] <;> simp <;> grind

/-- A word with a 4-bit func field decodes by its major opcode's table. -/
theorem decodeWord20 (m : BitVec 6) (f : BitVec 4) (x : BitVec 20) (g : Grp) (s : BitVec 2) (i : Instr)
    (M D : Grp → W32 → Decoded)
    (hM : ∀ g0 w, w.extractLsb' 26 6 = m → decodeWord g0 w = M (Grp.withStall g0 (w.extractLsb' 24 2)) w)
    (hF : ∀ w : W32, w.extractLsb' 20 4 = f → M g w = D g w)
    (hD : ∀ h : BitVec 12, D g (h ++ x : BitVec 32) = .ok i) :
    decodeWord (Grp.withStall g s) (m ++ g.stall ++ f ++ x : BitVec 32) = .ok i := by
  obtain ⟨h1, h2, h3⟩ := word20 m g.stall f x _ rfl
  rw [hM _ _ h1, h2]
  exact (hF _ h3).trans (hD _)

/-- The opcode fields of a word with a 3-bit func field. -/
theorem word21 (m : BitVec 6) (t : BitVec 2) (f : BitVec 3) (x : BitVec 21) (w : W32)
    (h : w = (m ++ t ++ f ++ x : BitVec 32)) :
    w.extractLsb' 26 6 = m ∧ w.extractLsb' 24 2 = t ∧ w.extractLsb' 21 3 = f := by
  subst h
  refine ⟨?_, ?_, ?_⟩ <;> ext i hi <;> simp only [BitVec.getElem_extractLsb', BitVec.getLsbD_append] <;> simp <;> grind

/-- A word with a 3-bit func field decodes by its major opcode's table. -/
theorem decodeWord21 (m : BitVec 6) (f : BitVec 3) (x : BitVec 21) (g : Grp) (s : BitVec 2) (i : Instr)
    (M D : Grp → W32 → Decoded)
    (hM : ∀ g0 w, w.extractLsb' 26 6 = m → decodeWord g0 w = M (Grp.withStall g0 (w.extractLsb' 24 2)) w)
    (hF : ∀ w : W32, w.extractLsb' 21 3 = f → M g w = D g w)
    (hD : ∀ h : BitVec 11, D g (h ++ x : BitVec 32) = .ok i) :
    decodeWord (Grp.withStall g s) (m ++ g.stall ++ f ++ x : BitVec 32) = .ok i := by
  obtain ⟨h1, h2, h3⟩ := word21 m g.stall f x _ rfl
  rw [hM _ _ h1, h2]
  exact (hF _ h3).trans (hD _)

/-- The opcode fields of a word with a 2-bit func field. -/
theorem word22 (m : BitVec 6) (t : BitVec 2) (f : BitVec 2) (x : BitVec 22) (w : W32)
    (h : w = (m ++ t ++ f ++ x : BitVec 32)) :
    w.extractLsb' 26 6 = m ∧ w.extractLsb' 24 2 = t ∧ w.extractLsb' 22 2 = f := by
  subst h
  refine ⟨?_, ?_, ?_⟩ <;> ext i hi <;> simp only [BitVec.getElem_extractLsb', BitVec.getLsbD_append] <;> simp <;> grind

/-- A word with a 2-bit func field decodes by its major opcode's table. -/
theorem decodeWord22 (m : BitVec 6) (f : BitVec 2) (x : BitVec 22) (g : Grp) (s : BitVec 2) (i : Instr)
    (M D : Grp → W32 → Decoded)
    (hM : ∀ g0 w, w.extractLsb' 26 6 = m → decodeWord g0 w = M (Grp.withStall g0 (w.extractLsb' 24 2)) w)
    (hF : ∀ w : W32, w.extractLsb' 22 2 = f → M g w = D g w)
    (hD : ∀ h : BitVec 10, D g (h ++ x : BitVec 32) = .ok i) :
    decodeWord (Grp.withStall g s) (m ++ g.stall ++ f ++ x : BitVec 32) = .ok i := by
  obtain ⟨h1, h2, h3⟩ := word22 m g.stall f x _ rfl
  rw [hM _ _ h1, h2]
  exact (hF _ h3).trans (hD _)

/-- Reading format `CA` gives the operands it was written from. -/
theorem decCA_enc (k : Grp → OpCA → Instr) (g : Grp) (o : OpCA) (h : BitVec 14) :
    decCA k g (h ++ encCA o : BitVec 32) = .ok (k g o) := by
  have h0 : BitVec.extractLsb' 12 6 (h ++ encCA o : BitVec 32) = 0#6 := by
    ext i hi; simp [encCA, BitVec.getLsbD_append] <;> grind
  have h1 : BitVec.extractLsb' 0 6 (h ++ encCA o : BitVec 32) = 0#6 := by
    ext i hi; simp [encCA, BitVec.getLsbD_append] <;> grind
  have h2 : BitVec.extractLsb' 6 6 (h ++ encCA o : BitVec 32) = o.a := by
    ext i hi; simp [encCA, BitVec.getLsbD_append] <;> grind
  simp [decCA, h0, h1, h2]

/-- Reading format `CAK` gives the operands it was written from. -/
theorem decCAK_enc (k : Grp → OpCAK → Instr) (g : Grp) (o : OpCAK) (h : BitVec 14) :
    decCAK k g (h ++ encCAK o : BitVec 32) = .ok (k g o) := by
  have h0 : BitVec.extractLsb' 12 6 (h ++ encCAK o : BitVec 32) = 0#6 := by
    ext i hi; simp [encCAK, BitVec.getLsbD_append] <;> grind
  have h1 : BitVec.extractLsb' 4 2 (h ++ encCAK o : BitVec 32) = 0#2 := by
    ext i hi; simp [encCAK, BitVec.getLsbD_append] <;> grind
  have h2 : BitVec.extractLsb' 6 6 (h ++ encCAK o : BitVec 32) = o.a := by
    ext i hi; simp [encCAK, BitVec.getLsbD_append] <;> grind
  have h3 : BitVec.extractLsb' 0 4 (h ++ encCAK o : BitVec 32) = o.k := by
    ext i hi; simp [encCAK, BitVec.getLsbD_append] <;> grind
  simp [decCAK, h0, h1, h2, h3]

/-- Reading format `CAN` gives the operands it was written from. -/
theorem decCAN_enc (k : Grp → OpCAN → Instr) (g : Grp) (o : OpCAN) (h : BitVec 14) :
    decCAN k g (h ++ encCAN o : BitVec 32) = .ok (k g o) := by
  have h0 : BitVec.extractLsb' 12 6 (h ++ encCAN o : BitVec 32) = 0#6 := by
    ext i hi; simp [encCAN, BitVec.getLsbD_append] <;> grind
  have h1 : BitVec.extractLsb' 6 6 (h ++ encCAN o : BitVec 32) = o.a := by
    ext i hi; simp [encCAN, BitVec.getLsbD_append] <;> grind
  have h2 : BitVec.extractLsb' 0 6 (h ++ encCAN o : BitVec 32) = o.n := by
    ext i hi; simp [encCAN, BitVec.getLsbD_append] <;> grind
  simp [decCAN, h0, h1, h2]

/-- Reading format `CD` gives the operands it was written from. -/
theorem decCD_enc (k : Grp → OpCD → Instr) (g : Grp) (o : OpCD) (h : BitVec 14) :
    decCD k g (h ++ encCD o : BitVec 32) = .ok (k g o) := by
  have h0 : BitVec.extractLsb' 0 12 (h ++ encCD o : BitVec 32) = 0#12 := by
    ext i hi; simp [encCD, BitVec.getLsbD_append] <;> grind
  have h1 : BitVec.extractLsb' 12 6 (h ++ encCD o : BitVec 32) = o.d := by
    ext i hi; simp [encCD, BitVec.getLsbD_append] <;> grind
  simp [decCD, h0, h1]

/-- Reading format `CDAN` gives the operands it was written from. -/
theorem decCDAN_enc (k : Grp → OpCDAN → Instr) (g : Grp) (o : OpCDAN) (h : BitVec 14) :
    decCDAN k g (h ++ encCDAN o : BitVec 32) = .ok (k g o) := by
  have h0 : BitVec.extractLsb' 12 6 (h ++ encCDAN o : BitVec 32) = o.d := by
    ext i hi; simp [encCDAN, BitVec.getLsbD_append] <;> grind
  have h1 : BitVec.extractLsb' 6 6 (h ++ encCDAN o : BitVec 32) = o.a := by
    ext i hi; simp [encCDAN, BitVec.getLsbD_append] <;> grind
  have h2 : BitVec.extractLsb' 0 6 (h ++ encCDAN o : BitVec 32) = o.n := by
    ext i hi; simp [encCDAN, BitVec.getLsbD_append] <;> grind
  simp [decCDAN, h0, h1, h2]

/-- Reading format `CDN` gives the operands it was written from. -/
theorem decCDN_enc (k : Grp → OpCDN → Instr) (g : Grp) (o : OpCDN) (h : BitVec 14) :
    decCDN k g (h ++ encCDN o : BitVec 32) = .ok (k g o) := by
  have h0 : BitVec.extractLsb' 6 6 (h ++ encCDN o : BitVec 32) = 0#6 := by
    ext i hi; simp [encCDN, BitVec.getLsbD_append] <;> grind
  have h1 : BitVec.extractLsb' 12 6 (h ++ encCDN o : BitVec 32) = o.d := by
    ext i hi; simp [encCDN, BitVec.getLsbD_append] <;> grind
  have h2 : BitVec.extractLsb' 0 6 (h ++ encCDN o : BitVec 32) = o.n := by
    ext i hi; simp [encCDN, BitVec.getLsbD_append] <;> grind
  simp [decCDN, h0, h1, h2]

/-- Reading format `CDT` gives the operands it was written from. -/
theorem decCDT_enc (k : Grp → OpCDT → Instr) (g : Grp) (o : OpCDT) (h : BitVec 14) :
    decCDT k g (h ++ encCDT o : BitVec 32) = .ok (k g o) := by
  have h0 : BitVec.extractLsb' 12 6 (h ++ encCDT o : BitVec 32) = o.d := by
    ext i hi; simp [encCDT, BitVec.getLsbD_append] <;> grind
  have h1 : BitVec.extractLsb' 0 12 (h ++ encCDT o : BitVec 32) = o.t := by
    ext i hi; simp [encCDT, BitVec.getLsbD_append] <;> grind
  simp [decCDT, h0, h1]

/-- Reading format `CFence` gives the operands it was written from. -/
theorem decCFence_enc (k : Grp → OpCFence → Instr) (g : Grp) (o : OpCFence) (h : BitVec 14) :
    decCFence k g (h ++ encCFence o : BitVec 32) = .ok (k g o) := by
  have h0 : BitVec.extractLsb' 5 13 (h ++ encCFence o : BitVec 32) = 0#13 := by
    ext i hi; simp [encCFence, BitVec.getLsbD_append] <;> grind
  have h1 : BitVec.extractLsb' 3 2 (h ++ encCFence o : BitVec 32) = o.kind := by
    ext i hi; simp [encCFence, BitVec.getLsbD_append] <;> grind
  have h2 : BitVec.extractLsb' 0 3 (h ++ encCFence o : BitVec 32) = o.scope := by
    ext i hi; simp [encCFence, BitVec.getLsbD_append] <;> grind
  simp [decCFence, h0, h1, h2]

/-- Reading format `CGA` gives the operands it was written from. -/
theorem decCGA_enc (k : Grp → OpCGA → Instr) (g : Grp) (o : OpCGA) (h : BitVec 14) :
    decCGA k g (h ++ encCGA o : BitVec 32) = .ok (k g o) := by
  have h0 : BitVec.extractLsb' 17 1 (h ++ encCGA o : BitVec 32) = 0#1 := by
    ext i hi; simp [encCGA, BitVec.getLsbD_append] <;> grind
  have h1 : BitVec.extractLsb' 0 6 (h ++ encCGA o : BitVec 32) = 0#6 := by
    ext i hi; simp [encCGA, BitVec.getLsbD_append] <;> grind
  have h2 : BitVec.extractLsb' 12 5 (h ++ encCGA o : BitVec 32) = o.g := by
    ext i hi; simp [encCGA, BitVec.getLsbD_append] <;> grind
  have h3 : BitVec.extractLsb' 6 6 (h ++ encCGA o : BitVec 32) = o.a := by
    ext i hi; simp [encCGA, BitVec.getLsbD_append] <;> grind
  simp [decCGA, h0, h1, h2, h3]

/-- Reading format `CK` gives the operands it was written from. -/
theorem decCK_enc (k : Grp → OpCK → Instr) (g : Grp) (o : OpCK) (h : BitVec 14) :
    decCK k g (h ++ encCK o : BitVec 32) = .ok (k g o) := by
  have h0 : BitVec.extractLsb' 6 12 (h ++ encCK o : BitVec 32) = 0#12 := by
    ext i hi; simp [encCK, BitVec.getLsbD_append] <;> grind
  have h1 : BitVec.extractLsb' 0 6 (h ++ encCK o : BitVec 32) = o.k := by
    ext i hi; simp [encCK, BitVec.getLsbD_append] <;> grind
  simp [decCK, h0, h1]

/-- Reading format `CNA` gives the operands it was written from. -/
theorem decCNA_enc (k : Grp → OpCNA → Instr) (g : Grp) (o : OpCNA) (h : BitVec 14) :
    decCNA k g (h ++ encCNA o : BitVec 32) = .ok (k g o) := by
  have h0 : BitVec.extractLsb' 16 2 (h ++ encCNA o : BitVec 32) = 0#2 := by
    ext i hi; simp [encCNA, BitVec.getLsbD_append] <;> grind
  have h1 : BitVec.extractLsb' 0 6 (h ++ encCNA o : BitVec 32) = 0#6 := by
    ext i hi; simp [encCNA, BitVec.getLsbD_append] <;> grind
  have h2 : BitVec.extractLsb' 12 4 (h ++ encCNA o : BitVec 32) = o.n := by
    ext i hi; simp [encCNA, BitVec.getLsbD_append] <;> grind
  have h3 : BitVec.extractLsb' 6 6 (h ++ encCNA o : BitVec 32) = o.a := by
    ext i hi; simp [encCNA, BitVec.getLsbD_append] <;> grind
  simp [decCNA, h0, h1, h2, h3]

/-- Reading format `CNGK` gives the operands it was written from. -/
theorem decCNGK_enc (k : Grp → OpCNGK → Instr) (g : Grp) (o : OpCNGK) (h : BitVec 14) :
    decCNGK k g (h ++ encCNGK o : BitVec 32) = .ok (k g o) := by
  have h0 : BitVec.extractLsb' 16 2 (h ++ encCNGK o : BitVec 32) = 0#2 := by
    ext i hi; simp [encCNGK, BitVec.getLsbD_append] <;> grind
  have h1 : BitVec.extractLsb' 10 2 (h ++ encCNGK o : BitVec 32) = 0#2 := by
    ext i hi; simp [encCNGK, BitVec.getLsbD_append] <;> grind
  have h2 : BitVec.extractLsb' 12 4 (h ++ encCNGK o : BitVec 32) = o.n := by
    ext i hi; simp [encCNGK, BitVec.getLsbD_append] <;> grind
  have h3 : BitVec.extractLsb' 6 4 (h ++ encCNGK o : BitVec 32) = o.g := by
    ext i hi; simp [encCNGK, BitVec.getLsbD_append] <;> grind
  have h4 : BitVec.extractLsb' 0 6 (h ++ encCNGK o : BitVec 32) = o.k := by
    ext i hi; simp [encCNGK, BitVec.getLsbD_append] <;> grind
  simp [decCNGK, h0, h1, h2, h3, h4]

/-- Reading format `CT` gives the operands it was written from. -/
theorem decCT_enc (k : Grp → OpCT → Instr) (g : Grp) (o : OpCT) (h : BitVec 14) :
    decCT k g (h ++ encCT o : BitVec 32) = .ok (k g o) := by
  have h0 : BitVec.extractLsb' 12 6 (h ++ encCT o : BitVec 32) = 0#6 := by
    ext i hi; simp [encCT, BitVec.getLsbD_append] <;> grind
  have h1 : BitVec.extractLsb' 0 12 (h ++ encCT o : BitVec 32) = o.t := by
    ext i hi; simp [encCT, BitVec.getLsbD_append] <;> grind
  simp [decCT, h0, h1]

/-- Reading format `CVK` gives the operands it was written from. -/
theorem decCVK_enc (k : Grp → OpCVK → Instr) (g : Grp) (o : OpCVK) (h : BitVec 14) :
    decCVK k g (h ++ encCVK o : BitVec 32) = .ok (k g o) := by
  have h0 : BitVec.extractLsb' 16 2 (h ++ encCVK o : BitVec 32) = 0#2 := by
    ext i hi; simp [encCVK, BitVec.getLsbD_append] <;> grind
  have h1 : BitVec.extractLsb' 6 6 (h ++ encCVK o : BitVec 32) = 0#6 := by
    ext i hi; simp [encCVK, BitVec.getLsbD_append] <;> grind
  have h2 : BitVec.extractLsb' 12 4 (h ++ encCVK o : BitVec 32) = o.n := by
    ext i hi; simp [encCVK, BitVec.getLsbD_append] <;> grind
  have h3 : BitVec.extractLsb' 0 6 (h ++ encCVK o : BitVec 32) = o.k := by
    ext i hi; simp [encCVK, BitVec.getLsbD_append] <;> grind
  simp [decCVK, h0, h1, h2, h3]

/-- Reading format `FB` gives the operands it was written from. -/
theorem decFB_enc (k : Grp → OpFB → Instr) (g : Grp) (o : OpFB) (h : BitVec 12) :
    decFB k g (h ++ encFB o : BitVec 32) = .ok (k g o) := by
  have h0 : BitVec.extractLsb' 0 20 (h ++ encFB o : BitVec 32) = o.off := by
    ext i hi; simp [encFB, BitVec.getLsbD_append] <;> grind
  simp [decFB, h0]

/-- Reading format `FIf` gives the operands it was written from. -/
theorem decFIf_enc (k : Grp → OpFIf → Instr) (g : Grp) (o : OpFIf) (h : BitVec 11) :
    decFIf k g (h ++ encFIf o : BitVec 32) = .ok (k g o) := by
  have h0 : BitVec.extractLsb' 18 3 (h ++ encFIf o : BitVec 32) = o.m := by
    ext i hi; simp [encFIf, BitVec.getLsbD_append] <;> grind
  have h1 : BitVec.extractLsb' 0 18 (h ++ encFIf o : BitVec 32) = o.off := by
    ext i hi; simp [encFIf, BitVec.getLsbD_append] <;> grind
  simp [decFIf, h0, h1]

/-- Reading format `FLab` gives the operands it was written from. -/
theorem decFLab_enc (k : Grp → OpFLab → Instr) (g : Grp) (o : OpFLab) (h : BitVec 11) :
    decFLab k g (h ++ encFLab o : BitVec 32) = .ok (k g o) := by
  have h0 : BitVec.extractLsb' 18 3 (h ++ encFLab o : BitVec 32) = 0#3 := by
    ext i hi; simp [encFLab, BitVec.getLsbD_append] <;> grind
  have h1 : BitVec.extractLsb' 0 18 (h ++ encFLab o : BitVec 32) = o.off := by
    ext i hi; simp [encFLab, BitVec.getLsbD_append] <;> grind
  simp [decFLab, h0, h1]

/-- Reading format `FM` gives the operands it was written from. -/
theorem decFM_enc (k : Grp → OpFM → Instr) (g : Grp) (o : OpFM) (h : BitVec 11) :
    decFM k g (h ++ encFM o : BitVec 32) = .ok (k g o) := by
  have h0 : BitVec.extractLsb' 0 18 (h ++ encFM o : BitVec 32) = 0#18 := by
    ext i hi; simp [encFM, BitVec.getLsbD_append] <;> grind
  have h1 : BitVec.extractLsb' 18 3 (h ++ encFM o : BitVec 32) = o.m := by
    ext i hi; simp [encFM, BitVec.getLsbD_append] <;> grind
  simp [decFM, h0, h1]

/-- Reading format `M` gives the operands it was written from. -/
theorem decM_enc (k : Grp → OpM → Instr) (g : Grp) (o : OpM) (h : BitVec 11) :
    decM k g (h ++ encM o : BitVec 32) = .ok (k g o) := by
  have h0 : BitVec.extractLsb' 20 1 (h ++ encM o : BitVec 32) = 0#1 := by
    ext i hi; simp [encM, BitVec.getLsbD_append] <;> grind
  have h1 : BitVec.extractLsb' 13 7 (h ++ encM o : BitVec 32) = o.ds := by
    ext i hi; simp [encM, BitVec.getLsbD_append] <;> grind
  have h2 : BitVec.extractLsb' 7 6 (h ++ encM o : BitVec 32) = o.sb := by
    ext i hi; simp [encM, BitVec.getLsbD_append] <;> grind
  have h3 : BitVec.extractLsb' 0 7 (h ++ encM o : BitVec 32) = o.vo := by
    ext i hi; simp [encM, BitVec.getLsbD_append] <;> grind
  simp [decM, h0, h1, h2, h3]

/-- Reading format `MB` gives the operands it was written from. -/
theorem decMB_enc (k : Grp → OpMB → Instr) (g : Grp) (o : OpMB) (h : BitVec 11) :
    decMB k g (h ++ encMB o : BitVec 32) = .ok (k g o) := by
  have h0 : bit (h ++ encMB o : BitVec 32) 20 = o.byp := by
    simp only [bit, encMB, BitVec.getLsbD_append]; simp
  have h1 : BitVec.extractLsb' 13 7 (h ++ encMB o : BitVec 32) = o.ds := by
    ext i hi; simp [encMB, BitVec.getLsbD_append] <;> grind
  have h2 : BitVec.extractLsb' 7 6 (h ++ encMB o : BitVec 32) = o.sb := by
    ext i hi; simp [encMB, BitVec.getLsbD_append] <;> grind
  have h3 : BitVec.extractLsb' 0 7 (h ++ encMB o : BitVec 32) = o.vo := by
    ext i hi; simp [encMB, BitVec.getLsbD_append] <;> grind
  simp [decMB, h0, h1, h2, h3]

/-- Reading format `ML` gives the operands it was written from. -/
theorem decML_enc (k : Grp → OpML → Instr) (g : Grp) (o : OpML) (h : BitVec 11) :
    decML k g (h ++ encML o : BitVec 32) = .ok (k g o) := by
  have h0 : BitVec.extractLsb' 2 5 (h ++ encML o : BitVec 32) = 0#5 := by
    ext i hi; simp [encML, BitVec.getLsbD_append] <;> grind
  have h1 : bit (h ++ encML o : BitVec 32) 20 = o.byp := by
    simp only [bit, encML, BitVec.getLsbD_append]; simp
  have h2 : BitVec.extractLsb' 13 7 (h ++ encML o : BitVec 32) = o.ds := by
    ext i hi; simp [encML, BitVec.getLsbD_append] <;> grind
  have h3 : BitVec.extractLsb' 7 6 (h ++ encML o : BitVec 32) = o.sb := by
    ext i hi; simp [encML, BitVec.getLsbD_append] <;> grind
  have h4 : BitVec.extractLsb' 0 2 (h ++ encML o : BitVec 32) = o.n := by
    ext i hi; simp [encML, BitVec.getLsbD_append] <;> grind
  simp [decML, h0, h1, h2, h3, h4]

/-- Reading format `MP` gives the operands it was written from. -/
theorem decMP_enc (k : Grp → OpMP → Instr) (g : Grp) (o : OpMP) (h : BitVec 11) :
    decMP k g (h ++ encMP o : BitVec 32) = .ok (k g o) := by
  have h0 : BitVec.extractLsb' 13 8 (h ++ encMP o : BitVec 32) = 0#8 := by
    ext i hi; simp [encMP, BitVec.getLsbD_append] <;> grind
  have h1 : BitVec.extractLsb' 7 6 (h ++ encMP o : BitVec 32) = o.sb := by
    ext i hi; simp [encMP, BitVec.getLsbD_append] <;> grind
  have h2 : BitVec.extractLsb' 0 7 (h ++ encMP o : BitVec 32) = o.vo := by
    ext i hi; simp [encMP, BitVec.getLsbD_append] <;> grind
  simp [decMP, h0, h1, h2]

/-- Reading format `S2` gives the operands it was written from. -/
theorem decS2_enc (k : Grp → OpS2 → Instr) (g : Grp) (o : OpS2) (h : BitVec 14) :
    decS2 k g (h ++ encS2 o : BitVec 32) = .ok (k g o) := by
  have h0 : BitVec.extractLsb' 0 6 (h ++ encS2 o : BitVec 32) = 0#6 := by
    ext i hi; simp [encS2, BitVec.getLsbD_append] <;> grind
  have h1 : BitVec.extractLsb' 12 6 (h ++ encS2 o : BitVec 32) = o.d := by
    ext i hi; simp [encS2, BitVec.getLsbD_append] <;> grind
  have h2 : BitVec.extractLsb' 6 6 (h ++ encS2 o : BitVec 32) = o.a := by
    ext i hi; simp [encS2, BitVec.getLsbD_append] <;> grind
  simp [decS2, h0, h1, h2]

/-- Reading format `S3` gives the operands it was written from. -/
theorem decS3_enc (k : Grp → OpS3 → Instr) (g : Grp) (o : OpS3) (h : BitVec 14) :
    decS3 k g (h ++ encS3 o : BitVec 32) = .ok (k g o) := by
  have h0 : BitVec.extractLsb' 12 6 (h ++ encS3 o : BitVec 32) = o.d := by
    ext i hi; simp [encS3, BitVec.getLsbD_append] <;> grind
  have h1 : BitVec.extractLsb' 6 6 (h ++ encS3 o : BitVec 32) = o.a := by
    ext i hi; simp [encS3, BitVec.getLsbD_append] <;> grind
  have h2 : BitVec.extractLsb' 0 6 (h ++ encS3 o : BitVec 32) = o.b := by
    ext i hi; simp [encS3, BitVec.getLsbD_append] <;> grind
  simp [decS3, h0, h1, h2]

/-- Reading format `SI` gives the operands it was written from. -/
theorem decSI_enc (k : Grp → OpSI → Instr) (g : Grp) (o : OpSI) (h : BitVec 10) :
    decSI k g (h ++ encSI o : BitVec 32) = .ok (k g o) := by
  have h0 : BitVec.extractLsb' 16 6 (h ++ encSI o : BitVec 32) = o.d := by
    ext i hi; simp [encSI, BitVec.getLsbD_append] <;> grind
  have h1 : BitVec.extractLsb' 0 16 (h ++ encSI o : BitVec 32) = o.imm := by
    ext i hi; simp [encSI, BitVec.getLsbD_append] <;> grind
  simp [decSI, h0, h1]

/-- Reading format `SR` gives the operands it was written from. -/
theorem decSR_enc (k : Grp → OpSR → Instr) (g : Grp) (o : OpSR) (h : BitVec 14) :
    decSR k g (h ++ encSR o : BitVec 32) = .ok (k g o) := by
  have h0 : BitVec.extractLsb' 12 6 (h ++ encSR o : BitVec 32) = 0#6 := by
    ext i hi; simp [encSR, BitVec.getLsbD_append] <;> grind
  have h1 : BitVec.extractLsb' 6 6 (h ++ encSR o : BitVec 32) = o.a := by
    ext i hi; simp [encSR, BitVec.getLsbD_append] <;> grind
  have h2 : BitVec.extractLsb' 0 6 (h ++ encSR o : BitVec 32) = o.b := by
    ext i hi; simp [encSR, BitVec.getLsbD_append] <;> grind
  simp [decSR, h0, h1, h2]

/-- Reading format `V1` gives the operands it was written from. -/
theorem decV1_enc (k : Grp → OpV1 → Instr) (g : Grp) (o : OpV1) (h : BitVec 11) :
    decV1 k g (h ++ encV1 o : BitVec 32) = .ok (k g o) := by
  have h0 : BitVec.extractLsb' 0 14 (h ++ encV1 o : BitVec 32) = 0#14 := by
    ext i hi; simp [encV1, BitVec.getLsbD_append] <;> grind
  have h1 : BitVec.extractLsb' 14 7 (h ++ encV1 o : BitVec 32) = o.d := by
    ext i hi; simp [encV1, BitVec.getLsbD_append] <;> grind
  simp [decV1, h0, h1]

/-- Reading format `V2` gives the operands it was written from. -/
theorem decV2_enc (k : Grp → OpV2 → Instr) (g : Grp) (o : OpV2) (h : BitVec 11) :
    decV2 k g (h ++ encV2 o : BitVec 32) = .ok (k g o) := by
  have h0 : BitVec.extractLsb' 0 7 (h ++ encV2 o : BitVec 32) = 0#7 := by
    ext i hi; simp [encV2, BitVec.getLsbD_append] <;> grind
  have h1 : BitVec.extractLsb' 14 7 (h ++ encV2 o : BitVec 32) = o.d := by
    ext i hi; simp [encV2, BitVec.getLsbD_append] <;> grind
  have h2 : BitVec.extractLsb' 7 7 (h ++ encV2 o : BitVec 32) = o.a := by
    ext i hi; simp [encV2, BitVec.getLsbD_append] <;> grind
  simp [decV2, h0, h1, h2]

/-- Reading format `V3` gives the operands it was written from. -/
theorem decV3_enc (k : Grp → OpV3 → Instr) (g : Grp) (o : OpV3) (h : BitVec 11) :
    decV3 k g (h ++ encV3 o : BitVec 32) = .ok (k g o) := by
  have h0 : BitVec.extractLsb' 14 7 (h ++ encV3 o : BitVec 32) = o.d := by
    ext i hi; simp [encV3, BitVec.getLsbD_append] <;> grind
  have h1 : BitVec.extractLsb' 7 7 (h ++ encV3 o : BitVec 32) = o.a := by
    ext i hi; simp [encV3, BitVec.getLsbD_append] <;> grind
  have h2 : BitVec.extractLsb' 0 7 (h ++ encV3 o : BitVec 32) = o.b := by
    ext i hi; simp [encV3, BitVec.getLsbD_append] <;> grind
  simp [decV3, h0, h1, h2]

/-- Reading format `VB` gives the operands it was written from. -/
theorem decVB_enc (k : Grp → OpVB → Instr) (g : Grp) (o : OpVB) (h : BitVec 11) :
    decVB k g (h ++ encVB o : BitVec 32) = .ok (k g o) := by
  have h0 : BitVec.extractLsb' 13 1 (h ++ encVB o : BitVec 32) = 0#1 := by
    ext i hi; simp [encVB, BitVec.getLsbD_append] <;> grind
  have h1 : BitVec.extractLsb' 0 7 (h ++ encVB o : BitVec 32) = 0#7 := by
    ext i hi; simp [encVB, BitVec.getLsbD_append] <;> grind
  have h2 : BitVec.extractLsb' 14 7 (h ++ encVB o : BitVec 32) = o.d := by
    ext i hi; simp [encVB, BitVec.getLsbD_append] <;> grind
  have h3 : BitVec.extractLsb' 7 6 (h ++ encVB o : BitVec 32) = o.a := by
    ext i hi; simp [encVB, BitVec.getLsbD_append] <;> grind
  simp [decVB, h0, h1, h2, h3]

/-- Reading format `VBM` gives the operands it was written from. -/
theorem decVBM_enc (k : Grp → OpVBM → Instr) (g : Grp) (o : OpVBM) (h : BitVec 11) :
    decVBM k g (h ++ encVBM o : BitVec 32) = .ok (k g o) := by
  have h0 : BitVec.extractLsb' 20 1 (h ++ encVBM o : BitVec 32) = 1#1 := by
    ext i hi; simp [encVBM, BitVec.getLsbD_append] <;> grind
  have h1 : BitVec.extractLsb' 17 3 (h ++ encVBM o : BitVec 32) = 0#3 := by
    ext i hi; simp only [BitVec.getElem_extractLsb', encVBM, BitVec.getLsbD_append]; interval_cases i <;> simp
  have h2 : BitVec.extractLsb' 0 7 (h ++ encVBM o : BitVec 32) = 0#7 := by
    ext i hi; simp [encVBM, BitVec.getLsbD_append] <;> grind
  have h3 : BitVec.extractLsb' 14 3 (h ++ encVBM o : BitVec 32) = o.k := by
    ext i hi; simp [encVBM, BitVec.getLsbD_append] <;> grind
  have h4 : BitVec.extractLsb' 7 7 (h ++ encVBM o : BitVec 32) = o.a := by
    ext i hi; simp [encVBM, BitVec.getLsbD_append] <;> grind
  simp [decVBM, h0, h1, h2, h3, h4]

/-- Reading format `VC` gives the operands it was written from. -/
theorem decVC_enc (k : Grp → OpVC → Instr) (g : Grp) (o : OpVC) (h : BitVec 11) :
    decVC k g (h ++ encVC o : BitVec 32) = .ok (k g o) := by
  have h0 : BitVec.extractLsb' 14 7 (h ++ encVC o : BitVec 32) = o.d := by
    ext i hi; simp [encVC, BitVec.getLsbD_append] <;> grind
  have h1 : BitVec.extractLsb' 7 7 (h ++ encVC o : BitVec 32) = o.a := by
    ext i hi; simp [encVC, BitVec.getLsbD_append] <;> grind
  have h2 : BitVec.extractLsb' 5 2 (h ++ encVC o : BitVec 32) = o.sel := by
    ext i hi; simp [encVC, BitVec.getLsbD_append] <;> grind
  have h3 : BitVec.extractLsb' 0 5 (h ++ encVC o : BitVec 32) = o.ty := by
    ext i hi; simp [encVC, BitVec.getLsbD_append] <;> grind
  simp [decVC, h0, h1, h2, h3]

/-- Reading format `VE` gives the operands it was written from. -/
theorem decVE_enc (k : Grp → OpVE → Instr) (g : Grp) (o : OpVE) (h : BitVec 11) :
    decVE k g (h ++ encVE o : BitVec 32) = .ok (k g o) := by
  have h0 : BitVec.extractLsb' 20 1 (h ++ encVE o : BitVec 32) = 0#1 := by
    ext i hi; simp [encVE, BitVec.getLsbD_append] <;> grind
  have h1 : BitVec.extractLsb' 5 2 (h ++ encVE o : BitVec 32) = 0#2 := by
    ext i hi; simp [encVE, BitVec.getLsbD_append] <;> grind
  have h2 : BitVec.extractLsb' 14 6 (h ++ encVE o : BitVec 32) = o.d := by
    ext i hi; simp [encVE, BitVec.getLsbD_append] <;> grind
  have h3 : BitVec.extractLsb' 7 7 (h ++ encVE o : BitVec 32) = o.a := by
    ext i hi; simp [encVE, BitVec.getLsbD_append] <;> grind
  have h4 : BitVec.extractLsb' 0 5 (h ++ encVE o : BitVec 32) = o.n := by
    ext i hi; simp [encVE, BitVec.getLsbD_append] <;> grind
  simp [decVE, h0, h1, h2, h3, h4]

/-- Reading format `VH` gives the operands it was written from. -/
theorem decVH_enc (k : Grp → OpVH → Instr) (g : Grp) (o : OpVH) (h : BitVec 11) :
    decVH k g (h ++ encVH o : BitVec 32) = .ok (k g o) := by
  have h0 : BitVec.extractLsb' 6 1 (h ++ encVH o : BitVec 32) = 0#1 := by
    ext i hi; simp [encVH, BitVec.getLsbD_append] <;> grind
  have h1 : BitVec.extractLsb' 14 7 (h ++ encVH o : BitVec 32) = o.d := by
    ext i hi; simp [encVH, BitVec.getLsbD_append] <;> grind
  have h2 : BitVec.extractLsb' 7 7 (h ++ encVH o : BitVec 32) = o.a := by
    ext i hi; simp [encVH, BitVec.getLsbD_append] <;> grind
  have h3 : BitVec.extractLsb' 0 6 (h ++ encVH o : BitVec 32) = o.b := by
    ext i hi; simp [encVH, BitVec.getLsbD_append] <;> grind
  simp [decVH, h0, h1, h2, h3]

/-- Reading format `VI` gives the operands it was written from. -/
theorem decVI_enc (k : Grp → OpVI → Instr) (g : Grp) (o : OpVI) (h : BitVec 11) :
    decVI k g (h ++ encVI o : BitVec 32) = .ok (k g o) := by
  have h0 : BitVec.extractLsb' 14 7 (h ++ encVI o : BitVec 32) = o.d := by
    ext i hi; simp [encVI, BitVec.getLsbD_append] <;> grind
  have h1 : BitVec.extractLsb' 7 7 (h ++ encVI o : BitVec 32) = o.a := by
    ext i hi; simp [encVI, BitVec.getLsbD_append] <;> grind
  have h2 : BitVec.extractLsb' 0 7 (h ++ encVI o : BitVec 32) = o.imm := by
    ext i hi; simp [encVI, BitVec.getLsbD_append] <;> grind
  simp [decVI, h0, h1, h2]

/-- Reading format `VL` gives the operands it was written from. -/
theorem decVL_enc (k : Grp → OpVL → Instr) (g : Grp) (o : OpVL) (h : BitVec 11) :
    decVL k g (h ++ encVL o : BitVec 32) = .ok (k g o) := by
  have h0 : BitVec.extractLsb' 7 7 (h ++ encVL o : BitVec 32) = 0#7 := by
    ext i hi; simp [encVL, BitVec.getLsbD_append] <;> grind
  have h1 : BitVec.extractLsb' 14 7 (h ++ encVL o : BitVec 32) = o.d := by
    ext i hi; simp [encVL, BitVec.getLsbD_append] <;> grind
  have h2 : BitVec.extractLsb' 0 7 (h ++ encVL o : BitVec 32) = o.imm := by
    ext i hi; simp [encVL, BitVec.getLsbD_append] <;> grind
  simp [decVL, h0, h1, h2]

/-- Reading format `VR` gives the operands it was written from. -/
theorem decVR_enc (k : Grp → OpVR → Instr) (g : Grp) (o : OpVR) (h : BitVec 11) :
    decVR k g (h ++ encVR o : BitVec 32) = .ok (k g o) := by
  have h0 : BitVec.extractLsb' 3 4 (h ++ encVR o : BitVec 32) = 0#4 := by
    ext i hi; simp [encVR, BitVec.getLsbD_append] <;> grind
  have h1 : BitVec.extractLsb' 14 7 (h ++ encVR o : BitVec 32) = o.d := by
    ext i hi; simp [encVR, BitVec.getLsbD_append] <;> grind
  have h2 : BitVec.extractLsb' 7 7 (h ++ encVR o : BitVec 32) = o.a := by
    ext i hi; simp [encVR, BitVec.getLsbD_append] <;> grind
  have h3 : BitVec.extractLsb' 0 3 (h ++ encVR o : BitVec 32) = o.op := by
    ext i hi; simp [encVR, BitVec.getLsbD_append] <;> grind
  simp [decVR, h0, h1, h2, h3]

/-- Reading format `VS` gives the operands it was written from. -/
theorem decVS_enc (k : Grp → OpVS → Instr) (g : Grp) (o : OpVS) (h : BitVec 11) :
    decVS k g (h ++ encVS o : BitVec 32) = .ok (k g o) := by
  have h0 : BitVec.extractLsb' 20 1 (h ++ encVS o : BitVec 32) = 0#1 := by
    ext i hi; simp [encVS, BitVec.getLsbD_append] <;> grind
  have h1 : BitVec.extractLsb' 0 7 (h ++ encVS o : BitVec 32) = 0#7 := by
    ext i hi; simp [encVS, BitVec.getLsbD_append] <;> grind
  have h2 : BitVec.extractLsb' 14 6 (h ++ encVS o : BitVec 32) = o.d := by
    ext i hi; simp [encVS, BitVec.getLsbD_append] <;> grind
  have h3 : BitVec.extractLsb' 7 7 (h ++ encVS o : BitVec 32) = o.a := by
    ext i hi; simp [encVS, BitVec.getLsbD_append] <;> grind
  simp [decVS, h0, h1, h2, h3]

/-- Reading format `VSh` gives the operands it was written from. -/
theorem decVSh_enc (k : Grp → OpVSh → Instr) (g : Grp) (o : OpVSh) (h : BitVec 11) :
    decVSh k g (h ++ encVSh o : BitVec 32) = .ok (k g o) := by
  have h0 : BitVec.extractLsb' 5 2 (h ++ encVSh o : BitVec 32) = 0#2 := by
    ext i hi; simp [encVSh, BitVec.getLsbD_append] <;> grind
  have h1 : BitVec.extractLsb' 14 7 (h ++ encVSh o : BitVec 32) = o.d := by
    ext i hi; simp [encVSh, BitVec.getLsbD_append] <;> grind
  have h2 : BitVec.extractLsb' 7 7 (h ++ encVSh o : BitVec 32) = o.a := by
    ext i hi; simp [encVSh, BitVec.getLsbD_append] <;> grind
  have h3 : BitVec.extractLsb' 0 5 (h ++ encVSh o : BitVec 32) = o.n := by
    ext i hi; simp [encVSh, BitVec.getLsbD_append] <;> grind
  simp [decVSh, h0, h1, h2, h3]

/-- Reading format `VW` gives the operands it was written from. -/
theorem decVW_enc (k : Grp → OpVW → Instr) (g : Grp) (o : OpVW) (h : BitVec 11) :
    decVW k g (h ++ encVW o : BitVec 32) = .ok (k g o) := by
  have h0 : BitVec.extractLsb' 1 6 (h ++ encVW o : BitVec 32) = 0#6 := by
    ext i hi; simp [encVW, BitVec.getLsbD_append] <;> grind
  have h1 : BitVec.extractLsb' 14 7 (h ++ encVW o : BitVec 32) = o.d := by
    ext i hi; simp [encVW, BitVec.getLsbD_append] <;> grind
  have h2 : BitVec.extractLsb' 7 7 (h ++ encVW o : BitVec 32) = o.a := by
    ext i hi; simp [encVW, BitVec.getLsbD_append] <;> grind
  have h3 : bit (h ++ encVW o : BitVec 32) 0 = o.k := by
    simp only [bit, encVW, BitVec.getLsbD_append]; simp
  simp [decVW, h0, h1, h2, h3]

/-- Reading format `X` gives the operands it was written from. -/
theorem decX_enc (k : Grp → OpX → Instr) (g : Grp) (o : OpX) (h : BitVec 12) :
    decX k g (h ++ encX o : BitVec 32) = .ok (k g o) := by
  have h0 : bit (h ++ encX o : BitVec 32) 19 = o.na := by
    simp only [bit, encX, BitVec.getLsbD_append]; simp
  have h1 : bit (h ++ encX o : BitVec 32) 18 = o.nb := by
    simp only [bit, encX, BitVec.getLsbD_append]; simp
  have h2 : bit (h ++ encX o : BitVec 32) 17 = o.zc := by
    simp only [bit, encX, BitVec.getLsbD_append]; simp
  have h3 : BitVec.extractLsb' 11 6 (h ++ encX o : BitVec 32) = o.c := by
    ext i hi; simp [encX, BitVec.getLsbD_append] <;> grind
  have h4 : BitVec.extractLsb' 6 5 (h ++ encX o : BitVec 32) = o.va := by
    ext i hi; simp [encX, BitVec.getLsbD_append] <;> grind
  have h5 : BitVec.extractLsb' 1 5 (h ++ encX o : BitVec 32) = o.vb := by
    ext i hi; simp [encX, BitVec.getLsbD_append] <;> grind
  have h6 : bit (h ++ encX o : BitVec 32) 0 = o.ext := by
    simp only [bit, encX, BitVec.getLsbD_append]; simp
  simp [decX, h0, h1, h2, h3, h4, h5, h6]

/-- A word without operands reads as one (R47). -/
theorem decF0_18 (k : Grp → Instr) (g : Grp) (h : BitVec 14) :
    decF0 k g (h ++ 0#18 : BitVec 32) 18 = .ok (k g) := by
  have e : (h ++ 0#18 : BitVec 32).toNat % 2 ^ 18 = 0 := by
    rw [BitVec.toNat_append]; simp [Nat.shiftLeft_eq]
  simp only [decF0, if_pos e]

/-- A word without operands reads as one (R47). -/
theorem decF0_21 (k : Grp → Instr) (g : Grp) (h : BitVec 11) :
    decF0 k g (h ++ 0#21 : BitVec 32) 21 = .ok (k g) := by
  have e : (h ++ 0#21 : BitVec 32).toNat % 2 ^ 21 = 0 := by
    rw [BitVec.toNat_append]; simp [Nat.shiftLeft_eq]
  simp only [decF0, if_pos e]

end Sys2Proof.Laws
end

