-- ==== Sys2Proof/Laws/PerInstr.lean ====
section
/-! SUPPORT. Family `RoundTrip`: what the decoder reads from the instruction's own word is the instruction with
its operands and its group (R46, R47, R69), whatever stall count stood before; a row that no word encodes has none.
One lemma per constructor of `Instr`. -/

namespace Sys2Proof.Laws.RoundTrip

/-- The decoder reads an instruction back from its encoded word. -/
def Statement (i : Instr) : Prop :=
  match i.group with
  | some g => ∀ s, decodeWord (Grp.withStall g s) (encodeWord i) = .ok i
  | none => i.encoded = true → decodeHint (encodeWord i) = .ok i

/-- The table of major opcode 1. -/
theorem major01 (g0 : Grp) (w : W32) (h : w.extractLsb' 26 6 = 1#6) :
    decodeWord g0 w = decMajor01 (Grp.withStall g0 (w.extractLsb' 24 2)) w := by
  unfold decodeWord; rw [h]; rfl

/-- The table of major opcode 2. -/
theorem major02 (g0 : Grp) (w : W32) (h : w.extractLsb' 26 6 = 2#6) :
    decodeWord g0 w = decMajor02 (Grp.withStall g0 (w.extractLsb' 24 2)) w := by
  unfold decodeWord; rw [h]; rfl

/-- The table of major opcode 3. -/
theorem major03 (g0 : Grp) (w : W32) (h : w.extractLsb' 26 6 = 3#6) :
    decodeWord g0 w = decMajor03 (Grp.withStall g0 (w.extractLsb' 24 2)) w := by
  unfold decodeWord; rw [h]; rfl

/-- The table of major opcode 4. -/
theorem major04 (g0 : Grp) (w : W32) (h : w.extractLsb' 26 6 = 4#6) :
    decodeWord g0 w = decMajor04 (Grp.withStall g0 (w.extractLsb' 24 2)) w := by
  unfold decodeWord; rw [h]; rfl

/-- The table of major opcode 5. -/
theorem major05 (g0 : Grp) (w : W32) (h : w.extractLsb' 26 6 = 5#6) :
    decodeWord g0 w = decMajor05 (Grp.withStall g0 (w.extractLsb' 24 2)) w := by
  unfold decodeWord; rw [h]; rfl

/-- The table of major opcode 6. -/
theorem major06 (g0 : Grp) (w : W32) (h : w.extractLsb' 26 6 = 6#6) :
    decodeWord g0 w = decMajor06 (Grp.withStall g0 (w.extractLsb' 24 2)) w := by
  unfold decodeWord; rw [h]; rfl

/-- The table of major opcode 7. -/
theorem major07 (g0 : Grp) (w : W32) (h : w.extractLsb' 26 6 = 7#6) :
    decodeWord g0 w = decMajor07 (Grp.withStall g0 (w.extractLsb' 24 2)) w := by
  unfold decodeWord; rw [h]; rfl

/-- The table of major opcode 8. -/
theorem major08 (g0 : Grp) (w : W32) (h : w.extractLsb' 26 6 = 8#6) :
    decodeWord g0 w = decMajor08 (Grp.withStall g0 (w.extractLsb' 24 2)) w := by
  unfold decodeWord; rw [h]; rfl

/-- The table of major opcode 9. -/
theorem major09 (g0 : Grp) (w : W32) (h : w.extractLsb' 26 6 = 9#6) :
    decodeWord g0 w = decMajor09 (Grp.withStall g0 (w.extractLsb' 24 2)) w := by
  unfold decodeWord; rw [h]; rfl

/-- The table of major opcode 10. -/
theorem major0A (g0 : Grp) (w : W32) (h : w.extractLsb' 26 6 = 10#6) :
    decodeWord g0 w = decMajor0A (Grp.withStall g0 (w.extractLsb' 24 2)) w := by
  unfold decodeWord; rw [h]; rfl

/-- The table of major opcode 11. -/
theorem major0B (g0 : Grp) (w : W32) (h : w.extractLsb' 26 6 = 11#6) :
    decodeWord g0 w = decMajor0B (Grp.withStall g0 (w.extractLsb' 24 2)) w := by
  unfold decodeWord; rw [h]; rfl

/-- The table of major opcode 12. -/
theorem major0C (g0 : Grp) (w : W32) (h : w.extractLsb' 26 6 = 12#6) :
    decodeWord g0 w = decMajor0C (Grp.withStall g0 (w.extractLsb' 24 2)) w := by
  unfold decodeWord; rw [h]; rfl

/-- The table of major opcode 13. -/
theorem major0D (g0 : Grp) (w : W32) (h : w.extractLsb' 26 6 = 13#6) :
    decodeWord g0 w = decMajor0D (Grp.withStall g0 (w.extractLsb' 24 2)) w := by
  unfold decodeWord; rw [h]; rfl

/-- The table of major opcode 14. -/
theorem major0E (g0 : Grp) (w : W32) (h : w.extractLsb' 26 6 = 14#6) :
    decodeWord g0 w = decMajor0E (Grp.withStall g0 (w.extractLsb' 24 2)) w := by
  unfold decodeWord; rw [h]; rfl

/-- The table of major opcode 16. -/
theorem major10 (g0 : Grp) (w : W32) (h : w.extractLsb' 26 6 = 16#6) :
    decodeWord g0 w = decMajor10 (Grp.withStall g0 (w.extractLsb' 24 2)) w := by
  unfold decodeWord; rw [h]; rfl

/-- The table of major opcode 17. -/
theorem major11 (g0 : Grp) (w : W32) (h : w.extractLsb' 26 6 = 17#6) :
    decodeWord g0 w = decMajor11 (Grp.withStall g0 (w.extractLsb' 24 2)) w := by
  unfold decodeWord; rw [h]; rfl

/-- The table of major opcode 18. -/
theorem major12 (g0 : Grp) (w : W32) (h : w.extractLsb' 26 6 = 18#6) :
    decodeWord g0 w = decMajor12 (Grp.withStall g0 (w.extractLsb' 24 2)) w := by
  unfold decodeWord; rw [h]; rfl

/-- The table of major opcode 19. -/
theorem major13 (g0 : Grp) (w : W32) (h : w.extractLsb' 26 6 = 19#6) :
    decodeWord g0 w = decMajor13 (Grp.withStall g0 (w.extractLsb' 24 2)) w := by
  unfold decodeWord; rw [h]; rfl

/-- The table of major opcode 20. -/
theorem major14 (g0 : Grp) (w : W32) (h : w.extractLsb' 26 6 = 20#6) :
    decodeWord g0 w = decMajor14 (Grp.withStall g0 (w.extractLsb' 24 2)) w := by
  unfold decodeWord; rw [h]; rfl

/-- The table of major opcode 21. -/
theorem major15 (g0 : Grp) (w : W32) (h : w.extractLsb' 26 6 = 21#6) :
    decodeWord g0 w = decMajor15 (Grp.withStall g0 (w.extractLsb' 24 2)) w := by
  unfold decodeWord; rw [h]; rfl

/-- The table of major opcode 24. -/
theorem major18 (g0 : Grp) (w : W32) (h : w.extractLsb' 26 6 = 24#6) :
    decodeWord g0 w = decMajor18 (Grp.withStall g0 (w.extractLsb' 24 2)) w := by
  unfold decodeWord; rw [h]; rfl

/-- The table of major opcode 25. -/
theorem major19 (g0 : Grp) (w : W32) (h : w.extractLsb' 26 6 = 25#6) :
    decodeWord g0 w = decMajor19 (Grp.withStall g0 (w.extractLsb' 24 2)) w := by
  unfold decodeWord; rw [h]; rfl

/-- The table of major opcode 26. -/
theorem major1A (g0 : Grp) (w : W32) (h : w.extractLsb' 26 6 = 26#6) :
    decodeWord g0 w = decMajor1A (Grp.withStall g0 (w.extractLsb' 24 2)) w := by
  unfold decodeWord; rw [h]; rfl

/-- The table of major opcode 27. -/
theorem major1B (g0 : Grp) (w : W32) (h : w.extractLsb' 26 6 = 27#6) :
    decodeWord g0 w = decMajor1B (Grp.withStall g0 (w.extractLsb' 24 2)) w := by
  unfold decodeWord; rw [h]; rfl

/-- The table of major opcode 28. -/
theorem major1C (g0 : Grp) (w : W32) (h : w.extractLsb' 26 6 = 28#6) :
    decodeWord g0 w = decMajor1C (Grp.withStall g0 (w.extractLsb' 24 2)) w := by
  unfold decodeWord; rw [h]; rfl

/-- The table of major opcode 29. -/
theorem major1D (g0 : Grp) (w : W32) (h : w.extractLsb' 26 6 = 29#6) :
    decodeWord g0 w = decMajor1D (Grp.withStall g0 (w.extractLsb' 24 2)) w := by
  unfold decodeWord; rw [h]; rfl

/-- The table of major opcode 30. -/
theorem major1E (g0 : Grp) (w : W32) (h : w.extractLsb' 26 6 = 30#6) :
    decodeWord g0 w = decMajor1E (Grp.withStall g0 (w.extractLsb' 24 2)) w := by
  unfold decodeWord; rw [h]; rfl

/-- The table of major opcode 31. -/
theorem major1F (g0 : Grp) (w : W32) (h : w.extractLsb' 26 6 = 31#6) :
    decodeWord g0 w = decMajor1F (Grp.withStall g0 (w.extractLsb' 24 2)) w := by
  unfold decodeWord; rw [h]; rfl

/-- The table of major opcode 32. -/
theorem major20 (g0 : Grp) (w : W32) (h : w.extractLsb' 26 6 = 32#6) :
    decodeWord g0 w = decMajor20 (Grp.withStall g0 (w.extractLsb' 24 2)) w := by
  unfold decodeWord; rw [h]; rfl

/-- The table of major opcode 33. -/
theorem major21 (g0 : Grp) (w : W32) (h : w.extractLsb' 26 6 = 33#6) :
    decodeWord g0 w = decMajor21 (Grp.withStall g0 (w.extractLsb' 24 2)) w := by
  unfold decodeWord; rw [h]; rfl

/-- The table of major opcode 34. -/
theorem major22 (g0 : Grp) (w : W32) (h : w.extractLsb' 26 6 = 34#6) :
    decodeWord g0 w = decMajor22 (Grp.withStall g0 (w.extractLsb' 24 2)) w := by
  unfold decodeWord; rw [h]; rfl

/-- The table of major opcode 36. -/
theorem major24 (g0 : Grp) (w : W32) (h : w.extractLsb' 26 6 = 36#6) :
    decodeWord g0 w = decMajor24 (Grp.withStall g0 (w.extractLsb' 24 2)) w := by
  unfold decodeWord; rw [h]; rfl

/-- The table of major opcode 37. -/
theorem major25 (g0 : Grp) (w : W32) (h : w.extractLsb' 26 6 = 37#6) :
    decodeWord g0 w = decMajor25 (Grp.withStall g0 (w.extractLsb' 24 2)) w := by
  unfold decodeWord; rw [h]; rfl

/-- The table of major opcode 38. -/
theorem major26 (g0 : Grp) (w : W32) (h : w.extractLsb' 26 6 = 38#6) :
    decodeWord g0 w = decMajor26 (Grp.withStall g0 (w.extractLsb' 24 2)) w := by
  unfold decodeWord; rw [h]; rfl

/-- The table of major opcode 39. -/
theorem major27 (g0 : Grp) (w : W32) (h : w.extractLsb' 26 6 = 39#6) :
    decodeWord g0 w = decMajor27 (Grp.withStall g0 (w.extractLsb' 24 2)) w := by
  unfold decodeWord; rw [h]; rfl

/-- The table of major opcode 40. -/
theorem major28 (g0 : Grp) (w : W32) (h : w.extractLsb' 26 6 = 40#6) :
    decodeWord g0 w = decMajor28 (Grp.withStall g0 (w.extractLsb' 24 2)) w := by
  unfold decodeWord; rw [h]; rfl

/-- The table of major opcode 41. -/
theorem major29 (g0 : Grp) (w : W32) (h : w.extractLsb' 26 6 = 41#6) :
    decodeWord g0 w = decMajor29 (Grp.withStall g0 (w.extractLsb' 24 2)) w := by
  unfold decodeWord; rw [h]; rfl

/-- The conditional branches, whose test stands between their operands (R47). -/
theorem decodeBranch (f : BitVec 2) (g : Grp) (s : BitVec 2) (o : OpFBS) (k : Grp → OpFBS → Instr)
    (hF : ∀ w : W32, w.extractLsb' 16 2 = f → decMajor05 g w = decFBS k g w) :
    decodeWord (Grp.withStall g s) (5#6 ++ g.stall ++ o.a ++ f ++ o.off : BitVec 32) = .ok (k g o) := by
  obtain ⟨w, hw⟩ : ∃ w, w = (5#6 ++ g.stall ++ o.a ++ f ++ o.off : BitVec 32) := ⟨_, rfl⟩
  have h1 : w.extractLsb' 26 6 = 5#6 := by
    subst hw; ext i hi; simp only [BitVec.getElem_extractLsb', BitVec.getLsbD_append]; simp; grind
  have h2 : w.extractLsb' 24 2 = g.stall := by
    subst hw; ext i hi; simp only [BitVec.getElem_extractLsb', BitVec.getLsbD_append]; simp; grind
  have h3 : w.extractLsb' 18 6 = o.a := by
    subst hw; ext i hi; simp only [BitVec.getElem_extractLsb', BitVec.getLsbD_append]; simp; grind
  have h4 : w.extractLsb' 16 2 = f := by
    subst hw; ext i hi; simp only [BitVec.getElem_extractLsb', BitVec.getLsbD_append]; simp; grind
  have h5 : w.extractLsb' 0 16 = o.off := by
    subst hw; ext i hi; simp only [BitVec.getElem_extractLsb', BitVec.getLsbD_append]; simp; grind
  rw [← hw, major05 _ _ h1, h2]
  refine (hF _ h4).trans ?_
  simp only [decFBS, h3, h5]

/-! The rows. -/
theorem sadd (g : Grp) (o : OpS3) : Statement (.sadd g o) := fun _ =>
  decodeWord18 1#6 0#6 _ g _ _ _ (decS3 .sadd) major01 (fun _ h => by unfold decMajor01; rw [h]; rfl) (decS3_enc _ g o)
theorem ssub (g : Grp) (o : OpS3) : Statement (.ssub g o) := fun _ =>
  decodeWord18 1#6 1#6 _ g _ _ _ (decS3 .ssub) major01 (fun _ h => by unfold decMajor01; rw [h]; rfl) (decS3_enc _ g o)
theorem smul (g : Grp) (o : OpS3) : Statement (.smul g o) := fun _ =>
  decodeWord18 1#6 2#6 _ g _ _ _ (decS3 .smul) major01 (fun _ h => by unfold decMajor01; rw [h]; rfl) (decS3_enc _ g o)
theorem smulhI (g : Grp) (o : OpS3) : Statement (.smulhI g o) := fun _ =>
  decodeWord18 1#6 3#6 _ g _ _ _ (decS3 .smulhI) major01 (fun _ h => by unfold decMajor01; rw [h]; rfl) (decS3_enc _ g o)
theorem smulhN (g : Grp) (o : OpS3) : Statement (.smulhN g o) := fun _ =>
  decodeWord18 1#6 4#6 _ g _ _ _ (decS3 .smulhN) major01 (fun _ h => by unfold decMajor01; rw [h]; rfl) (decS3_enc _ g o)
theorem sdivI (g : Grp) (o : OpS3) : Statement (.sdivI g o) := fun _ =>
  decodeWord18 1#6 5#6 _ g _ _ _ (decS3 .sdivI) major01 (fun _ h => by unfold decMajor01; rw [h]; rfl) (decS3_enc _ g o)
theorem sdivN (g : Grp) (o : OpS3) : Statement (.sdivN g o) := fun _ =>
  decodeWord18 1#6 6#6 _ g _ _ _ (decS3 .sdivN) major01 (fun _ h => by unfold decMajor01; rw [h]; rfl) (decS3_enc _ g o)
theorem sremI (g : Grp) (o : OpS3) : Statement (.sremI g o) := fun _ =>
  decodeWord18 1#6 7#6 _ g _ _ _ (decS3 .sremI) major01 (fun _ h => by unfold decMajor01; rw [h]; rfl) (decS3_enc _ g o)
theorem sremN (g : Grp) (o : OpS3) : Statement (.sremN g o) := fun _ =>
  decodeWord18 1#6 8#6 _ g _ _ _ (decS3 .sremN) major01 (fun _ h => by unfold decMajor01; rw [h]; rfl) (decS3_enc _ g o)
theorem sand (g : Grp) (o : OpS3) : Statement (.sand g o) := fun _ =>
  decodeWord18 1#6 9#6 _ g _ _ _ (decS3 .sand) major01 (fun _ h => by unfold decMajor01; rw [h]; rfl) (decS3_enc _ g o)
theorem sor (g : Grp) (o : OpS3) : Statement (.sor g o) := fun _ =>
  decodeWord18 1#6 10#6 _ g _ _ _ (decS3 .sor) major01 (fun _ h => by unfold decMajor01; rw [h]; rfl) (decS3_enc _ g o)
theorem sxor (g : Grp) (o : OpS3) : Statement (.sxor g o) := fun _ =>
  decodeWord18 1#6 11#6 _ g _ _ _ (decS3 .sxor) major01 (fun _ h => by unfold decMajor01; rw [h]; rfl) (decS3_enc _ g o)
theorem sandn (g : Grp) (o : OpS3) : Statement (.sandn g o) := fun _ =>
  decodeWord18 1#6 12#6 _ g _ _ _ (decS3 .sandn) major01 (fun _ h => by unfold decMajor01; rw [h]; rfl) (decS3_enc _ g o)
theorem sshl (g : Grp) (o : OpS3) : Statement (.sshl g o) := fun _ =>
  decodeWord18 1#6 13#6 _ g _ _ _ (decS3 .sshl) major01 (fun _ h => by unfold decMajor01; rw [h]; rfl) (decS3_enc _ g o)
theorem sshr (g : Grp) (o : OpS3) : Statement (.sshr g o) := fun _ =>
  decodeWord18 1#6 14#6 _ g _ _ _ (decS3 .sshr) major01 (fun _ h => by unfold decMajor01; rw [h]; rfl) (decS3_enc _ g o)
theorem ssar (g : Grp) (o : OpS3) : Statement (.ssar g o) := fun _ =>
  decodeWord18 1#6 15#6 _ g _ _ _ (decS3 .ssar) major01 (fun _ h => by unfold decMajor01; rw [h]; rfl) (decS3_enc _ g o)
theorem sminI (g : Grp) (o : OpS3) : Statement (.sminI g o) := fun _ =>
  decodeWord18 1#6 16#6 _ g _ _ _ (decS3 .sminI) major01 (fun _ h => by unfold decMajor01; rw [h]; rfl) (decS3_enc _ g o)
theorem sminN (g : Grp) (o : OpS3) : Statement (.sminN g o) := fun _ =>
  decodeWord18 1#6 17#6 _ g _ _ _ (decS3 .sminN) major01 (fun _ h => by unfold decMajor01; rw [h]; rfl) (decS3_enc _ g o)
theorem smaxI (g : Grp) (o : OpS3) : Statement (.smaxI g o) := fun _ =>
  decodeWord18 1#6 18#6 _ g _ _ _ (decS3 .smaxI) major01 (fun _ h => by unfold decMajor01; rw [h]; rfl) (decS3_enc _ g o)
theorem smaxN (g : Grp) (o : OpS3) : Statement (.smaxN g o) := fun _ =>
  decodeWord18 1#6 19#6 _ g _ _ _ (decS3 .smaxN) major01 (fun _ h => by unfold decMajor01; rw [h]; rfl) (decS3_enc _ g o)
theorem scmpEq (g : Grp) (o : OpS3) : Statement (.scmpEq g o) := fun _ =>
  decodeWord18 1#6 20#6 _ g _ _ _ (decS3 .scmpEq) major01 (fun _ h => by unfold decMajor01; rw [h]; rfl) (decS3_enc _ g o)
theorem scmpNe (g : Grp) (o : OpS3) : Statement (.scmpNe g o) := fun _ =>
  decodeWord18 1#6 21#6 _ g _ _ _ (decS3 .scmpNe) major01 (fun _ h => by unfold decMajor01; rw [h]; rfl) (decS3_enc _ g o)
theorem scmpLtI (g : Grp) (o : OpS3) : Statement (.scmpLtI g o) := fun _ =>
  decodeWord18 1#6 22#6 _ g _ _ _ (decS3 .scmpLtI) major01 (fun _ h => by unfold decMajor01; rw [h]; rfl) (decS3_enc _ g o)
theorem scmpLtN (g : Grp) (o : OpS3) : Statement (.scmpLtN g o) := fun _ =>
  decodeWord18 1#6 23#6 _ g _ _ _ (decS3 .scmpLtN) major01 (fun _ h => by unfold decMajor01; rw [h]; rfl) (decS3_enc _ g o)
theorem scmpLeI (g : Grp) (o : OpS3) : Statement (.scmpLeI g o) := fun _ =>
  decodeWord18 1#6 24#6 _ g _ _ _ (decS3 .scmpLeI) major01 (fun _ h => by unfold decMajor01; rw [h]; rfl) (decS3_enc _ g o)
theorem scmpLeN (g : Grp) (o : OpS3) : Statement (.scmpLeN g o) := fun _ =>
  decodeWord18 1#6 25#6 _ g _ _ _ (decS3 .scmpLeN) major01 (fun _ h => by unfold decMajor01; rw [h]; rfl) (decS3_enc _ g o)
theorem ssel (g : Grp) (o : OpS3) : Statement (.ssel g o) := fun _ =>
  decodeWord18 1#6 26#6 _ g _ _ _ (decS3 .ssel) major01 (fun _ h => by unfold decMajor01; rw [h]; rfl) (decS3_enc _ g o)
theorem smov (g : Grp) (o : OpS2) : Statement (.smov g o) := fun _ =>
  decodeWord18 1#6 27#6 _ g _ _ _ (decS2 .smov) major01 (fun _ h => by unfold decMajor01; rw [h]; rfl) (decS2_enc _ g o)
theorem sclz (g : Grp) (o : OpS2) : Statement (.sclz g o) := fun _ =>
  decodeWord18 1#6 28#6 _ g _ _ _ (decS2 .sclz) major01 (fun _ h => by unfold decMajor01; rw [h]; rfl) (decS2_enc _ g o)
theorem sctz (g : Grp) (o : OpS2) : Statement (.sctz g o) := fun _ =>
  decodeWord18 1#6 29#6 _ g _ _ _ (decS2 .sctz) major01 (fun _ h => by unfold decMajor01; rw [h]; rfl) (decS2_enc _ g o)
theorem spopc (g : Grp) (o : OpS2) : Statement (.spopc g o) := fun _ =>
  decodeWord18 1#6 30#6 _ g _ _ _ (decS2 .spopc) major01 (fun _ h => by unfold decMajor01; rw [h]; rfl) (decS2_enc _ g o)
theorem sbrev (g : Grp) (o : OpS2) : Statement (.sbrev g o) := fun _ =>
  decodeWord18 1#6 31#6 _ g _ _ _ (decS2 .sbrev) major01 (fun _ h => by unfold decMajor01; rw [h]; rfl) (decS2_enc _ g o)
theorem sbfeI (g : Grp) (o : OpS3) : Statement (.sbfeI g o) := fun _ =>
  decodeWord18 1#6 32#6 _ g _ _ _ (decS3 .sbfeI) major01 (fun _ h => by unfold decMajor01; rw [h]; rfl) (decS3_enc _ g o)
theorem sbfeN (g : Grp) (o : OpS3) : Statement (.sbfeN g o) := fun _ =>
  decodeWord18 1#6 33#6 _ g _ _ _ (decS3 .sbfeN) major01 (fun _ h => by unfold decMajor01; rw [h]; rfl) (decS3_enc _ g o)
theorem sbfi (g : Grp) (o : OpS3) : Statement (.sbfi g o) := fun _ =>
  decodeWord18 1#6 34#6 _ g _ _ _ (decS3 .sbfi) major01 (fun _ h => by unfold decMajor01; rw [h]; rfl) (decS3_enc _ g o)
theorem sadr1 (g : Grp) (o : OpS3) : Statement (.sadr1 g o) := fun _ =>
  decodeWord18 1#6 35#6 _ g _ _ _ (decS3 .sadr1) major01 (fun _ h => by unfold decMajor01; rw [h]; rfl) (decS3_enc _ g o)
theorem sadr2 (g : Grp) (o : OpS3) : Statement (.sadr2 g o) := fun _ =>
  decodeWord18 1#6 36#6 _ g _ _ _ (decS3 .sadr2) major01 (fun _ h => by unfold decMajor01; rw [h]; rfl) (decS3_enc _ g o)
theorem sadr3 (g : Grp) (o : OpS3) : Statement (.sadr3 g o) := fun _ =>
  decodeWord18 1#6 37#6 _ g _ _ _ (decS3 .sadr3) major01 (fun _ h => by unfold decMajor01; rw [h]; rfl) (decS3_enc _ g o)
theorem sxtI8 (g : Grp) (o : OpS2) : Statement (.sxtI8 g o) := fun _ =>
  decodeWord18 1#6 38#6 _ g _ _ _ (decS2 .sxtI8) major01 (fun _ h => by unfold decMajor01; rw [h]; rfl) (decS2_enc _ g o)
theorem sxtI16 (g : Grp) (o : OpS2) : Statement (.sxtI16 g o) := fun _ =>
  decodeWord18 1#6 39#6 _ g _ _ _ (decS2 .sxtI16) major01 (fun _ h => by unfold decMajor01; rw [h]; rfl) (decS2_enc _ g o)
theorem sxtI32 (g : Grp) (o : OpS2) : Statement (.sxtI32 g o) := fun _ =>
  decodeWord18 1#6 40#6 _ g _ _ _ (decS2 .sxtI32) major01 (fun _ h => by unfold decMajor01; rw [h]; rfl) (decS2_enc _ g o)
theorem sxtN8 (g : Grp) (o : OpS2) : Statement (.sxtN8 g o) := fun _ =>
  decodeWord18 1#6 41#6 _ g _ _ _ (decS2 .sxtN8) major01 (fun _ h => by unfold decMajor01; rw [h]; rfl) (decS2_enc _ g o)
theorem sxtN16 (g : Grp) (o : OpS2) : Statement (.sxtN16 g o) := fun _ =>
  decodeWord18 1#6 42#6 _ g _ _ _ (decS2 .sxtN16) major01 (fun _ h => by unfold decMajor01; rw [h]; rfl) (decS2_enc _ g o)
theorem sxtN32 (g : Grp) (o : OpS2) : Statement (.sxtN32 g o) := fun _ =>
  decodeWord18 1#6 43#6 _ g _ _ _ (decS2 .sxtN32) major01 (fun _ h => by unfold decMajor01; rw [h]; rfl) (decS2_enc _ g o)
theorem sli (g : Grp) (o : OpSI) : Statement (.sli g o) := fun _ =>
  decodeWord22 2#6 0#2 _ g _ _ _ (decSI .sli) major02 (fun _ h => by unfold decMajor02; rw [h]; rfl) (decSI_enc _ g o)
theorem slui (g : Grp) (o : OpSI) : Statement (.slui g o) := fun _ =>
  decodeWord22 2#6 1#2 _ g _ _ _ (decSI .slui) major02 (fun _ h => by unfold decMajor02; rw [h]; rfl) (decSI_enc _ g o)
theorem saddi (g : Grp) (o : OpSI) : Statement (.saddi g o) := fun _ =>
  decodeWord22 2#6 2#2 _ g _ _ _ (decSI .saddi) major02 (fun _ h => by unfold decMajor02; rw [h]; rfl) (decSI_enc _ g o)
theorem sandi (g : Grp) (o : OpSI) : Statement (.sandi g o) := fun _ =>
  decodeWord22 2#6 3#2 _ g _ _ _ (decSI .sandi) major02 (fun _ h => by unfold decMajor02; rw [h]; rfl) (decSI_enc _ g o)
theorem sld8 (g : Grp) (o : OpS3) : Statement (.sld8 g o) := fun _ =>
  decodeWord18 3#6 0#6 _ g _ _ _ (decS3 .sld8) major03 (fun _ h => by unfold decMajor03; rw [h]; rfl) (decS3_enc _ g o)
theorem sld16 (g : Grp) (o : OpS3) : Statement (.sld16 g o) := fun _ =>
  decodeWord18 3#6 1#6 _ g _ _ _ (decS3 .sld16) major03 (fun _ h => by unfold decMajor03; rw [h]; rfl) (decS3_enc _ g o)
theorem sld32 (g : Grp) (o : OpS3) : Statement (.sld32 g o) := fun _ =>
  decodeWord18 3#6 2#6 _ g _ _ _ (decS3 .sld32) major03 (fun _ h => by unfold decMajor03; rw [h]; rfl) (decS3_enc _ g o)
theorem sld64 (g : Grp) (o : OpS3) : Statement (.sld64 g o) := fun _ =>
  decodeWord18 3#6 3#6 _ g _ _ _ (decS3 .sld64) major03 (fun _ h => by unfold decMajor03; rw [h]; rfl) (decS3_enc _ g o)
theorem sst8 (g : Grp) (o : OpS3) : Statement (.sst8 g o) := fun _ =>
  decodeWord18 3#6 4#6 _ g _ _ _ (decS3 .sst8) major03 (fun _ h => by unfold decMajor03; rw [h]; rfl) (decS3_enc _ g o)
theorem sst16 (g : Grp) (o : OpS3) : Statement (.sst16 g o) := fun _ =>
  decodeWord18 3#6 5#6 _ g _ _ _ (decS3 .sst16) major03 (fun _ h => by unfold decMajor03; rw [h]; rfl) (decS3_enc _ g o)
theorem sst32 (g : Grp) (o : OpS3) : Statement (.sst32 g o) := fun _ =>
  decodeWord18 3#6 6#6 _ g _ _ _ (decS3 .sst32) major03 (fun _ h => by unfold decMajor03; rw [h]; rfl) (decS3_enc _ g o)
theorem sst64 (g : Grp) (o : OpS3) : Statement (.sst64 g o) := fun _ =>
  decodeWord18 3#6 7#6 _ g _ _ _ (decS3 .sst64) major03 (fun _ h => by unfold decMajor03; rw [h]; rfl) (decS3_enc _ g o)
theorem samoAdd (g : Grp) (o : OpS3) : Statement (.samoAdd g o) := fun _ =>
  decodeWord18 3#6 8#6 _ g _ _ _ (decS3 .samoAdd) major03 (fun _ h => by unfold decMajor03; rw [h]; rfl) (decS3_enc _ g o)
theorem samoMinI (g : Grp) (o : OpS3) : Statement (.samoMinI g o) := fun _ =>
  decodeWord18 3#6 9#6 _ g _ _ _ (decS3 .samoMinI) major03 (fun _ h => by unfold decMajor03; rw [h]; rfl) (decS3_enc _ g o)
theorem samoMaxI (g : Grp) (o : OpS3) : Statement (.samoMaxI g o) := fun _ =>
  decodeWord18 3#6 10#6 _ g _ _ _ (decS3 .samoMaxI) major03 (fun _ h => by unfold decMajor03; rw [h]; rfl) (decS3_enc _ g o)
theorem samoMinN (g : Grp) (o : OpS3) : Statement (.samoMinN g o) := fun _ =>
  decodeWord18 3#6 11#6 _ g _ _ _ (decS3 .samoMinN) major03 (fun _ h => by unfold decMajor03; rw [h]; rfl) (decS3_enc _ g o)
theorem samoMaxN (g : Grp) (o : OpS3) : Statement (.samoMaxN g o) := fun _ =>
  decodeWord18 3#6 12#6 _ g _ _ _ (decS3 .samoMaxN) major03 (fun _ h => by unfold decMajor03; rw [h]; rfl) (decS3_enc _ g o)
theorem samoAnd (g : Grp) (o : OpS3) : Statement (.samoAnd g o) := fun _ =>
  decodeWord18 3#6 13#6 _ g _ _ _ (decS3 .samoAnd) major03 (fun _ h => by unfold decMajor03; rw [h]; rfl) (decS3_enc _ g o)
theorem samoOr (g : Grp) (o : OpS3) : Statement (.samoOr g o) := fun _ =>
  decodeWord18 3#6 14#6 _ g _ _ _ (decS3 .samoOr) major03 (fun _ h => by unfold decMajor03; rw [h]; rfl) (decS3_enc _ g o)
theorem samoXor (g : Grp) (o : OpS3) : Statement (.samoXor g o) := fun _ =>
  decodeWord18 3#6 15#6 _ g _ _ _ (decS3 .samoXor) major03 (fun _ h => by unfold decMajor03; rw [h]; rfl) (decS3_enc _ g o)
theorem samoXchg (g : Grp) (o : OpS3) : Statement (.samoXchg g o) := fun _ =>
  decodeWord18 3#6 16#6 _ g _ _ _ (decS3 .samoXchg) major03 (fun _ h => by unfold decMajor03; rw [h]; rfl) (decS3_enc _ g o)
theorem samoCas (g : Grp) (o : OpS3) : Statement (.samoCas g o) := fun _ =>
  decodeWord18 3#6 17#6 _ g _ _ _ (decS3 .samoCas) major03 (fun _ h => by unfold decMajor03; rw [h]; rfl) (decS3_enc _ g o)
theorem samoIncw (g : Grp) (o : OpS3) : Statement (.samoIncw g o) := fun _ =>
  decodeWord18 3#6 18#6 _ g _ _ _ (decS3 .samoIncw) major03 (fun _ h => by unfold decMajor03; rw [h]; rfl) (decS3_enc _ g o)
theorem samoFaddb (g : Grp) (o : OpS3) : Statement (.samoFaddb g o) := fun _ =>
  decodeWord18 3#6 19#6 _ g _ _ _ (decS3 .samoFaddb) major03 (fun _ h => by unfold decMajor03; rw [h]; rfl) (decS3_enc _ g o)
theorem srwlRacq (g : Grp) (o : OpS2) : Statement (.srwlRacq g o) := fun _ =>
  decodeWord18 3#6 20#6 _ g _ _ _ (decS2 .srwlRacq) major03 (fun _ h => by unfold decMajor03; rw [h]; rfl) (decS2_enc _ g o)
theorem srwlRrel (g : Grp) (o : OpS2) : Statement (.srwlRrel g o) := fun _ =>
  decodeWord18 3#6 21#6 _ g _ _ _ (decS2 .srwlRrel) major03 (fun _ h => by unfold decMajor03; rw [h]; rfl) (decS2_enc _ g o)
theorem srwlWacq (g : Grp) (o : OpS3) : Statement (.srwlWacq g o) := fun _ =>
  decodeWord18 3#6 22#6 _ g _ _ _ (decS3 .srwlWacq) major03 (fun _ h => by unfold decMajor03; rw [h]; rfl) (decS3_enc _ g o)
theorem srwlWrel (g : Grp) (o : OpS2) : Statement (.srwlWrel g o) := fun _ =>
  decodeWord18 3#6 23#6 _ g _ _ _ (decS2 .srwlWrel) major03 (fun _ h => by unfold decMajor03; rw [h]; rfl) (decS2_enc _ g o)
theorem sredAdd (g : Grp) (o : OpSR) : Statement (.sredAdd g o) := fun _ =>
  decodeWord18 3#6 24#6 _ g _ _ _ (decSR .sredAdd) major03 (fun _ h => by unfold decMajor03; rw [h]; rfl) (decSR_enc _ g o)
theorem sredAddF32 (g : Grp) (o : OpSR) : Statement (.sredAddF32 g o) := fun _ =>
  decodeWord18 3#6 25#6 _ g _ _ _ (decSR .sredAddF32) major03 (fun _ h => by unfold decMajor03; rw [h]; rfl) (decSR_enc _ g o)
theorem br (g : Grp) (o : OpFB) : Statement (.br g o) := fun _ =>
  decodeWord20 4#6 0#4 _ g _ _ _ (decFB .br) major04 (fun _ h => by unfold decMajor04; rw [h]; rfl) (decFB_enc _ g o)
theorem call (g : Grp) (o : OpFB) : Statement (.call g o) := fun _ =>
  decodeWord20 4#6 1#4 _ g _ _ _ (decFB .call) major04 (fun _ h => by unfold decMajor04; rw [h]; rfl) (decFB_enc _ g o)
theorem brz (g : Grp) (o : OpFBS) : Statement (.brz g o) := fun _ =>
  decodeBranch 0#2 g _ o .brz (fun _ h => by unfold decMajor05; rw [h]; rfl)
theorem brnz (g : Grp) (o : OpFBS) : Statement (.brnz g o) := fun _ =>
  decodeBranch 1#2 g _ o .brnz (fun _ h => by unfold decMajor05; rw [h]; rfl)
theorem brn (g : Grp) (o : OpFBS) : Statement (.brn g o) := fun _ =>
  decodeBranch 2#2 g _ o .brn (fun _ h => by unfold decMajor05; rw [h]; rfl)
theorem brnn (g : Grp) (o : OpFBS) : Statement (.brnn g o) := fun _ =>
  decodeBranch 3#2 g _ o .brnn (fun _ h => by unfold decMajor05; rw [h]; rfl)
theorem ret (g : Grp) (o : OpCA) : Statement (.ret g o) := fun _ =>
  decodeWord18 6#6 0#6 _ g _ _ _ (decCA .ret) major06 (fun _ h => by unfold decMajor06; rw [h]; rfl) (decCA_enc _ g o)
theorem opEnd (g : Grp) : Statement (.opEnd g) := fun _ =>
  decodeWord18 6#6 1#6 0#18 g _ _ _ (fun g w => decF0 .opEnd g w 18) major06 (fun _ h => by unfold decMajor06; rw [h]; rfl) (decF0_18 _ g)
theorem step (g : Grp) (o : OpCAN) : Statement (.step g o) := fun _ =>
  decodeWord18 6#6 2#6 _ g _ _ _ (decCAN .step) major06 (fun _ h => by unfold decMajor06; rw [h]; rfl) (decCAN_enc _ g o)
theorem bar (g : Grp) (o : OpCAK) : Statement (.bar g o) := fun _ =>
  decodeWord18 6#6 3#6 _ g _ _ _ (decCAK .bar) major06 (fun _ h => by unfold decMajor06; rw [h]; rfl) (decCAK_enc _ g o)
theorem trap (g : Grp) (o : OpCDN) : Statement (.trap g o) := fun _ =>
  decodeWord18 6#6 4#6 _ g _ _ _ (decCDN .trap) major06 (fun _ h => by unfold decMajor06; rw [h]; rfl) (decCDN_enc _ g o)
theorem spawn (g : Grp) (o : OpCAN) : Statement (.spawn g o) := fun _ =>
  decodeWord18 6#6 5#6 _ g _ _ _ (decCAN .spawn) major06 (fun _ h => by unfold decMajor06; rw [h]; rfl) (decCAN_enc _ g o)
theorem launch (g : Grp) (o : OpCA) : Statement (.launch g o) := fun _ =>
  decodeWord18 6#6 6#6 _ g _ _ _ (decCA .launch) major06 (fun _ h => by unfold decMajor06; rw [h]; rfl) (decCA_enc _ g o)
theorem srd (g : Grp) (o : OpCDN) : Statement (.srd g o) := fun _ =>
  decodeWord18 6#6 7#6 _ g _ _ _ (decCDN .srd) major06 (fun _ h => by unfold decMajor06; rw [h]; rfl) (decCDN_enc _ g o)
theorem swr (g : Grp) (o : OpCAN) : Statement (.swr g o) := fun _ =>
  decodeWord18 6#6 8#6 _ g _ _ _ (decCAN .swr) major06 (fun _ h => by unfold decMajor06; rw [h]; rfl) (decCAN_enc _ g o)
theorem opIf (g : Grp) (o : OpFIf) : Statement (.opIf g o) := fun _ =>
  decodeWord21 7#6 0#3 _ g _ _ _ (decFIf .opIf) major07 (fun _ h => by unfold decMajor07; rw [h]; rfl) (decFIf_enc _ g o)
theorem opElse (g : Grp) (o : OpFLab) : Statement (.opElse g o) := fun _ =>
  decodeWord21 7#6 1#3 _ g _ _ _ (decFLab .opElse) major07 (fun _ h => by unfold decMajor07; rw [h]; rfl) (decFLab_enc _ g o)
theorem endif (g : Grp) : Statement (.endif g) := fun _ =>
  decodeWord21 7#6 2#3 0#21 g _ _ _ (fun g w => decF0 .endif g w 21) major07 (fun _ h => by unfold decMajor07; rw [h]; rfl) (decF0_21 _ g)
theorem loop (g : Grp) (o : OpFLab) : Statement (.loop g o) := fun _ =>
  decodeWord21 7#6 3#3 _ g _ _ _ (decFLab .loop) major07 (fun _ h => by unfold decMajor07; rw [h]; rfl) (decFLab_enc _ g o)
theorem brk (g : Grp) (o : OpFM) : Statement (.brk g o) := fun _ =>
  decodeWord21 7#6 4#3 _ g _ _ _ (decFM .brk) major07 (fun _ h => by unfold decMajor07; rw [h]; rfl) (decFM_enc _ g o)
theorem nxt (g : Grp) (o : OpFM) : Statement (.nxt g o) := fun _ =>
  decodeWord21 7#6 5#3 _ g _ _ _ (decFM .nxt) major07 (fun _ h => by unfold decMajor07; rw [h]; rfl) (decFM_enc _ g o)
theorem endl (g : Grp) (o : OpFLab) : Statement (.endl g o) := fun _ =>
  decodeWord21 7#6 6#3 _ g _ _ _ (decFLab .endl) major07 (fun _ h => by unfold decMajor07; rw [h]; rfl) (decFLab_enc _ g o)
theorem vadd (g : Grp) (o : OpV3) : Statement (.vadd g o) := fun _ =>
  decodeWord21 8#6 0#3 _ g _ _ _ (decV3 .vadd) major08 (fun _ h => by unfold decMajor08; rw [h]; rfl) (decV3_enc _ g o)
theorem vsub (g : Grp) (o : OpV3) : Statement (.vsub g o) := fun _ =>
  decodeWord21 8#6 1#3 _ g _ _ _ (decV3 .vsub) major08 (fun _ h => by unfold decMajor08; rw [h]; rfl) (decV3_enc _ g o)
theorem vmul (g : Grp) (o : OpV3) : Statement (.vmul g o) := fun _ =>
  decodeWord21 8#6 2#3 _ g _ _ _ (decV3 .vmul) major08 (fun _ h => by unfold decMajor08; rw [h]; rfl) (decV3_enc _ g o)
theorem vmulh (g : Grp) (o : OpV3) : Statement (.vmulh g o) := fun _ =>
  decodeWord21 8#6 3#3 _ g _ _ _ (decV3 .vmulh) major08 (fun _ h => by unfold decMajor08; rw [h]; rfl) (decV3_enc _ g o)
theorem vmad (g : Grp) (o : OpV3) : Statement (.vmad g o) := fun _ =>
  decodeWord21 8#6 4#3 _ g _ _ _ (decV3 .vmad) major08 (fun _ h => by unfold decMajor08; rw [h]; rfl) (decV3_enc _ g o)
theorem vmin (g : Grp) (o : OpV3) : Statement (.vmin g o) := fun _ =>
  decodeWord21 8#6 5#3 _ g _ _ _ (decV3 .vmin) major08 (fun _ h => by unfold decMajor08; rw [h]; rfl) (decV3_enc _ g o)
theorem vmax (g : Grp) (o : OpV3) : Statement (.vmax g o) := fun _ =>
  decodeWord21 8#6 6#3 _ g _ _ _ (decV3 .vmax) major08 (fun _ h => by unfold decMajor08; rw [h]; rfl) (decV3_enc _ g o)
theorem vabs (g : Grp) (o : OpV2) : Statement (.vabs g o) := fun _ =>
  decodeWord21 8#6 7#3 _ g _ _ _ (decV2 .vabs) major08 (fun _ h => by unfold decMajor08; rw [h]; rfl) (decV2_enc _ g o)
theorem vand (g : Grp) (o : OpV3) : Statement (.vand g o) := fun _ =>
  decodeWord21 9#6 0#3 _ g _ _ _ (decV3 .vand) major09 (fun _ h => by unfold decMajor09; rw [h]; rfl) (decV3_enc _ g o)
theorem vor (g : Grp) (o : OpV3) : Statement (.vor g o) := fun _ =>
  decodeWord21 9#6 1#3 _ g _ _ _ (decV3 .vor) major09 (fun _ h => by unfold decMajor09; rw [h]; rfl) (decV3_enc _ g o)
theorem vxor (g : Grp) (o : OpV3) : Statement (.vxor g o) := fun _ =>
  decodeWord21 9#6 2#3 _ g _ _ _ (decV3 .vxor) major09 (fun _ h => by unfold decMajor09; rw [h]; rfl) (decV3_enc _ g o)
theorem vandn (g : Grp) (o : OpV3) : Statement (.vandn g o) := fun _ =>
  decodeWord21 9#6 3#3 _ g _ _ _ (decV3 .vandn) major09 (fun _ h => by unfold decMajor09; rw [h]; rfl) (decV3_enc _ g o)
theorem vshl (g : Grp) (o : OpV3) : Statement (.vshl g o) := fun _ =>
  decodeWord21 9#6 4#3 _ g _ _ _ (decV3 .vshl) major09 (fun _ h => by unfold decMajor09; rw [h]; rfl) (decV3_enc _ g o)
theorem vshr (g : Grp) (o : OpV3) : Statement (.vshr g o) := fun _ =>
  decodeWord21 9#6 5#3 _ g _ _ _ (decV3 .vshr) major09 (fun _ h => by unfold decMajor09; rw [h]; rfl) (decV3_enc _ g o)
theorem vsar (g : Grp) (o : OpV3) : Statement (.vsar g o) := fun _ =>
  decodeWord21 9#6 6#3 _ g _ _ _ (decV3 .vsar) major09 (fun _ h => by unfold decMajor09; rw [h]; rfl) (decV3_enc _ g o)
theorem vsel (g : Grp) (o : OpV3) : Statement (.vsel g o) := fun _ =>
  decodeWord21 9#6 7#3 _ g _ _ _ (decV3 .vsel) major09 (fun _ h => by unfold decMajor09; rw [h]; rfl) (decV3_enc _ g o)
theorem vclz (g : Grp) (o : OpV2) : Statement (.vclz g o) := fun _ =>
  decodeWord21 10#6 0#3 _ g _ _ _ (decV2 .vclz) major0A (fun _ h => by unfold decMajor0A; rw [h]; rfl) (decV2_enc _ g o)
theorem vctz (g : Grp) (o : OpV2) : Statement (.vctz g o) := fun _ =>
  decodeWord21 10#6 1#3 _ g _ _ _ (decV2 .vctz) major0A (fun _ h => by unfold decMajor0A; rw [h]; rfl) (decV2_enc _ g o)
theorem vffs (g : Grp) (o : OpV2) : Statement (.vffs g o) := fun _ =>
  decodeWord21 10#6 2#3 _ g _ _ _ (decV2 .vffs) major0A (fun _ h => by unfold decMajor0A; rw [h]; rfl) (decV2_enc _ g o)
theorem vpopc (g : Grp) (o : OpV2) : Statement (.vpopc g o) := fun _ =>
  decodeWord21 10#6 3#3 _ g _ _ _ (decV2 .vpopc) major0A (fun _ h => by unfold decMajor0A; rw [h]; rfl) (decV2_enc _ g o)
theorem vbrev (g : Grp) (o : OpV2) : Statement (.vbrev g o) := fun _ =>
  decodeWord21 10#6 4#3 _ g _ _ _ (decV2 .vbrev) major0A (fun _ h => by unfold decMajor0A; rw [h]; rfl) (decV2_enc _ g o)
theorem vbfe (g : Grp) (o : OpV3) : Statement (.vbfe g o) := fun _ =>
  decodeWord21 10#6 5#3 _ g _ _ _ (decV3 .vbfe) major0A (fun _ h => by unfold decMajor0A; rw [h]; rfl) (decV3_enc _ g o)
theorem vbfi (g : Grp) (o : OpV3) : Statement (.vbfi g o) := fun _ =>
  decodeWord21 10#6 6#3 _ g _ _ _ (decV3 .vbfi) major0A (fun _ h => by unfold decMajor0A; rw [h]; rfl) (decV3_enc _ g o)
theorem vdp4 (g : Grp) (o : OpV3) : Statement (.vdp4 g o) := fun _ =>
  decodeWord21 10#6 7#3 _ g _ _ _ (decV3 .vdp4) major0A (fun _ h => by unfold decMajor0A; rw [h]; rfl) (decV3_enc _ g o)
theorem vcmpEq (g : Grp) (o : OpV3) : Statement (.vcmpEq g o) := fun _ =>
  decodeWord21 11#6 0#3 _ g _ _ _ (decV3 .vcmpEq) major0B (fun _ h => by unfold decMajor0B; rw [h]; rfl) (decV3_enc _ g o)
theorem vcmpNe (g : Grp) (o : OpV3) : Statement (.vcmpNe g o) := fun _ =>
  decodeWord21 11#6 1#3 _ g _ _ _ (decV3 .vcmpNe) major0B (fun _ h => by unfold decMajor0B; rw [h]; rfl) (decV3_enc _ g o)
theorem vcmpLt (g : Grp) (o : OpV3) : Statement (.vcmpLt g o) := fun _ =>
  decodeWord21 11#6 2#3 _ g _ _ _ (decV3 .vcmpLt) major0B (fun _ h => by unfold decMajor0B; rw [h]; rfl) (decV3_enc _ g o)
theorem vcmpLe (g : Grp) (o : OpV3) : Statement (.vcmpLe g o) := fun _ =>
  decodeWord21 11#6 3#3 _ g _ _ _ (decV3 .vcmpLe) major0B (fun _ h => by unfold decMajor0B; rw [h]; rfl) (decV3_enc _ g o)
theorem vcmpGt (g : Grp) (o : OpV3) : Statement (.vcmpGt g o) := fun _ =>
  decodeWord21 11#6 4#3 _ g _ _ _ (decV3 .vcmpGt) major0B (fun _ h => by unfold decMajor0B; rw [h]; rfl) (decV3_enc _ g o)
theorem vcmpGe (g : Grp) (o : OpV3) : Statement (.vcmpGe g o) := fun _ =>
  decodeWord21 11#6 5#3 _ g _ _ _ (decV3 .vcmpGe) major0B (fun _ h => by unfold decMajor0B; rw [h]; rfl) (decV3_enc _ g o)
theorem vdp2 (g : Grp) (o : OpV3) : Statement (.vdp2 g o) := fun _ =>
  decodeWord21 11#6 6#3 _ g _ _ _ (decV3 .vdp2) major0B (fun _ h => by unfold decMajor0B; rw [h]; rfl) (decV3_enc _ g o)
theorem vmov (g : Grp) (o : OpV2) : Statement (.vmov g o) := fun _ =>
  decodeWord21 11#6 7#3 _ g _ _ _ (decV2 .vmov) major0B (fun _ h => by unfold decMajor0B; rw [h]; rfl) (decV2_enc _ g o)
theorem vfadd (g : Grp) (o : OpV3) : Statement (.vfadd g o) := fun _ =>
  decodeWord21 12#6 0#3 _ g _ _ _ (decV3 .vfadd) major0C (fun _ h => by unfold decMajor0C; rw [h]; rfl) (decV3_enc _ g o)
theorem vfsub (g : Grp) (o : OpV3) : Statement (.vfsub g o) := fun _ =>
  decodeWord21 12#6 1#3 _ g _ _ _ (decV3 .vfsub) major0C (fun _ h => by unfold decMajor0C; rw [h]; rfl) (decV3_enc _ g o)
theorem vfmul (g : Grp) (o : OpV3) : Statement (.vfmul g o) := fun _ =>
  decodeWord21 12#6 2#3 _ g _ _ _ (decV3 .vfmul) major0C (fun _ h => by unfold decMajor0C; rw [h]; rfl) (decV3_enc _ g o)
theorem vfma (g : Grp) (o : OpV3) : Statement (.vfma g o) := fun _ =>
  decodeWord21 12#6 3#3 _ g _ _ _ (decV3 .vfma) major0C (fun _ h => by unfold decMajor0C; rw [h]; rfl) (decV3_enc _ g o)
theorem vfnma (g : Grp) (o : OpV3) : Statement (.vfnma g o) := fun _ =>
  decodeWord21 12#6 4#3 _ g _ _ _ (decV3 .vfnma) major0C (fun _ h => by unfold decMajor0C; rw [h]; rfl) (decV3_enc _ g o)
theorem vfmin (g : Grp) (o : OpV3) : Statement (.vfmin g o) := fun _ =>
  decodeWord21 12#6 5#3 _ g _ _ _ (decV3 .vfmin) major0C (fun _ h => by unfold decMajor0C; rw [h]; rfl) (decV3_enc _ g o)
theorem vfmax (g : Grp) (o : OpV3) : Statement (.vfmax g o) := fun _ =>
  decodeWord21 12#6 6#3 _ g _ _ _ (decV3 .vfmax) major0C (fun _ h => by unfold decMajor0C; rw [h]; rfl) (decV3_enc _ g o)
theorem vfabs (g : Grp) (o : OpV2) : Statement (.vfabs g o) := fun _ =>
  decodeWord21 12#6 7#3 _ g _ _ _ (decV2 .vfabs) major0C (fun _ h => by unfold decMajor0C; rw [h]; rfl) (decV2_enc _ g o)
theorem vfcmpEq (g : Grp) (o : OpV3) : Statement (.vfcmpEq g o) := fun _ =>
  decodeWord21 13#6 0#3 _ g _ _ _ (decV3 .vfcmpEq) major0D (fun _ h => by unfold decMajor0D; rw [h]; rfl) (decV3_enc _ g o)
theorem vfcmpLt (g : Grp) (o : OpV3) : Statement (.vfcmpLt g o) := fun _ =>
  decodeWord21 13#6 1#3 _ g _ _ _ (decV3 .vfcmpLt) major0D (fun _ h => by unfold decMajor0D; rw [h]; rfl) (decV3_enc _ g o)
theorem vfcmpLe (g : Grp) (o : OpV3) : Statement (.vfcmpLe g o) := fun _ =>
  decodeWord21 13#6 2#3 _ g _ _ _ (decV3 .vfcmpLe) major0D (fun _ h => by unfold decMajor0D; rw [h]; rfl) (decV3_enc _ g o)
theorem vfcmpUn (g : Grp) (o : OpV3) : Statement (.vfcmpUn g o) := fun _ =>
  decodeWord21 13#6 3#3 _ g _ _ _ (decV3 .vfcmpUn) major0D (fun _ h => by unfold decMajor0D; rw [h]; rfl) (decV3_enc _ g o)
theorem vfclass (g : Grp) (o : OpV2) : Statement (.vfclass g o) := fun _ =>
  decodeWord21 13#6 4#3 _ g _ _ _ (decV2 .vfclass) major0D (fun _ h => by unfold decMajor0D; rw [h]; rfl) (decV2_enc _ g o)
theorem vfrnd (g : Grp) (o : OpV2) : Statement (.vfrnd g o) := fun _ =>
  decodeWord21 13#6 5#3 _ g _ _ _ (decV2 .vfrnd) major0D (fun _ h => by unfold decMajor0D; rw [h]; rfl) (decV2_enc _ g o)
theorem vfneg (g : Grp) (o : OpV2) : Statement (.vfneg g o) := fun _ =>
  decodeWord21 13#6 6#3 _ g _ _ _ (decV2 .vfneg) major0D (fun _ h => by unfold decMajor0D; rw [h]; rfl) (decV2_enc _ g o)
theorem vfcpsgn (g : Grp) (o : OpV3) : Statement (.vfcpsgn g o) := fun _ =>
  decodeWord21 13#6 7#3 _ g _ _ _ (decV3 .vfcpsgn) major0D (fun _ h => by unfold decMajor0D; rw [h]; rfl) (decV3_enc _ g o)
theorem vfminNan (g : Grp) (o : OpV3) : Statement (.vfminNan g o) := fun _ =>
  decodeWord21 14#6 0#3 _ g _ _ _ (decV3 .vfminNan) major0E (fun _ h => by unfold decMajor0E; rw [h]; rfl) (decV3_enc _ g o)
theorem vfmaxNan (g : Grp) (o : OpV3) : Statement (.vfmaxNan g o) := fun _ =>
  decodeWord21 14#6 1#3 _ g _ _ _ (decV3 .vfmaxNan) major0E (fun _ h => by unfold decMajor0E; rw [h]; rfl) (decV3_enc _ g o)
theorem vfdot2 (g : Grp) (o : OpV3) : Statement (.vfdot2 g o) := fun _ =>
  decodeWord21 14#6 2#3 _ g _ _ _ (decV3 .vfdot2) major0E (fun _ h => by unfold decMajor0E; rw [h]; rfl) (decV3_enc _ g o)
theorem vfscl (g : Grp) (o : OpV3) : Statement (.vfscl g o) := fun _ =>
  decodeWord21 14#6 3#3 _ g _ _ _ (decV3 .vfscl) major0E (fun _ h => by unfold decMajor0E; rw [h]; rfl) (decV3_enc _ g o)
theorem vfexp (g : Grp) (o : OpV2) : Statement (.vfexp g o) := fun _ =>
  decodeWord21 14#6 4#3 _ g _ _ _ (decV2 .vfexp) major0E (fun _ h => by unfold decMajor0E; rw [h]; rfl) (decV2_enc _ g o)
theorem vfmant (g : Grp) (o : OpV2) : Statement (.vfmant g o) := fun _ =>
  decodeWord21 14#6 5#3 _ g _ _ _ (decV2 .vfmant) major0E (fun _ h => by unfold decMajor0E; rw [h]; rfl) (decV2_enc _ g o)
theorem vflerp (g : Grp) (o : OpV3) : Statement (.vflerp g o) := fun _ =>
  decodeWord21 14#6 6#3 _ g _ _ _ (decV3 .vflerp) major0E (fun _ h => by unfold decMajor0E; rw [h]; rfl) (decV3_enc _ g o)
theorem vcvtF (g : Grp) (o : OpVC) : Statement (.vcvtF g o) := fun _ =>
  decodeWord21 16#6 0#3 _ g _ _ _ (decVC .vcvtF) major10 (fun _ h => by unfold decMajor10; rw [h]; rfl) (decVC_enc _ g o)
theorem vcvtI (g : Grp) (o : OpVC) : Statement (.vcvtI g o) := fun _ =>
  decodeWord21 16#6 1#3 _ g _ _ _ (decVC .vcvtI) major10 (fun _ h => by unfold decMajor10; rw [h]; rfl) (decVC_enc _ g o)
theorem vcvtN (g : Grp) (o : OpVC) : Statement (.vcvtN g o) := fun _ =>
  decodeWord21 16#6 2#3 _ g _ _ _ (decVC .vcvtN) major10 (fun _ h => by unfold decMajor10; rw [h]; rfl) (decVC_enc _ g o)
theorem vcvtPk16 (g : Grp) (o : OpV3) : Statement (.vcvtPk16 g o) := fun _ =>
  decodeWord21 16#6 3#3 _ g _ _ _ (decV3 .vcvtPk16) major10 (fun _ h => by unfold decMajor10; rw [h]; rfl) (decV3_enc _ g o)
theorem vcvtPk8 (g : Grp) (o : OpV3) : Statement (.vcvtPk8 g o) := fun _ =>
  decodeWord21 16#6 4#3 _ g _ _ _ (decV3 .vcvtPk8) major10 (fun _ h => by unfold decMajor10; rw [h]; rfl) (decV3_enc _ g o)
theorem vcvtUnpk (g : Grp) (o : OpVC) : Statement (.vcvtUnpk g o) := fun _ =>
  decodeWord21 16#6 5#3 _ g _ _ _ (decVC .vcvtUnpk) major10 (fun _ h => by unfold decMajor10; rw [h]; rfl) (decVC_enc _ g o)
theorem vcvtBs (g : Grp) (o : OpV2) : Statement (.vcvtBs g o) := fun _ =>
  decodeWord21 16#6 6#3 _ g _ _ _ (decV2 .vcvtBs) major10 (fun _ h => by unfold decMajor10; rw [h]; rfl) (decV2_enc _ g o)
theorem vrcp (g : Grp) (o : OpV2) : Statement (.vrcp g o) := fun _ =>
  decodeWord21 17#6 0#3 _ g _ _ _ (decV2 .vrcp) major11 (fun _ h => by unfold decMajor11; rw [h]; rfl) (decV2_enc _ g o)
theorem vrsq (g : Grp) (o : OpV2) : Statement (.vrsq g o) := fun _ =>
  decodeWord21 17#6 1#3 _ g _ _ _ (decV2 .vrsq) major11 (fun _ h => by unfold decMajor11; rw [h]; rfl) (decV2_enc _ g o)
theorem vsqrt (g : Grp) (o : OpV2) : Statement (.vsqrt g o) := fun _ =>
  decodeWord21 17#6 2#3 _ g _ _ _ (decV2 .vsqrt) major11 (fun _ h => by unfold decMajor11; rw [h]; rfl) (decV2_enc _ g o)
theorem vexp2 (g : Grp) (o : OpV2) : Statement (.vexp2 g o) := fun _ =>
  decodeWord21 17#6 3#3 _ g _ _ _ (decV2 .vexp2) major11 (fun _ h => by unfold decMajor11; rw [h]; rfl) (decV2_enc _ g o)
theorem vlog2 (g : Grp) (o : OpV2) : Statement (.vlog2 g o) := fun _ =>
  decodeWord21 17#6 4#3 _ g _ _ _ (decV2 .vlog2) major11 (fun _ h => by unfold decMajor11; rw [h]; rfl) (decV2_enc _ g o)
theorem vsinp (g : Grp) (o : OpV2) : Statement (.vsinp g o) := fun _ =>
  decodeWord21 17#6 5#3 _ g _ _ _ (decV2 .vsinp) major11 (fun _ h => by unfold decMajor11; rw [h]; rfl) (decV2_enc _ g o)
theorem vcosp (g : Grp) (o : OpV2) : Statement (.vcosp g o) := fun _ =>
  decodeWord21 17#6 6#3 _ g _ _ _ (decV2 .vcosp) major11 (fun _ h => by unfold decMajor11; rw [h]; rfl) (decV2_enc _ g o)
theorem vtanh (g : Grp) (o : OpV2) : Statement (.vtanh g o) := fun _ =>
  decodeWord21 17#6 7#3 _ g _ _ _ (decV2 .vtanh) major11 (fun _ h => by unfold decMajor11; rw [h]; rfl) (decV2_enc _ g o)
theorem vcmul (g : Grp) (o : OpV3) : Statement (.vcmul g o) := fun _ =>
  decodeWord21 18#6 0#3 _ g _ _ _ (decV3 .vcmul) major12 (fun _ h => by unfold decMajor12; rw [h]; rfl) (decV3_enc _ g o)
theorem vcfma (g : Grp) (o : OpV3) : Statement (.vcfma g o) := fun _ =>
  decodeWord21 18#6 1#3 _ g _ _ _ (decV3 .vcfma) major12 (fun _ h => by unfold decMajor12; rw [h]; rfl) (decV3_enc _ g o)
theorem vcconj (g : Grp) (o : OpV3) : Statement (.vcconj g o) := fun _ =>
  decodeWord21 18#6 2#3 _ g _ _ _ (decV3 .vcconj) major12 (fun _ h => by unfold decMajor12; rw [h]; rfl) (decV3_enc _ g o)
theorem vcabs2 (g : Grp) (o : OpV3) : Statement (.vcabs2 g o) := fun _ =>
  decodeWord21 18#6 3#3 _ g _ _ _ (decV3 .vcabs2) major12 (fun _ h => by unfold decMajor12; rw [h]; rfl) (decV3_enc _ g o)
theorem vwelf (g : Grp) (o : OpV2) : Statement (.vwelf g o) := fun _ =>
  decodeWord21 18#6 4#3 _ g _ _ _ (decV2 .vwelf) major12 (fun _ h => by unfold decMajor12; rw [h]; rfl) (decV2_enc _ g o)
theorem vwmrg (g : Grp) (o : OpV2) : Statement (.vwmrg g o) := fun _ =>
  decodeWord21 18#6 5#3 _ g _ _ _ (decV2 .vwmrg) major12 (fun _ h => by unfold decMajor12; rw [h]; rfl) (decV2_enc _ g o)
theorem vwfin (g : Grp) (o : OpVW) : Statement (.vwfin g o) := fun _ =>
  decodeWord21 18#6 6#3 _ g _ _ _ (decVW .vwfin) major12 (fun _ h => by unfold decMajor12; rw [h]; rfl) (decVW_enc _ g o)
theorem vli (g : Grp) (o : OpVL) : Statement (.vli g o) := fun _ =>
  decodeWord21 19#6 0#3 _ g _ _ _ (decVL .vli) major13 (fun _ h => by unfold decMajor13; rw [h]; rfl) (decVL_enc _ g o)
theorem vaddi (g : Grp) (o : OpVI) : Statement (.vaddi g o) := fun _ =>
  decodeWord21 19#6 1#3 _ g _ _ _ (decVI .vaddi) major13 (fun _ h => by unfold decMajor13; rw [h]; rfl) (decVI_enc _ g o)
theorem vandi (g : Grp) (o : OpVI) : Statement (.vandi g o) := fun _ =>
  decodeWord21 19#6 2#3 _ g _ _ _ (decVI .vandi) major13 (fun _ h => by unfold decMajor13; rw [h]; rfl) (decVI_enc _ g o)
theorem vori (g : Grp) (o : OpVI) : Statement (.vori g o) := fun _ =>
  decodeWord21 19#6 3#3 _ g _ _ _ (decVI .vori) major13 (fun _ h => by unfold decMajor13; rw [h]; rfl) (decVI_enc _ g o)
theorem vxori (g : Grp) (o : OpVI) : Statement (.vxori g o) := fun _ =>
  decodeWord21 19#6 4#3 _ g _ _ _ (decVI .vxori) major13 (fun _ h => by unfold decMajor13; rw [h]; rfl) (decVI_enc _ g o)
theorem vshli (g : Grp) (o : OpVSh) : Statement (.vshli g o) := fun _ =>
  decodeWord21 19#6 5#3 _ g _ _ _ (decVSh .vshli) major13 (fun _ h => by unfold decMajor13; rw [h]; rfl) (decVSh_enc _ g o)
theorem vshri (g : Grp) (o : OpVSh) : Statement (.vshri g o) := fun _ =>
  decodeWord21 19#6 6#3 _ g _ _ _ (decVSh .vshri) major13 (fun _ h => by unfold decMajor13; rw [h]; rfl) (decVSh_enc _ g o)
theorem vsari (g : Grp) (o : OpVSh) : Statement (.vsari g o) := fun _ =>
  decodeWord21 19#6 7#3 _ g _ _ _ (decVSh .vsari) major13 (fun _ h => by unfold decMajor13; rw [h]; rfl) (decVSh_enc _ g o)
theorem vshflIdx (g : Grp) (o : OpV3) : Statement (.vshflIdx g o) := fun _ =>
  decodeWord21 20#6 0#3 _ g _ _ _ (decV3 .vshflIdx) major14 (fun _ h => by unfold decMajor14; rw [h]; rfl) (decV3_enc _ g o)
theorem vshflUp (g : Grp) (o : OpVSh) : Statement (.vshflUp g o) := fun _ =>
  decodeWord21 20#6 1#3 _ g _ _ _ (decVSh .vshflUp) major14 (fun _ h => by unfold decMajor14; rw [h]; rfl) (decVSh_enc _ g o)
theorem vshflDn (g : Grp) (o : OpVSh) : Statement (.vshflDn g o) := fun _ =>
  decodeWord21 20#6 2#3 _ g _ _ _ (decVSh .vshflDn) major14 (fun _ h => by unfold decMajor14; rw [h]; rfl) (decVSh_enc _ g o)
theorem vshflXor (g : Grp) (o : OpVSh) : Statement (.vshflXor g o) := fun _ =>
  decodeWord21 20#6 3#3 _ g _ _ _ (decVSh .vshflXor) major14 (fun _ h => by unfold decMajor14; rw [h]; rfl) (decVSh_enc _ g o)
theorem vxsel (g : Grp) (o : OpV3) : Statement (.vxsel g o) := fun _ =>
  decodeWord21 20#6 4#3 _ g _ _ _ (decV3 .vxsel) major14 (fun _ h => by unfold decMajor14; rw [h]; rfl) (decV3_enc _ g o)
theorem vbcast (g : Grp) (o : OpVB) : Statement (.vbcast g o) := fun _ =>
  decodeWord21 20#6 5#3 _ g _ _ _ (decVB .vbcast) major14 (fun _ h => by unfold decMajor14; rw [h]; rfl) (decVB_enc _ g o)
theorem vlane (g : Grp) (o : OpV1) : Statement (.vlane g o) := fun _ =>
  decodeWord21 20#6 6#3 _ g _ _ _ (decV1 .vlane) major14 (fun _ h => by unfold decMajor14; rw [h]; rfl) (decV1_enc _ g o)
theorem vext (g : Grp) (o : OpVE) : Statement (.vext g o) := fun _ =>
  decodeWord21 20#6 7#3 _ g _ _ _ (decVE .vext) major14 (fun _ h => by unfold decMajor14; rw [h]; rfl) (decVE_enc _ g o)
theorem vvoteAny (g : Grp) (o : OpVS) : Statement (.vvoteAny g o) := fun _ =>
  decodeWord21 21#6 0#3 _ g _ _ _ (decVS .vvoteAny) major15 (fun _ h => by unfold decMajor15; rw [h]; rfl) (decVS_enc _ g o)
theorem vvoteAll (g : Grp) (o : OpVS) : Statement (.vvoteAll g o) := fun _ =>
  decodeWord21 21#6 1#3 _ g _ _ _ (decVS .vvoteAll) major15 (fun _ h => by unfold decMajor15; rw [h]; rfl) (decVS_enc _ g o)
theorem vvoteUni (g : Grp) (o : OpVS) : Statement (.vvoteUni g o) := fun _ =>
  decodeWord21 21#6 2#3 _ g _ _ _ (decVS .vvoteUni) major15 (fun _ h => by unfold decMajor15; rw [h]; rfl) (decVS_enc _ g o)
theorem vballot (g : Grp) (o : OpVS) : Statement (.vballot g o) := fun _ =>
  decodeWord21 21#6 3#3 _ g _ _ _ (fun g w => if bit w 20 then decVBM .vballotMask g w else decVS .vballot g w) major15
    (fun _ h => by unfold decMajor15; rw [h]; rfl) (fun h => by
      have e : bit (h ++ encVS o : BitVec 32) 20 = false := by simp only [bit, encVS, BitVec.getLsbD_append]; simp
      simp only [e]; exact decVS_enc _ g o h)
theorem vballotMask (g : Grp) (o : OpVBM) : Statement (.vballotMask g o) := fun _ =>
  decodeWord21 21#6 3#3 _ g _ _ _ (fun g w => if bit w 20 then decVBM .vballotMask g w else decVS .vballot g w) major15
    (fun _ h => by unfold decMajor15; rw [h]; rfl) (fun h => by
      have e : bit (h ++ encVBM o : BitVec 32) 20 = true := by simp only [bit, encVBM, BitVec.getLsbD_append]; simp
      simp only [e]; exact decVBM_enc _ g o h)
theorem vredux (g : Grp) (o : OpVR) : Statement (.vredux g o) := fun _ =>
  decodeWord21 21#6 4#3 _ g _ _ _ (decVR .vredux) major15 (fun _ h => by unfold decMajor15; rw [h]; rfl) (decVR_enc _ g o)
theorem vscanIn (g : Grp) (o : OpVR) : Statement (.vscanIn g o) := fun _ =>
  decodeWord21 21#6 5#3 _ g _ _ _ (decVR .vscanIn) major15 (fun _ h => by unfold decMajor15; rw [h]; rfl) (decVR_enc _ g o)
theorem vscanEx (g : Grp) (o : OpVR) : Statement (.vscanEx g o) := fun _ =>
  decodeWord21 21#6 6#3 _ g _ _ _ (decVR .vscanEx) major15 (fun _ h => by unfold decMajor15; rw [h]; rfl) (decVR_enc _ g o)
theorem vmatch (g : Grp) (o : OpV2) : Statement (.vmatch g o) := fun _ =>
  decodeWord21 21#6 7#3 _ g _ _ _ (decV2 .vmatch) major15 (fun _ h => by unfold decMajor15; rw [h]; rfl) (decV2_enc _ g o)
theorem vld8 (g : Grp) (o : OpMB) : Statement (.vld8 g o) := fun _ =>
  decodeWord21 24#6 0#3 _ g _ _ _ (decMB .vld8) major18 (fun _ h => by unfold decMajor18; rw [h]; rfl) (decMB_enc _ g o)
theorem vld8s (g : Grp) (o : OpMB) : Statement (.vld8s g o) := fun _ =>
  decodeWord21 24#6 1#3 _ g _ _ _ (decMB .vld8s) major18 (fun _ h => by unfold decMajor18; rw [h]; rfl) (decMB_enc _ g o)
theorem vld16 (g : Grp) (o : OpMB) : Statement (.vld16 g o) := fun _ =>
  decodeWord21 24#6 2#3 _ g _ _ _ (decMB .vld16) major18 (fun _ h => by unfold decMajor18; rw [h]; rfl) (decMB_enc _ g o)
theorem vld16s (g : Grp) (o : OpMB) : Statement (.vld16s g o) := fun _ =>
  decodeWord21 24#6 3#3 _ g _ _ _ (decMB .vld16s) major18 (fun _ h => by unfold decMajor18; rw [h]; rfl) (decMB_enc _ g o)
theorem vld32 (g : Grp) (o : OpMB) : Statement (.vld32 g o) := fun _ =>
  decodeWord21 24#6 4#3 _ g _ _ _ (decMB .vld32) major18 (fun _ h => by unfold decMajor18; rw [h]; rfl) (decMB_enc _ g o)
theorem vld64 (g : Grp) (o : OpMB) : Statement (.vld64 g o) := fun _ =>
  decodeWord21 24#6 5#3 _ g _ _ _ (decMB .vld64) major18 (fun _ h => by unfold decMajor18; rw [h]; rfl) (decMB_enc _ g o)
theorem vld128 (g : Grp) (o : OpMB) : Statement (.vld128 g o) := fun _ =>
  decodeWord21 24#6 6#3 _ g _ _ _ (decMB .vld128) major18 (fun _ h => by unfold decMajor18; rw [h]; rfl) (decMB_enc _ g o)
theorem vst8 (g : Grp) (o : OpM) : Statement (.vst8 g o) := fun _ =>
  decodeWord21 25#6 0#3 _ g _ _ _ (decM .vst8) major19 (fun _ h => by unfold decMajor19; rw [h]; rfl) (decM_enc _ g o)
theorem vst16 (g : Grp) (o : OpM) : Statement (.vst16 g o) := fun _ =>
  decodeWord21 25#6 1#3 _ g _ _ _ (decM .vst16) major19 (fun _ h => by unfold decMajor19; rw [h]; rfl) (decM_enc _ g o)
theorem vst32 (g : Grp) (o : OpM) : Statement (.vst32 g o) := fun _ =>
  decodeWord21 25#6 2#3 _ g _ _ _ (decM .vst32) major19 (fun _ h => by unfold decMajor19; rw [h]; rfl) (decM_enc _ g o)
theorem vst64 (g : Grp) (o : OpM) : Statement (.vst64 g o) := fun _ =>
  decodeWord21 25#6 3#3 _ g _ _ _ (decM .vst64) major19 (fun _ h => by unfold decMajor19; rw [h]; rfl) (decM_enc _ g o)
theorem vst128 (g : Grp) (o : OpM) : Statement (.vst128 g o) := fun _ =>
  decodeWord21 25#6 4#3 _ g _ _ _ (decM .vst128) major19 (fun _ h => by unfold decMajor19; rw [h]; rfl) (decM_enc _ g o)
theorem vldl (g : Grp) (o : OpML) : Statement (.vldl g o) := fun _ =>
  decodeWord21 26#6 0#3 _ g _ _ _ (decML .vldl) major1A (fun _ h => by unfold decMajor1A; rw [h]; rfl) (decML_enc _ g o)
theorem vldg (g : Grp) (o : OpM) : Statement (.vldg g o) := fun _ =>
  decodeWord21 26#6 1#3 _ g _ _ _ (decM .vldg) major1A (fun _ h => by unfold decMajor1A; rw [h]; rfl) (decM_enc _ g o)
theorem prefL1 (g : Grp) (o : OpMP) : Statement (.prefL1 g o) := fun _ =>
  decodeWord21 26#6 2#3 _ g _ _ _ (decMP .prefL1) major1A (fun _ h => by unfold decMajor1A; rw [h]; rfl) (decMP_enc _ g o)
theorem prefL2 (g : Grp) (o : OpMP) : Statement (.prefL2 g o) := fun _ =>
  decodeWord21 26#6 3#3 _ g _ _ _ (decMP .prefL2) major1A (fun _ h => by unfold decMajor1A; rw [h]; rfl) (decMP_enc _ g o)
theorem vlsp8 (g : Grp) (o : OpM) : Statement (.vlsp8 g o) := fun _ =>
  decodeWord21 27#6 0#3 _ g _ _ _ (decM .vlsp8) major1B (fun _ h => by unfold decMajor1B; rw [h]; rfl) (decM_enc _ g o)
theorem vlsp32 (g : Grp) (o : OpM) : Statement (.vlsp32 g o) := fun _ =>
  decodeWord21 27#6 1#3 _ g _ _ _ (decM .vlsp32) major1B (fun _ h => by unfold decMajor1B; rw [h]; rfl) (decM_enc _ g o)
theorem vlsp64 (g : Grp) (o : OpM) : Statement (.vlsp64 g o) := fun _ =>
  decodeWord21 27#6 2#3 _ g _ _ _ (decM .vlsp64) major1B (fun _ h => by unfold decMajor1B; rw [h]; rfl) (decM_enc _ g o)
theorem vlsp128 (g : Grp) (o : OpM) : Statement (.vlsp128 g o) := fun _ =>
  decodeWord21 27#6 3#3 _ g _ _ _ (decM .vlsp128) major1B (fun _ h => by unfold decMajor1B; rw [h]; rfl) (decM_enc _ g o)
theorem vssp8 (g : Grp) (o : OpM) : Statement (.vssp8 g o) := fun _ =>
  decodeWord21 27#6 4#3 _ g _ _ _ (decM .vssp8) major1B (fun _ h => by unfold decMajor1B; rw [h]; rfl) (decM_enc _ g o)
theorem vssp32 (g : Grp) (o : OpM) : Statement (.vssp32 g o) := fun _ =>
  decodeWord21 27#6 5#3 _ g _ _ _ (decM .vssp32) major1B (fun _ h => by unfold decMajor1B; rw [h]; rfl) (decM_enc _ g o)
theorem vssp64 (g : Grp) (o : OpM) : Statement (.vssp64 g o) := fun _ =>
  decodeWord21 27#6 6#3 _ g _ _ _ (decM .vssp64) major1B (fun _ h => by unfold decMajor1B; rw [h]; rfl) (decM_enc _ g o)
theorem vssp128 (g : Grp) (o : OpM) : Statement (.vssp128 g o) := fun _ =>
  decodeWord21 27#6 7#3 _ g _ _ _ (decM .vssp128) major1B (fun _ h => by unfold decMajor1B; rw [h]; rfl) (decM_enc _ g o)
theorem vamoAdd (g : Grp) (o : OpM) : Statement (.vamoAdd g o) := fun _ =>
  decodeWord21 28#6 0#3 _ g _ _ _ (decM .vamoAdd) major1C (fun _ h => by unfold decMajor1C; rw [h]; rfl) (decM_enc _ g o)
theorem vamoMin (g : Grp) (o : OpM) : Statement (.vamoMin g o) := fun _ =>
  decodeWord21 28#6 1#3 _ g _ _ _ (decM .vamoMin) major1C (fun _ h => by unfold decMajor1C; rw [h]; rfl) (decM_enc _ g o)
theorem vamoMax (g : Grp) (o : OpM) : Statement (.vamoMax g o) := fun _ =>
  decodeWord21 28#6 2#3 _ g _ _ _ (decM .vamoMax) major1C (fun _ h => by unfold decMajor1C; rw [h]; rfl) (decM_enc _ g o)
theorem vamoAnd (g : Grp) (o : OpM) : Statement (.vamoAnd g o) := fun _ =>
  decodeWord21 28#6 3#3 _ g _ _ _ (decM .vamoAnd) major1C (fun _ h => by unfold decMajor1C; rw [h]; rfl) (decM_enc _ g o)
theorem vamoOr (g : Grp) (o : OpM) : Statement (.vamoOr g o) := fun _ =>
  decodeWord21 28#6 4#3 _ g _ _ _ (decM .vamoOr) major1C (fun _ h => by unfold decMajor1C; rw [h]; rfl) (decM_enc _ g o)
theorem vamoXor (g : Grp) (o : OpM) : Statement (.vamoXor g o) := fun _ =>
  decodeWord21 28#6 5#3 _ g _ _ _ (decM .vamoXor) major1C (fun _ h => by unfold decMajor1C; rw [h]; rfl) (decM_enc _ g o)
theorem vamoXchg (g : Grp) (o : OpM) : Statement (.vamoXchg g o) := fun _ =>
  decodeWord21 28#6 6#3 _ g _ _ _ (decM .vamoXchg) major1C (fun _ h => by unfold decMajor1C; rw [h]; rfl) (decM_enc _ g o)
theorem vamoCas (g : Grp) (o : OpM) : Statement (.vamoCas g o) := fun _ =>
  decodeWord21 28#6 7#3 _ g _ _ _ (decM .vamoCas) major1C (fun _ h => by unfold decMajor1C; rw [h]; rfl) (decM_enc _ g o)
theorem vamoIncw (g : Grp) (o : OpM) : Statement (.vamoIncw g o) := fun _ =>
  decodeWord21 29#6 0#3 _ g _ _ _ (decM .vamoIncw) major1D (fun _ h => by unfold decMajor1D; rw [h]; rfl) (decM_enc _ g o)
theorem vamoFaddb (g : Grp) (o : OpM) : Statement (.vamoFaddb g o) := fun _ =>
  decodeWord21 29#6 1#3 _ g _ _ _ (decM .vamoFaddb) major1D (fun _ h => by unfold decMajor1D; rw [h]; rfl) (decM_enc _ g o)
theorem vamoFaddF32 (g : Grp) (o : OpM) : Statement (.vamoFaddF32 g o) := fun _ =>
  decodeWord21 29#6 2#3 _ g _ _ _ (decM .vamoFaddF32) major1D (fun _ h => by unfold decMajor1D; rw [h]; rfl) (decM_enc _ g o)
theorem vredAdd (g : Grp) (o : OpM) : Statement (.vredAdd g o) := fun _ =>
  decodeWord21 30#6 0#3 _ g _ _ _ (decM .vredAdd) major1E (fun _ h => by unfold decMajor1E; rw [h]; rfl) (decM_enc _ g o)
theorem vredAddF32 (g : Grp) (o : OpM) : Statement (.vredAddF32 g o) := fun _ =>
  decodeWord21 30#6 1#3 _ g _ _ _ (decM .vredAddF32) major1E (fun _ h => by unfold decMajor1E; rw [h]; rfl) (decM_enc _ g o)
theorem vredAddBf16x2 (g : Grp) (o : OpM) : Statement (.vredAddBf16x2 g o) := fun _ =>
  decodeWord21 30#6 2#3 _ g _ _ _ (decM .vredAddBf16x2) major1E (fun _ h => by unfold decMajor1E; rw [h]; rfl) (decM_enc _ g o)
theorem vredMin (g : Grp) (o : OpM) : Statement (.vredMin g o) := fun _ =>
  decodeWord21 30#6 3#3 _ g _ _ _ (decM .vredMin) major1E (fun _ h => by unfold decMajor1E; rw [h]; rfl) (decM_enc _ g o)
theorem vredMax (g : Grp) (o : OpM) : Statement (.vredMax g o) := fun _ =>
  decodeWord21 30#6 4#3 _ g _ _ _ (decM .vredMax) major1E (fun _ h => by unfold decMajor1E; rw [h]; rfl) (decM_enc _ g o)
theorem vredAnd (g : Grp) (o : OpM) : Statement (.vredAnd g o) := fun _ =>
  decodeWord21 30#6 5#3 _ g _ _ _ (decM .vredAnd) major1E (fun _ h => by unfold decMajor1E; rw [h]; rfl) (decM_enc _ g o)
theorem vredOr (g : Grp) (o : OpM) : Statement (.vredOr g o) := fun _ =>
  decodeWord21 30#6 6#3 _ g _ _ _ (decM .vredOr) major1E (fun _ h => by unfold decMajor1E; rw [h]; rfl) (decM_enc _ g o)
theorem vredXor (g : Grp) (o : OpM) : Statement (.vredXor g o) := fun _ =>
  decodeWord21 30#6 7#3 _ g _ _ _ (decM .vredXor) major1E (fun _ h => by unfold decMajor1E; rw [h]; rfl) (decM_enc _ g o)
theorem fence (g : Grp) (o : OpCFence) : Statement (.fence g o) := fun _ =>
  decodeWord18 31#6 0#6 _ g _ _ _ (decCFence .fence) major1F (fun _ h => by unfold decMajor1F; rw [h]; rfl) (decCFence_enc _ g o)
theorem trel (g : Grp) (o : OpCT) : Statement (.trel g o) := fun _ =>
  decodeWord18 31#6 1#6 _ g _ _ _ (decCT .trel) major1F (fun _ h => by unfold decMajor1F; rw [h]; rfl) (decCT_enc _ g o)
theorem tfeSet (g : Grp) (o : OpCT) : Statement (.tfeSet g o) := fun _ =>
  decodeWord18 31#6 2#6 _ g _ _ _ (decCT .tfeSet) major1F (fun _ h => by unfold decMajor1F; rw [h]; rfl) (decCT_enc _ g o)
theorem tfeClr (g : Grp) (o : OpCT) : Statement (.tfeClr g o) := fun _ =>
  decodeWord18 31#6 3#6 _ g _ _ _ (decCT .tfeClr) major1F (fun _ h => by unfold decMajor1F; rw [h]; rfl) (decCT_enc _ g o)
theorem tstat (g : Grp) (o : OpCDT) : Statement (.tstat g o) := fun _ =>
  decodeWord18 31#6 4#6 _ g _ _ _ (decCDT .tstat) major1F (fun _ h => by unfold decMajor1F; rw [h]; rfl) (decCDT_enc _ g o)
theorem cbdef (g : Grp) (o : OpCDT) : Statement (.cbdef g o) := fun _ =>
  decodeWord18 31#6 5#6 _ g _ _ _ (decCDT .cbdef) major1F (fun _ h => by unfold decMajor1F; rw [h]; rfl) (decCDT_enc _ g o)
theorem cbrel (g : Grp) (o : OpCDT) : Statement (.cbrel g o) := fun _ =>
  decodeWord18 31#6 6#6 _ g _ _ _ (decCDT .cbrel) major1F (fun _ h => by unfold decMajor1F; rw [h]; rfl) (decCDT_enc _ g o)
theorem mbat (g : Grp) (o : OpCD) : Statement (.mbat g o) := fun _ =>
  decodeWord18 31#6 7#6 _ g _ _ _ (decCD .mbat) major1F (fun _ h => by unfold decMajor1F; rw [h]; rfl) (decCD_enc _ g o)
theorem mmaF16 (g : Grp) (o : OpX) : Statement (.mmaF16 g o) := fun _ =>
  decodeWord20 32#6 0#4 _ g _ _ _ (decX .mmaF16) major20 (fun _ h => by unfold decMajor20; rw [h]; rfl) (decX_enc _ g o)
theorem mmaBf16 (g : Grp) (o : OpX) : Statement (.mmaBf16 g o) := fun _ =>
  decodeWord20 32#6 1#4 _ g _ _ _ (decX .mmaBf16) major20 (fun _ h => by unfold decMajor20; rw [h]; rfl) (decX_enc _ g o)
theorem mmaE4m3 (g : Grp) (o : OpX) : Statement (.mmaE4m3 g o) := fun _ =>
  decodeWord20 32#6 2#4 _ g _ _ _ (decX .mmaE4m3) major20 (fun _ h => by unfold decMajor20; rw [h]; rfl) (decX_enc _ g o)
theorem mmaE5m2 (g : Grp) (o : OpX) : Statement (.mmaE5m2 g o) := fun _ =>
  decodeWord20 32#6 3#4 _ g _ _ _ (decX .mmaE5m2) major20 (fun _ h => by unfold decMajor20; rw [h]; rfl) (decX_enc _ g o)
theorem mmaE2m1 (g : Grp) (o : OpX) : Statement (.mmaE2m1 g o) := fun _ =>
  decodeWord20 32#6 4#4 _ g _ _ _ (decX .mmaE2m1) major20 (fun _ h => by unfold decMajor20; rw [h]; rfl) (decX_enc _ g o)
theorem mmaI8 (g : Grp) (o : OpX) : Statement (.mmaI8 g o) := fun _ =>
  decodeWord20 32#6 5#4 _ g _ _ _ (decX .mmaI8) major20 (fun _ h => by unfold decMajor20; rw [h]; rfl) (decX_enc _ g o)
theorem mmaF32 (g : Grp) (o : OpX) : Statement (.mmaF32 g o) := fun _ =>
  decodeWord20 32#6 6#4 _ g _ _ _ (decX .mmaF32) major20 (fun _ h => by unfold decMajor20; rw [h]; rfl) (decX_enc _ g o)
theorem smmaF16 (g : Grp) (o : OpX) : Statement (.smmaF16 g o) := fun _ =>
  decodeWord20 33#6 0#4 _ g _ _ _ (decX .smmaF16) major21 (fun _ h => by unfold decMajor21; rw [h]; rfl) (decX_enc _ g o)
theorem smmaBf16 (g : Grp) (o : OpX) : Statement (.smmaBf16 g o) := fun _ =>
  decodeWord20 33#6 1#4 _ g _ _ _ (decX .smmaBf16) major21 (fun _ h => by unfold decMajor21; rw [h]; rfl) (decX_enc _ g o)
theorem smmaE4m3 (g : Grp) (o : OpX) : Statement (.smmaE4m3 g o) := fun _ =>
  decodeWord20 33#6 2#4 _ g _ _ _ (decX .smmaE4m3) major21 (fun _ h => by unfold decMajor21; rw [h]; rfl) (decX_enc _ g o)
theorem smmaI8 (g : Grp) (o : OpX) : Statement (.smmaI8 g o) := fun _ =>
  decodeWord20 33#6 3#4 _ g _ _ _ (decX .smmaI8) major21 (fun _ h => by unfold decMajor21; rw [h]; rfl) (decX_enc _ g o)
theorem mld (g : Grp) (o : OpCGA) : Statement (.mld g o) := fun _ =>
  decodeWord18 34#6 0#6 _ g _ _ _ (decCGA .mld) major22 (fun _ h => by unfold decMajor22; rw [h]; rfl) (decCGA_enc _ g o)
theorem mldt (g : Grp) (o : OpCGA) : Statement (.mldt g o) := fun _ =>
  decodeWord18 34#6 1#6 _ g _ _ _ (decCGA .mldt) major22 (fun _ h => by unfold decMajor22; rw [h]; rfl) (decCGA_enc _ g o)
theorem mrd (g : Grp) (o : OpCVK) : Statement (.mrd g o) := fun _ =>
  decodeWord18 34#6 2#6 _ g _ _ _ (decCVK .mrd) major22 (fun _ h => by unfold decMajor22; rw [h]; rfl) (decCVK_enc _ g o)
theorem mwr (g : Grp) (o : OpCVK) : Statement (.mwr g o) := fun _ =>
  decodeWord18 34#6 3#6 _ g _ _ _ (decCVK .mwr) major22 (fun _ h => by unfold decMajor22; rw [h]; rfl) (decCVK_enc _ g o)
theorem mzero (g : Grp) (o : OpCK) : Statement (.mzero g o) := fun _ =>
  decodeWord18 34#6 4#6 _ g _ _ _ (decCK .mzero) major22 (fun _ h => by unfold decMajor22; rw [h]; rfl) (decCK_enc _ g o)
theorem cpy (g : Grp) (o : OpCA) : Statement (.cpy g o) := fun _ =>
  decodeWord18 36#6 0#6 _ g _ _ _ (decCA .cpy) major24 (fun _ h => by unfold decMajor24; rw [h]; rfl) (decCA_enc _ g o)
theorem cpyg (g : Grp) (o : OpCA) : Statement (.cpyg g o) := fun _ =>
  decodeWord18 36#6 1#6 _ g _ _ _ (decCA .cpyg) major24 (fun _ h => by unfold decMajor24; rw [h]; rfl) (decCA_enc _ g o)
theorem cpyst (g : Grp) (o : OpCA) : Statement (.cpyst g o) := fun _ =>
  decodeWord18 36#6 2#6 _ g _ _ _ (decCA .cpyst) major24 (fun _ h => by unfold decMajor24; rw [h]; rfl) (decCA_enc _ g o)
theorem sort (g : Grp) (o : OpCA) : Statement (.sort g o) := fun _ =>
  decodeWord18 37#6 0#6 _ g _ _ _ (decCA .sort) major25 (fun _ h => by unfold decMajor25; rw [h]; rfl) (decCA_enc _ g o)
theorem sortr (g : Grp) (o : OpCA) : Statement (.sortr g o) := fun _ =>
  decodeWord18 37#6 1#6 _ g _ _ _ (decCA .sortr) major25 (fun _ h => by unfold decMajor25; rw [h]; rfl) (decCA_enc _ g o)
theorem trace (g : Grp) (o : OpCNGK) : Statement (.trace g o) := fun _ =>
  decodeWord18 38#6 0#6 _ g _ _ _ (decCNGK .trace) major26 (fun _ h => by unfold decMajor26; rw [h]; rfl) (decCNGK_enc _ g o)
theorem rast (g : Grp) (o : OpCNA) : Statement (.rast g o) := fun _ =>
  decodeWord18 38#6 1#6 _ g _ _ _ (decCNA .rast) major26 (fun _ h => by unfold decMajor26; rw [h]; rfl) (decCNA_enc _ g o)
theorem callx (g : Grp) (o : OpCDAN) : Statement (.callx g o) := fun _ =>
  decodeWord18 38#6 2#6 _ g _ _ _ (decCDAN .callx) major26 (fun _ h => by unfold decMajor26; rw [h]; rfl) (decCDAN_enc _ g o)
theorem retx (g : Grp) (o : OpCAN) : Statement (.retx g o) := fun _ =>
  decodeWord18 38#6 3#6 _ g _ _ _ (decCAN .retx) major26 (fun _ h => by unfold decMajor26; rw [h]; rfl) (decCAN_enc _ g o)
theorem hitret (g : Grp) (o : OpCA) : Statement (.hitret g o) := fun _ =>
  decodeWord18 38#6 4#6 _ g _ _ _ (decCA .hitret) major26 (fun _ h => by unfold decMajor26; rw [h]; rfl) (decCA_enc _ g o)
theorem hgrid (g : Grp) (o : OpVH) : Statement (.hgrid g o) := fun _ =>
  decodeWord21 39#6 0#3 _ g _ _ _ (decVH .hgrid) major27 (fun _ h => by unfold decMajor27; rw [h]; rfl) (decVH_enc _ g o)
theorem hgrad (g : Grp) (o : OpVH) : Statement (.hgrad g o) := fun _ =>
  decodeWord21 39#6 1#3 _ g _ _ _ (decVH .hgrad) major27 (fun _ h => by unfold decMajor27; rw [h]; rfl) (decVH_enc _ g o)
theorem cmps (g : Grp) (o : OpVH) : Statement (.cmps g o) := fun _ =>
  decodeWord21 40#6 0#3 _ g _ _ _ (decVH .cmps) major28 (fun _ h => by unfold decMajor28; rw [h]; rfl) (decVH_enc _ g o)
theorem cmpsb (g : Grp) (o : OpVH) : Statement (.cmpsb g o) := fun _ =>
  decodeWord21 40#6 1#3 _ g _ _ _ (decVH .cmpsb) major28 (fun _ h => by unfold decMajor28; rw [h]; rfl) (decVH_enc _ g o)
theorem coll (g : Grp) (o : OpCA) : Statement (.coll g o) := fun _ =>
  decodeWord18 41#6 0#6 _ g _ _ _ (decCA .coll) major29 (fun _ h => by unfold decMajor29; rw [h]; rfl) (decCA_enc _ g o)
theorem hintNop : Statement .hintNop := fun _ => by decide +kernel
theorem hintYield (n : BitVec 8) : Statement (.hintYield n) := fun _ => by
  revert n; decide +kernel
theorem hintBoost (n : BitVec 8) : Statement (.hintBoost n) := fun _ => by
  revert n; decide +kernel
theorem hintSlot (b : Bool) : Statement (.hintSlot b) := fun _ => by
  revert b; decide +kernel
theorem yieldExpiry : ∀ a0 a1, Statement (.yieldExpiry a0 a1) := fun _ _ h => nomatch h
theorem boostExpiry : ∀ a0 a1, Statement (.boostExpiry a0 a1) := fun _ _ h => nomatch h
theorem loadResponse : ∀ a0 a1 a2, Statement (.loadResponse a0 a1 a2) := fun _ _ _ h => nomatch h
theorem stepDispatch : ∀ a0, Statement (.stepDispatch a0) := fun _ h => nomatch h
theorem watchPeriodicTest : ∀ a0, Statement (.watchPeriodicTest a0) := fun _ h => nomatch h
theorem quantumCommit : ∀ a0 a1, Statement (.quantumCommit a0 a1) := fun _ _ h => nomatch h
theorem crewPlacement : ∀ a0 a1, Statement (.crewPlacement a0 a1) := fun _ _ h => nomatch h
theorem crewRelease : ∀ a0 a1, Statement (.crewRelease a0 a1) := fun _ _ h => nomatch h
theorem spawnItemPlacement : ∀ a0 a1 a2, Statement (.spawnItemPlacement a0 a1 a2) := fun _ _ _ h => nomatch h
theorem regroupedGangIssue : ∀ a0 a1 a2 a3, Statement (.regroupedGangIssue a0 a1 a2 a3) := fun _ _ _ _ h => nomatch h
theorem regroupTimeout : ∀ a0 a1 a2 a3, Statement (.regroupTimeout a0 a1 a2 a3) := fun _ _ _ _ h => nomatch h
theorem slotAged : ∀ a0 a1, Statement (.slotAged a0 a1) := fun _ _ h => nomatch h
theorem matrixOperationStart : ∀ a0, Statement (.matrixOperationStart a0) := fun _ h => nomatch h
theorem matrixOperationCompletion : ∀ a0 a1, Statement (.matrixOperationCompletion a0 a1) := fun _ _ h => nomatch h
theorem preemptionPoint : ∀ a0 a1, Statement (.preemptionPoint a0 a1) := fun _ _ h => nomatch h
theorem copyCommandStart : ∀ a0 a1, Statement (.copyCommandStart a0 a1) := fun _ _ h => nomatch h
theorem stashOccupancyRetry : ∀ a0 a1, Statement (.stashOccupancyRetry a0 a1) := fun _ _ h => nomatch h
theorem copyCompletion : ∀ a0 a1, Statement (.copyCompletion a0 a1) := fun _ _ h => nomatch h
theorem cpystCompletion : ∀ a0 a1, Statement (.cpystCompletion a0 a1) := fun _ _ h => nomatch h
theorem sortCommandStart : ∀ a0, Statement (.sortCommandStart a0) := fun _ h => nomatch h
theorem sortCommandCompletion : ∀ a0, Statement (.sortCommandCompletion a0) := fun _ h => nomatch h
theorem traceCompletion : ∀ a0, Statement (.traceCompletion a0) := fun _ h => nomatch h
theorem rastCompletion : ∀ a0, Statement (.rastCompletion a0) := fun _ h => nomatch h
theorem collInstanceStart : ∀ a0 a1 a2 a3, Statement (.collInstanceStart a0 a1 a2 a3) := fun _ _ _ _ h => nomatch h
theorem collCompletion : ∀ a0 a1, Statement (.collCompletion a0 a1) := fun _ _ h => nomatch h
theorem collWithdrawal : ∀ a0 a1 a2, Statement (.collWithdrawal a0 a1 a2) := fun _ _ _ h => nomatch h
theorem collRouteLost : ∀ a0 a1, Statement (.collRouteLost a0 a1) := fun _ _ h => nomatch h
theorem launchDoorbell : ∀ a0 a1 a2 a3, Statement (.launchDoorbell a0 a1 a2 a3) := fun _ _ _ _ h => nomatch h
theorem launchRecordAcceptance : ∀ a0 a1, Statement (.launchRecordAcceptance a0 a1) := fun _ _ h => nomatch h
theorem launchCompletion : ∀ a0, Statement (.launchCompletion a0) := fun _ h => nomatch h
theorem preemptionRequest : ∀ a0 a1, Statement (.preemptionRequest a0 a1) := fun _ _ h => nomatch h
theorem preemptionResume : ∀ a0 a1, Statement (.preemptionResume a0 a1) := fun _ _ h => nomatch h
theorem discardGroupJudgement : ∀ a0 a1, Statement (.discardGroupJudgement a0 a1) := fun _ _ h => nomatch h
theorem preemptionCompletion : ∀ a0 a1, Statement (.preemptionCompletion a0 a1) := fun _ _ h => nomatch h
theorem conflictWindowEnd : ∀ a0 a1, Statement (.conflictWindowEnd a0 a1) := fun _ _ h => nomatch h
theorem remapGo : ∀ a0 a1, Statement (.remapGo a0 a1) := fun _ _ h => nomatch h
theorem remapStart : ∀ a0, Statement (.remapStart a0) := fun _ h => nomatch h
theorem rowSetMove : ∀ a0, Statement (.rowSetMove a0) := fun _ h => nomatch h
theorem gatherPacket : ∀ a0 a1 a2, Statement (.gatherPacket a0 a1 a2) := fun _ _ _ h => nomatch h
theorem homeAtomicOperation : ∀ a0, Statement (.homeAtomicOperation a0) := fun _ h => nomatch h
theorem eccCounterClear : ∀ a0, Statement (.eccCounterClear a0) := fun _ h => nomatch h
theorem eccAddressValidClear : ∀ a0, Statement (.eccAddressValidClear a0) := fun _ h => nomatch h
theorem scrubRead : ∀ a0, Statement (.scrubRead a0) := fun _ h => nomatch h
theorem scrubDeadlineMissed : ∀ a0, Statement (.scrubDeadlineMissed a0) := fun _ h => nomatch h
theorem accessCountNotification : ∀ a0 a1, Statement (.accessCountNotification a0 a1) := fun _ _ h => nomatch h
theorem accessCounterClear : ∀ a0, Statement (.accessCounterClear a0) := fun _ h => nomatch h
theorem pageWalk : ∀ a0 a1 a2 a3, Statement (.pageWalk a0 a1 a2 a3) := fun _ _ _ _ h => nomatch h
theorem atsTranslationCompletion : ∀ a0 a1 a2 a3 a4, Statement (.atsTranslationCompletion a0 a1 a2 a3 a4) := fun _ _ _ _ _ h => nomatch h
theorem pageRequestResponse : ∀ a0 a1 a2, Statement (.pageRequestResponse a0 a1 a2) := fun _ _ _ h => nomatch h
theorem invalidationRequest : ∀ a0 a1 a2 a3, Statement (.invalidationRequest a0 a1 a2 a3) := fun _ _ _ _ h => nomatch h
theorem faultHoldWrite : ∀ a0 a1, Statement (.faultHoldWrite a0 a1) := fun _ _ h => nomatch h
theorem fltRespReplay : ∀ a0 a1, Statement (.fltRespReplay a0 a1) := fun _ _ h => nomatch h
theorem fltRespRequeue : ∀ a0 a1, Statement (.fltRespRequeue a0 a1) := fun _ _ h => nomatch h
theorem fltRespAbort : ∀ a0 a1, Statement (.fltRespAbort a0 a1) := fun _ _ h => nomatch h
theorem unfortFaultHandling : ∀ a0, Statement (.unfortFaultHandling a0) := fun _ h => nomatch h
theorem shootdown : ∀ a0 a1, Statement (.shootdown a0 a1) := fun _ _ h => nomatch h
theorem shootdownCompletion : ∀ a0, Statement (.shootdownCompletion a0) := fun _ h => nomatch h
theorem squallAssertion : ∀ a0, Statement (.squallAssertion a0) := fun _ h => nomatch h
theorem unitStop : ∀ a0 a1 a2 a3 a4, Statement (.unitStop a0 a1 a2 a3 a4) := fun _ _ _ _ _ h => nomatch h
theorem teardown : ∀ a0, Statement (.teardown a0) := fun _ h => nomatch h
theorem squallRelease : ∀ a0, Statement (.squallRelease a0) := fun _ h => nomatch h
theorem kill : ∀ a0 a1, Statement (.kill a0 a1) := fun _ _ h => nomatch h
theorem torn : ∀ a0, Statement (.torn a0) := fun _ h => nomatch h
theorem peerRequest : ∀ a0, Statement (.peerRequest a0) := fun _ h => nomatch h
theorem peerRefusal : ∀ a0 a1, Statement (.peerRefusal a0 a1) := fun _ _ h => nomatch h
theorem flitReception : ∀ a0 a1, Statement (.flitReception a0 a1) := fun _ _ h => nomatch h
theorem flitReplay : ∀ a0 a1, Statement (.flitReplay a0 a1) := fun _ _ h => nomatch h
theorem portRetrain : ∀ a0 a1 a2, Statement (.portRetrain a0 a1 a2) := fun _ _ _ h => nomatch h
theorem portDown : ∀ a0, Statement (.portDown a0) := fun _ h => nomatch h
theorem rayDelegationRecord : ∀ a0 a1 a2 a3, Statement (.rayDelegationRecord a0 a1 a2 a3) := fun _ _ _ _ h => nomatch h
theorem rayAnswerRecord : ∀ a0 a1 a2, Statement (.rayAnswerRecord a0 a1 a2) := fun _ _ _ h => nomatch h
theorem rayCandidateRecord : ∀ a0 a1 a2, Statement (.rayCandidateRecord a0 a1 a2) := fun _ _ _ h => nomatch h
theorem candidateAnswerRecord : ∀ a0 a1, Statement (.candidateAnswerRecord a0 a1) := fun _ _ h => nomatch h
theorem sceneInvalidation : ∀ a0, Statement (.sceneInvalidation a0) := fun _ h => nomatch h
theorem sceneInvalidationAck : ∀ a0 a1, Statement (.sceneInvalidationAck a0 a1) := fun _ _ h => nomatch h
theorem hostBar2Read : ∀ a0 a1 a2, Statement (.hostBar2Read a0 a1 a2) := fun _ _ _ h => nomatch h
theorem hostBar2Write : ∀ a0 a1 a2, Statement (.hostBar2Write a0 a1 a2) := fun _ _ _ h => nomatch h
theorem atomicopRequest : ∀ a0 a1, Statement (.atomicopRequest a0 a1) := fun _ _ h => nomatch h
theorem fundamentalReset : Statement .fundamentalReset := fun h => nomatch h
theorem functionLevelReset : ∀ a0, Statement (.functionLevelReset a0) := fun _ h => nomatch h
theorem prepmap : ∀ a0, Statement (.prepmap a0) := fun _ h => nomatch h
theorem unmap : ∀ a0, Statement (.unmap a0) := fun _ h => nomatch h
theorem attest : ∀ a0, Statement (.attest a0) := fun _ h => nomatch h
theorem cert : ∀ a0, Statement (.cert a0) := fun _ h => nomatch h
theorem recover : ∀ a0 a1, Statement (.recover a0 a1) := fun _ _ h => nomatch h
theorem partcfg : ∀ a0, Statement (.partcfg a0) := fun _ h => nomatch h
theorem partget : ∀ a0, Statement (.partget a0) := fun _ h => nomatch h
theorem mailboxAck : ∀ a0, Statement (.mailboxAck a0) := fun _ h => nomatch h
theorem healthSample : ∀ a0, Statement (.healthSample a0) := fun _ h => nomatch h
theorem vmonFlagClear : ∀ a0 a1 a2, Statement (.vmonFlagClear a0 a1 a2) := fun _ _ _ h => nomatch h
theorem clockThrottle : ∀ a0, Statement (.clockThrottle a0) := fun _ h => nomatch h
theorem clockRestore : Statement .clockRestore := fun h => nomatch h
theorem thermalTrip : Statement .thermalTrip := fun h => nomatch h
theorem registerWrite : ∀ a0 a1 a2, Statement (.registerWrite a0 a1 a2) := fun _ _ _ h => nomatch h
theorem illegalOp : Statement .illegalOp := fun h => nomatch h
theorem resultLanding : ∀ a0 a1, Statement (.resultLanding a0 a1) := fun _ _ h => nomatch h
theorem peerAcknowledgement : ∀ a0 a1 a2, Statement (.peerAcknowledgement a0 a1 a2) := fun _ _ _ h => nomatch h
theorem flushingReadCompletion : ∀ a0 a1, Statement (.flushingReadCompletion a0 a1) := fun _ _ h => nomatch h
theorem bootPhaseCompletion : ∀ a0 a1, Statement (.bootPhaseCompletion a0 a1) := fun _ _ h => nomatch h

end Sys2Proof.Laws.RoundTrip
end

