-- ==== Sys2Proof/Laws/Vector.lean ====
section
/-! SUPPORT. Elements of packed words, and the results of the vector forms (R79, R129 to R135). -/

namespace Sys2Proof.Machine

theorem packElems_bounds (w m : Nat) (f : Nat → Nat) :
    let x := (List.range m).foldl (fun acc k => acc + f k % 2 ^ w * 2 ^ (w * k)) 0
    x < 2 ^ (w * m) ∧ ∀ k, k < m → elem w x k = f k % 2 ^ w := by
  induction m with
  | zero => simp
  | succ m ih =>
    obtain ⟨hlt, hel⟩ := ih
    simp only [List.range_succ, List.foldl_append, List.foldl_cons, List.foldl_nil]
    generalize (List.range m).foldl (fun acc k => acc + f k % 2 ^ w * 2 ^ (w * k)) 0 = x at hlt hel
    have hb : f m % 2 ^ w < 2 ^ w := Nat.mod_lt _ (Nat.two_pow_pos w)
    refine ⟨?_, fun k hk => ?_⟩
    · have h1 : w * (m + 1) = w * m + w := by ring
      have h2 : f m % 2 ^ w + 1 ≤ 2 ^ w := hb
      calc x + f m % 2 ^ w * 2 ^ (w * m) < 2 ^ (w * m) + f m % 2 ^ w * 2 ^ (w * m) := by omega
        _ = (f m % 2 ^ w + 1) * 2 ^ (w * m) := by ring
        _ ≤ 2 ^ w * 2 ^ (w * m) := Nat.mul_le_mul_right _ h2
        _ = 2 ^ (w * (m + 1)) := by rw [h1, Nat.pow_add]; ring
    · by_cases hkm : k < m
      · rw [← hel k hkm]
        unfold elem
        obtain ⟨j, rfl⟩ : ∃ j, m = k + (j + 1) := ⟨m - k - 1, by omega⟩
        have h1 : f (k + (j + 1)) % 2 ^ w * 2 ^ (w * (k + (j + 1))) = 2 ^ (w * k) * (f (k + (j + 1)) % 2 ^ w * 2 ^ (w * j) * 2 ^ w) := by
          rw [show w * (k + (j + 1)) = w * k + w * j + w by ring, Nat.pow_add, Nat.pow_add]; ring
        rw [h1, Nat.add_mul_div_left _ _ (Nat.two_pow_pos _), Nat.add_mul_mod_self_right]
      · have : k = m := by omega
        subst this
        unfold elem
        rw [Nat.mul_comm (f k % 2 ^ w), Nat.add_mul_div_left _ _ (Nat.two_pow_pos _), Nat.div_eq_of_lt hlt, Nat.zero_add, Nat.mod_mod]

/-- An element of packed elements. -/
theorem elem_packElems (w total : Nat) (f : Nat → Nat) (k : Nat) (hk : k < total / w) : elem w (packElems w total f) k = f k % 2 ^ w :=
  (packElems_bounds w (total / w) f).2 k hk

theorem packElems_lt (w total : Nat) (f : Nat → Nat) : packElems w total f < 2 ^ total := by
  have h := (packElems_bounds w (total / w) f).1
  have h2 : w * (total / w) ≤ total := Nat.mul_div_le total w
  exact Nat.lt_of_lt_of_le h (Nat.pow_le_pow_right (by omega) h2)

/-- The words of a lane's result put together again. -/
theorem outWords_join {n x : Nat} (hn : n = 1 ∨ n = 2) (hx : x < 2 ^ (32 * n)) :
    (tget 0 (outWords n x) 0).toNat + (if n = 2 then (tget 0 (outWords n x) 1).toNat * 2 ^ 32 else 0) = x := by
  rcases hn with rfl | rfl
  · simp [outWords, tget, w32]; omega
  · simp [outWords, tget, w32, List.range_succ]; omega

theorem typeRegs_or (code : Nat) : typeRegs code = 1 ∨ typeRegs code = 2 := by unfold typeRegs; split <;> simp

theorem groupsReady_vecUses {s : State} {c : Cur} {g : Gang} {grp : Grp} {groups : List (Nat × Nat)} {check : Bool}
    (h : (g.slot c.slotB).haz = []) (hg : g.groupsReady groups = true) :
    firstFault check (begun c g) (issueOf s c g grp []) (vecUses grp groups) = none := by
  have hg' : ∀ x ∈ groups, x.1 % x.2 = 0 ∧ ∀ r ∈ regGroup x.1 x.2, g.usable r = true := by
    intro x hx
    have := List.all_eq_true.mp hg x hx
    simpa using this
  apply firstFault_none <;> try rfl
  · rw [List.all_eq_true]
    intro r hr
    simp only [vecUses, Uses.vec, Uses.of, List.mem_append, List.mem_flatMap, List.mem_singleton] at hr
    have hu : g.usable r = true := by
      rcases hr with ⟨x, hx, hr⟩ | rfl
      · exact (hg' x hx).2 r hr
      · rfl
    simpa [Gang.usable] using hu
  · show ((begun c g).slot c.slotB).haz = []
    simp [h]
  · simp only [vecUses, List.any_eq_false]
    intro x hx
    simp [(hg' x hx).1]

/-- The frame of R129, for a result that does not depend on what the unit takes of its bench. -/
theorem vecOp_result {s : State} {c : Cur} {g : Gang} (h : Clear s c g) {grp : Grp} {latency d n : Nat} {srcs : List (Nat × Nat)}
    {f : State → Gang → Issue → Nat → List W32} (hg : g.groupsReady ((d, n) :: srcs) = true)
    (hu : ∀ regs, f (s.setGang c.gang (begun c g)) (begun c g) (issueOf s c g grp regs) =
      f (s.setGang c.gang (begun c g)) (begun c g) (issueOf s c g grp [])) :
    VectorResult s c g grp latency d n
      (fun j l => tget 0 (f (s.setGang c.gang (begun c g)) (begun c g) (issueOf s c g grp []) l) j) (vecOp grp latency d n srcs f s) := by
  unfold vecOp
  exact vectorResult_fixed h (groupsReady_vecUses h.haz hg) (fun regs => by simp only [hu regs])

/-- A result given by its elements. -/
theorem elemResult_of {s : State} {c : Cur} {g : Gang} {grp : Grp} {latency d n w : Nat} {f : Nat → Nat → Nat} {out : Outcome}
    (hn : n = 1 ∨ n = 2)
    (h : VectorResult s c g grp latency d n (fun j l => tget 0 (outWords n (packElems w (32 * n) (f l))) j) out) :
    ElemResult s c g grp latency d n w f out := by
  refine ⟨_, h, fun l k hk => ?_⟩
  rw [outWords_join hn (packElems_lt _ _ _), elem_packElems _ _ _ _ hk]

@[simp] theorem operand_begun (c : Cur) (g : Gang) (r n l : Nat) : (begun c g).operand r n l = g.operand r n l := by
  simp [Gang.operand]

end Sys2Proof.Machine
end

