-- ==== Sys2Proof/Tests/Slice0.lean ====
section
/-! SUPPORT. Tests: ill-formed instructions that each check of `Instr.wf` refuses, words that decode and words that do not, one
step each of instructions whose results the spec's tables or a calculation by hand give, and witnesses: states and operands
that meet the hypotheses of the statements. -/

set_option Elab.async false

namespace Sys2Proof.Tests

open Sys2Proof Sys2Proof.Machine

/-! Ill-formed instructions. -/

/-- A group with a prefix. -/
def withPfx (p : Pfx) : Grp := { Grp.alone 0 with pfx := some p }
/-- A group with `limm` words. -/
def withLimms (l : List (BitVec 24)) : Grp := { Grp.alone 0 with limms := l }
/-- A group with a modifier hint. -/
def withModifier (m : Modifier) : Grp := { Grp.alone 0 with modifier := some m }

/-- R98: a scalar instruction takes no prefix, no `limm` and no modifier. -/
theorem test_wf_plain : (Instr.sadd (withPfx Pfx.default) { d := 1, a := 2, b := 3 }).wf = false ∧
    (Instr.sadd (withLimms [0]) { d := 1, a := 2, b := 3 }).wf = false ∧
    (Instr.sadd (withModifier { policy := 0, nt := true, line := 0 }) { d := 1, a := 2, b := 3 }).wf = false ∧
    (Instr.sadd (Grp.alone 0) { d := 1, a := 2, b := 3 }).wf = true := by decide

/-- R59: an immediate takes two `limm` words and not three, and no prefix. -/
theorem test_wf_limms : (Instr.sli (withLimms [1, 2, 3]) { d := 1, imm := 0 }).wf = false ∧
    (Instr.sli (withPfx Pfx.default) { d := 1, imm := 0 }).wf = false ∧ (Instr.sli (withLimms [1, 2]) { d := 1, imm := 0 }).wf = true := by decide

/-- R107: an instruction without an immediate takes `limm` words of payload 0 only. -/
theorem test_wf_limm_zero : (Instr.ret (withLimms [1]) { a := 61 }).wf = false ∧ (Instr.ret (withLimms [0]) { a := 61 }).wf = true := by decide

/-- R60: POLICY 3 is reserved, and a scalar access takes no prefix. -/
theorem test_wf_policy : (Instr.sld8 (withModifier { policy := 3, nt := false, line := 0 }) { d := 1, a := 2, b := 3 }).wf = false ∧
    (Instr.sld8 (withPfx Pfx.default) { d := 1, a := 2, b := 3 }).wf = false ∧
    (Instr.sld8 (withModifier { policy := 2, nt := false, line := 0 }) { d := 1, a := 2, b := 3 }).wf = true := by decide

/-- R54, R133: each field of a prefix that an instruction does not accept. -/
theorem test_wf_prefix :
    (Instr.vadd (withPfx { Pfx.default with typ := 7 }) { d := 1, a := 2, b := 3 }).wf = false ∧
    (Instr.vadd (withPfx { Pfx.default with rnd := 1 }) { d := 1, a := 2, b := 3 }).wf = false ∧
    (Instr.vadd (withPfx { Pfx.default with op4 := 1 }) { d := 1, a := 2, b := 3 }).wf = false ∧
    (Instr.vand (withPfx { Pfx.default with sat := true }) { d := 1, a := 2, b := 3 }).wf = false ∧
    (Instr.vand (withPfx { Pfx.default with nega := true }) { d := 1, a := 2, b := 3 }).wf = false ∧
    (Instr.vand (withPfx { Pfx.default with negb := true }) { d := 1, a := 2, b := 3 }).wf = false ∧
    (Instr.vand (withPfx { Pfx.default with abs := true }) { d := 1, a := 2, b := 3 }).wf = false ∧
    (Instr.vext (withPfx { Pfx.default with mask := 1 }) { d := 1, a := 2, n := 3 }).wf = false ∧
    (Instr.vext (withPfx { Pfx.default with zero := true }) { d := 1, a := 2, n := 3 }).wf = false ∧
    (Instr.vfadd (withPfx { Pfx.default with rnd := 6 }) { d := 1, a := 2, b := 3 }).wf = false ∧
    (Instr.vfadd (withPfx { Pfx.default with rnd := 5, typ := 9, sat := true, abs := true }) { d := 1, a := 2, b := 3 }).wf = true := by decide

/-- R54, R140, R157: a vector instruction takes no `limm` and no modifier, one with an immediate the first, an access the second. -/
theorem test_wf_vector_words : (Instr.vadd (withLimms [0]) { d := 1, a := 2, b := 3 }).wf = false ∧
    (Instr.vadd (withModifier { policy := 0, nt := false, line := 0 }) { d := 1, a := 2, b := 3 }).wf = false ∧
    (Instr.vaddi (withLimms [1, 2, 3]) { d := 1, a := 2, imm := 3 }).wf = false ∧
    (Instr.vaddi (withModifier { policy := 0, nt := false, line := 0 }) { d := 1, a := 2, imm := 3 }).wf = false ∧
    (Instr.vst32 (withLimms [0]) { ds := 1, sb := 2, vo := 3 }).wf = false ∧
    (Instr.vst32 (withPfx { Pfx.default with zero := true }) { ds := 1, sb := 2, vo := 3 }).wf = false ∧
    (Instr.vst32 (withModifier { policy := 3, nt := false, line := 0 }) { ds := 1, sb := 2, vo := 3 }).wf = false := by decide

/-- R113, R118, R119, R120: operand limits of `step`, `spawn`, `launch`, `srd` and `swr`. -/
theorem test_wf_tasks : (Instr.step (Grp.alone 0) { a := 20, n := 5 }).wf = false ∧ (Instr.step (Grp.alone 0) { a := 58, n := 4 }).wf = false ∧
    (Instr.step (Grp.alone 0) { a := 57, n := 4 }).wf = true ∧
    (Instr.spawn (Grp.alone 0) { a := 0, n := 9 }).wf = false ∧ (Instr.spawn (Grp.alone 0) { a := 54, n := 8 }).wf = false ∧
    (Instr.launch (Grp.alone 0) { a := 48 }).wf = false ∧ (Instr.srd (Grp.alone 0) { d := 1, n := 18 }).wf = false ∧
    (Instr.swr (Grp.alone 0) { a := 1, n := 18 }).wf = false ∧ (Instr.swr (Grp.alone 0) { a := 1, n := 17 }).wf = true := by decide

/-- R145: source types and selectors of the conversions, and the prefix types they need. -/
theorem test_wf_conversions : (Instr.vcvtF (Grp.alone 0) { d := 1, a := 2, sel := 0, ty := 0x16 }).wf = false ∧
    (Instr.vcvtF (Grp.alone 0) { d := 1, a := 2, sel := 2, ty := 0x10 }).wf = false ∧
    (Instr.vcvtF (Grp.alone 0) { d := 1, a := 2, sel := 1, ty := 0x10 }).wf = true ∧
    (Instr.vcvtI (withPfx { Pfx.default with sat := true }) { d := 1, a := 2, sel := 0, ty := 0x12 }).wf = false ∧
    (Instr.vcvtPk16 (Grp.alone 0) { d := 1, a := 2, b := 3 }).wf = false ∧ (Instr.vcvtPk8 (Grp.alone 0) { d := 1, a := 2, b := 3 }).wf = false ∧
    (Instr.vcvtUnpk (Grp.alone 0) { d := 1, a := 2, sel := 0, ty := 0x14 }).wf = false ∧
    (Instr.vcvtUnpk (withPfx { Pfx.default with typ := 8 }) { d := 1, a := 2, sel := 2, ty := 0x14 }).wf = false := by decide

/-- R153, R154: OP of a reduction is at most 5, and the bitwise ones take no float type. -/
theorem test_wf_redux : (Instr.vredux (Grp.alone 0) { d := 1, a := 2, op := 6 }).wf = false ∧
    (Instr.vredux (withPfx { Pfx.default with typ := 7 }) { d := 1, a := 2, op := 3 }).wf = false ∧
    (Instr.vredux (withPfx { Pfx.default with typ := 7 }) { d := 1, a := 2, op := 2 }).wf = true := by decide

/-- R173 to R178: fence kinds and scopes, and tile codes of a kind that the instruction does not take. -/
theorem test_wf_sync : (Instr.fence (Grp.alone 0) { kind := 3, scope := 0 }).wf = false ∧ (Instr.fence (Grp.alone 0) { kind := 0, scope := 6 }).wf = false ∧
    (Instr.trel (Grp.alone 0) { t := 0x600 }).wf = false ∧ (Instr.trel (Grp.alone 0) { t := 0x105 }).wf = false ∧
    (Instr.trel (Grp.alone 0) { t := 0xA00 }).wf = false ∧ (Instr.tfeSet (Grp.alone 0) { t := 0x200 }).wf = false ∧
    (Instr.tfeClr (Grp.alone 0) { t := 0x400 }).wf = false ∧ (Instr.tstat (Grp.alone 0) { d := 1, t := 0x810 }).wf = false ∧
    (Instr.cbdef (Grp.alone 0) { d := 1, t := 0x000 }).wf = false ∧ (Instr.cbrel (Grp.alone 0) { d := 1, t := 0x800 }).wf = false ∧
    (Instr.trel (Grp.alone 0) { t := 0xE3F }).wf = true ∧ (Instr.trel (Grp.alone 0) { t := 0xE40 }).wf = false := by decide

/-- R56: a matrix operation's prefix holds OP4 alone, and only with EXT, where OP4[6] is 0. -/
theorem test_wf_matrix :
    (Instr.mmaF16 (Grp.alone 0) { na := false, nb := false, zc := false, c := 3, va := 2, vb := 3, ext := true }).wf = false ∧
    (Instr.mmaF16 (withPfx { Pfx.default with op4 := 1 }) { na := false, nb := false, zc := false, c := 3, va := 2, vb := 3, ext := false }).wf = false ∧
    (Instr.mmaF16 (withPfx { Pfx.default with op4 := 64 }) { na := false, nb := false, zc := false, c := 3, va := 2, vb := 3, ext := true }).wf = false ∧
    (Instr.mmaF16 (withPfx { Pfx.default with op4 := 1, sat := true }) { na := false, nb := false, zc := false, c := 3, va := 2, vb := 3, ext := true }).wf = false ∧
    (Instr.mmaF16 (withPfx { Pfx.default with op4 := 1 }) { na := false, nb := false, zc := false, c := 3, va := 2, vb := 3, ext := true }).wf = true := by decide

/-- R210, R228, R243: a record's first register, and the payloads of `callx` and `retx`. -/
theorem test_wf_engines : (Instr.cpy (Grp.alone 0) { a := 56 }).wf = false ∧ (Instr.sort (Grp.alone 0) { a := 56 }).wf = false ∧
    (Instr.coll (Grp.alone 0) { a := 56 }).wf = false ∧ (Instr.rast (Grp.alone 0) { n := 1, a := 56 }).wf = false ∧
    (Instr.hgrid (Grp.alone 0) { d := 1, a := 2, b := 56 }).wf = false ∧ (Instr.callx (Grp.alone 0) { d := 1, a := 2, n := 17 }).wf = false ∧
    (Instr.retx (Grp.alone 0) { a := 2, n := 17 }).wf = false ∧ (Instr.cpy (Grp.alone 0) { a := 48 }).wf = true := by decide

/-! Decoding. -/

/-! Words written out from spec/opcode_table.json: each row's `match`, with operand values of mixed bits in its fields, decodes
to the row's instruction with those operands (R47, R69). One theorem for each major opcode. -/

/-- The group whose prefix has the type code `t` and nothing else (R53). -/
def withType (t : BitVec 4) (stall : BitVec 2) : Grp := { Grp.alone stall with pfx := some { Pfx.default with typ := t } }

/-- The decoder reads each list of words as its instruction, with no word left. -/
noncomputable def decodesAll (l : List (List W32 × Instr)) : Bool :=
  l.all (fun x => match decode x.1 with | .ok (j, []) => decide (j = x.2) | _ => false)

theorem test_decode_major_01 : decodesAll [
    ([0x0402B5B5], .sadd (Grp.alone 0) { d := 43, a := 22, b := 53 }),
    ([0x0506B5B5], .ssub (Grp.alone 1) { d := 43, a := 22, b := 53 }),
    ([0x060AB5B5], .smul (Grp.alone 2) { d := 43, a := 22, b := 53 }),
    ([0x070EB5B5], .smulhI (Grp.alone 3) { d := 43, a := 22, b := 53 }),
    ([0x0412B5B5], .smulhN (Grp.alone 0) { d := 43, a := 22, b := 53 }),
    ([0x0516B5B5], .sdivI (Grp.alone 1) { d := 43, a := 22, b := 53 }),
    ([0x061AB5B5], .sdivN (Grp.alone 2) { d := 43, a := 22, b := 53 }),
    ([0x071EB5B5], .sremI (Grp.alone 3) { d := 43, a := 22, b := 53 }),
    ([0x0422B5B5], .sremN (Grp.alone 0) { d := 43, a := 22, b := 53 }),
    ([0x0526B5B5], .sand (Grp.alone 1) { d := 43, a := 22, b := 53 }),
    ([0x062AB5B5], .sor (Grp.alone 2) { d := 43, a := 22, b := 53 }),
    ([0x072EB5B5], .sxor (Grp.alone 3) { d := 43, a := 22, b := 53 }),
    ([0x0432B5B5], .sandn (Grp.alone 0) { d := 43, a := 22, b := 53 }),
    ([0x0536B5B5], .sshl (Grp.alone 1) { d := 43, a := 22, b := 53 }),
    ([0x063AB5B5], .sshr (Grp.alone 2) { d := 43, a := 22, b := 53 }),
    ([0x073EB5B5], .ssar (Grp.alone 3) { d := 43, a := 22, b := 53 }),
    ([0x0442B5B5], .sminI (Grp.alone 0) { d := 43, a := 22, b := 53 }),
    ([0x0546B5B5], .sminN (Grp.alone 1) { d := 43, a := 22, b := 53 }),
    ([0x064AB5B5], .smaxI (Grp.alone 2) { d := 43, a := 22, b := 53 }),
    ([0x074EB5B5], .smaxN (Grp.alone 3) { d := 43, a := 22, b := 53 }),
    ([0x0452B5B5], .scmpEq (Grp.alone 0) { d := 43, a := 22, b := 53 }),
    ([0x0556B5B5], .scmpNe (Grp.alone 1) { d := 43, a := 22, b := 53 }),
    ([0x065AB5B5], .scmpLtI (Grp.alone 2) { d := 43, a := 22, b := 53 }),
    ([0x075EB5B5], .scmpLtN (Grp.alone 3) { d := 43, a := 22, b := 53 }),
    ([0x0462B5B5], .scmpLeI (Grp.alone 0) { d := 43, a := 22, b := 53 }),
    ([0x0566B5B5], .scmpLeN (Grp.alone 1) { d := 43, a := 22, b := 53 }),
    ([0x066AB5B5], .ssel (Grp.alone 2) { d := 43, a := 22, b := 53 }),
    ([0x076EB580], .smov (Grp.alone 3) { d := 43, a := 22 }),
    ([0x0472B580], .sclz (Grp.alone 0) { d := 43, a := 22 }),
    ([0x0576B580], .sctz (Grp.alone 1) { d := 43, a := 22 }),
    ([0x067AB580], .spopc (Grp.alone 2) { d := 43, a := 22 }),
    ([0x077EB580], .sbrev (Grp.alone 3) { d := 43, a := 22 }),
    ([0x0482B5B5], .sbfeI (Grp.alone 0) { d := 43, a := 22, b := 53 }),
    ([0x0586B5B5], .sbfeN (Grp.alone 1) { d := 43, a := 22, b := 53 }),
    ([0x068AB5B5], .sbfi (Grp.alone 2) { d := 43, a := 22, b := 53 }),
    ([0x078EB5B5], .sadr1 (Grp.alone 3) { d := 43, a := 22, b := 53 }),
    ([0x0492B5B5], .sadr2 (Grp.alone 0) { d := 43, a := 22, b := 53 }),
    ([0x0596B5B5], .sadr3 (Grp.alone 1) { d := 43, a := 22, b := 53 }),
    ([0x069AB580], .sxtI8 (Grp.alone 2) { d := 43, a := 22 }),
    ([0x079EB580], .sxtI16 (Grp.alone 3) { d := 43, a := 22 }),
    ([0x04A2B580], .sxtI32 (Grp.alone 0) { d := 43, a := 22 }),
    ([0x05A6B580], .sxtN8 (Grp.alone 1) { d := 43, a := 22 }),
    ([0x06AAB580], .sxtN16 (Grp.alone 2) { d := 43, a := 22 }),
    ([0x07AEB580], .sxtN32 (Grp.alone 3) { d := 43, a := 22 })] = true := by
  decide +kernel

theorem test_decode_major_02 : decodesAll [
    ([0x082BD6B6], .sli (Grp.alone 0) { d := 43, imm := 54966 }),
    ([0x096BD6B6], .slui (Grp.alone 1) { d := 43, imm := 54966 }),
    ([0x0AABD6B6], .saddi (Grp.alone 2) { d := 43, imm := 54966 }),
    ([0x0BEBD6B6], .sandi (Grp.alone 3) { d := 43, imm := 54966 })] = true := by
  decide +kernel

theorem test_decode_major_03 : decodesAll [
    ([0x0C02B5B5], .sld8 (Grp.alone 0) { d := 43, a := 22, b := 53 }),
    ([0x0D06B5B5], .sld16 (Grp.alone 1) { d := 43, a := 22, b := 53 }),
    ([0x0E0AB5B5], .sld32 (Grp.alone 2) { d := 43, a := 22, b := 53 }),
    ([0x0F0EB5B5], .sld64 (Grp.alone 3) { d := 43, a := 22, b := 53 }),
    ([0x0C12B5B5], .sst8 (Grp.alone 0) { d := 43, a := 22, b := 53 }),
    ([0x0D16B5B5], .sst16 (Grp.alone 1) { d := 43, a := 22, b := 53 }),
    ([0x0E1AB5B5], .sst32 (Grp.alone 2) { d := 43, a := 22, b := 53 }),
    ([0x0F1EB5B5], .sst64 (Grp.alone 3) { d := 43, a := 22, b := 53 }),
    ([0x0C22B5B5], .samoAdd (Grp.alone 0) { d := 43, a := 22, b := 53 }),
    ([0x0D26B5B5], .samoMinI (Grp.alone 1) { d := 43, a := 22, b := 53 }),
    ([0x0E2AB5B5], .samoMaxI (Grp.alone 2) { d := 43, a := 22, b := 53 }),
    ([0x0F2EB5B5], .samoMinN (Grp.alone 3) { d := 43, a := 22, b := 53 }),
    ([0x0C32B5B5], .samoMaxN (Grp.alone 0) { d := 43, a := 22, b := 53 }),
    ([0x0D36B5B5], .samoAnd (Grp.alone 1) { d := 43, a := 22, b := 53 }),
    ([0x0E3AB5B5], .samoOr (Grp.alone 2) { d := 43, a := 22, b := 53 }),
    ([0x0F3EB5B5], .samoXor (Grp.alone 3) { d := 43, a := 22, b := 53 }),
    ([0x0C42B5B5], .samoXchg (Grp.alone 0) { d := 43, a := 22, b := 53 }),
    ([0x0D46B5B5], .samoCas (Grp.alone 1) { d := 43, a := 22, b := 53 }),
    ([0x0E4AB5B5], .samoIncw (Grp.alone 2) { d := 43, a := 22, b := 53 }),
    ([0x0F4EB5B5], .samoFaddb (Grp.alone 3) { d := 43, a := 22, b := 53 }),
    ([0x0C52B580], .srwlRacq (Grp.alone 0) { d := 43, a := 22 }),
    ([0x0D56B580], .srwlRrel (Grp.alone 1) { d := 43, a := 22 }),
    ([0x0E5AB5B5], .srwlWacq (Grp.alone 2) { d := 43, a := 22, b := 53 }),
    ([0x0F5EB580], .srwlWrel (Grp.alone 3) { d := 43, a := 22 }),
    ([0x0C6005B5], .sredAdd (Grp.alone 0) { a := 22, b := 53 }),
    ([0x0D6405B5], .sredAddF32 (Grp.alone 1) { a := 22, b := 53 })] = true := by
  decide +kernel

theorem test_decode_major_04 : decodesAll [
    ([0x120AD6B6], .br (Grp.alone 2) { off := 710326 }),
    ([0x131AD6B6], .call (Grp.alone 3) { off := 710326 })] = true := by
  decide +kernel

theorem test_decode_major_05 : decodesAll [
    ([0x1458D6B6], .brz (Grp.alone 0) { a := 22, off := 54966 }),
    ([0x1559D6B6], .brnz (Grp.alone 1) { a := 22, off := 54966 }),
    ([0x165AD6B6], .brn (Grp.alone 2) { a := 22, off := 54966 }),
    ([0x175BD6B6], .brnn (Grp.alone 3) { a := 22, off := 54966 })] = true := by
  decide +kernel

theorem test_decode_major_06 : decodesAll [
    ([0x18000580], .ret (Grp.alone 0) { a := 22 }),
    ([0x19040000], .opEnd (Grp.alone 1)),
    ([0x1A080584], .step (Grp.alone 2) { a := 22, n := 4 }),
    ([0x1B0C058E], .bar (Grp.alone 3) { a := 22, k := 14 }),
    ([0x1812B036], .trap (Grp.alone 0) { d := 43, n := 54 }),
    ([0x19140584], .spawn (Grp.alone 1) { a := 22, n := 4 }),
    ([0x1A180580], .launch (Grp.alone 2) { a := 22 }),
    ([0x1B1EB011], .srd (Grp.alone 3) { d := 43, n := 17 }),
    ([0x18200584], .swr (Grp.alone 0) { a := 22, n := 4 })] = true := by
  decide +kernel

theorem test_decode_major_07 : decodesAll [
    ([0x1D1AD6B6], .opIf (Grp.alone 1) { m := 6, off := 186038 }),
    ([0x1E22D6B6], .opElse (Grp.alone 2) { off := 186038 }),
    ([0x1F400000], .endif (Grp.alone 3)),
    ([0x1C62D6B6], .loop (Grp.alone 0) { off := 186038 }),
    ([0x1D980000], .brk (Grp.alone 1) { m := 6 }),
    ([0x1EB80000], .nxt (Grp.alone 2) { m := 6 }),
    ([0x1FC2D6B6], .endl (Grp.alone 3) { off := 186038 })] = true := by
  decide +kernel

theorem test_decode_major_08 : decodesAll [
    ([0x201596EA], .vadd (Grp.alone 0) { d := 86, a := 45, b := 106 }),
    ([0x213596EA], .vsub (Grp.alone 1) { d := 86, a := 45, b := 106 }),
    ([0x225596EA], .vmul (Grp.alone 2) { d := 86, a := 45, b := 106 }),
    ([0x237596EA], .vmulh (Grp.alone 3) { d := 86, a := 45, b := 106 }),
    ([0x209596EA], .vmad (Grp.alone 0) { d := 86, a := 45, b := 106 }),
    ([0x21B596EA], .vmin (Grp.alone 1) { d := 86, a := 45, b := 106 }),
    ([0x22D596EA], .vmax (Grp.alone 2) { d := 86, a := 45, b := 106 }),
    ([0x23F59680], .vabs (Grp.alone 3) { d := 86, a := 45 })] = true := by
  decide +kernel

theorem test_decode_major_09 : decodesAll [
    ([0x241596EA], .vand (Grp.alone 0) { d := 86, a := 45, b := 106 }),
    ([0x253596EA], .vor (Grp.alone 1) { d := 86, a := 45, b := 106 }),
    ([0x265596EA], .vxor (Grp.alone 2) { d := 86, a := 45, b := 106 }),
    ([0x277596EA], .vandn (Grp.alone 3) { d := 86, a := 45, b := 106 }),
    ([0x249596EA], .vshl (Grp.alone 0) { d := 86, a := 45, b := 106 }),
    ([0x25B596EA], .vshr (Grp.alone 1) { d := 86, a := 45, b := 106 }),
    ([0x26D596EA], .vsar (Grp.alone 2) { d := 86, a := 45, b := 106 }),
    ([0x27F596EA], .vsel (Grp.alone 3) { d := 86, a := 45, b := 106 })] = true := by
  decide +kernel

theorem test_decode_major_0a : decodesAll [
    ([0x28159680], .vclz (Grp.alone 0) { d := 86, a := 45 }),
    ([0x29359680], .vctz (Grp.alone 1) { d := 86, a := 45 }),
    ([0x2A559680], .vffs (Grp.alone 2) { d := 86, a := 45 }),
    ([0x2B759680], .vpopc (Grp.alone 3) { d := 86, a := 45 }),
    ([0x28959680], .vbrev (Grp.alone 0) { d := 86, a := 45 }),
    ([0x29B596EA], .vbfe (Grp.alone 1) { d := 86, a := 45, b := 106 }),
    ([0x2AD596EA], .vbfi (Grp.alone 2) { d := 86, a := 45, b := 106 }),
    ([0x2BF596EA], .vdp4 (Grp.alone 3) { d := 86, a := 45, b := 106 })] = true := by
  decide +kernel

theorem test_decode_major_0b : decodesAll [
    ([0x2C1596EA], .vcmpEq (Grp.alone 0) { d := 86, a := 45, b := 106 }),
    ([0x2D3596EA], .vcmpNe (Grp.alone 1) { d := 86, a := 45, b := 106 }),
    ([0x2E5596EA], .vcmpLt (Grp.alone 2) { d := 86, a := 45, b := 106 }),
    ([0x2F7596EA], .vcmpLe (Grp.alone 3) { d := 86, a := 45, b := 106 }),
    ([0x2C9596EA], .vcmpGt (Grp.alone 0) { d := 86, a := 45, b := 106 }),
    ([0x2DB596EA], .vcmpGe (Grp.alone 1) { d := 86, a := 45, b := 106 }),
    ([0x2ED596EA], .vdp2 (Grp.alone 2) { d := 86, a := 45, b := 106 }),
    ([0x2FF59680], .vmov (Grp.alone 3) { d := 86, a := 45 })] = true := by
  decide +kernel

theorem test_decode_major_0c : decodesAll [
    ([0x301596EA], .vfadd (Grp.alone 0) { d := 86, a := 45, b := 106 }),
    ([0x313596EA], .vfsub (Grp.alone 1) { d := 86, a := 45, b := 106 }),
    ([0x325596EA], .vfmul (Grp.alone 2) { d := 86, a := 45, b := 106 }),
    ([0x337596EA], .vfma (Grp.alone 3) { d := 86, a := 45, b := 106 }),
    ([0x309596EA], .vfnma (Grp.alone 0) { d := 86, a := 45, b := 106 }),
    ([0x31B596EA], .vfmin (Grp.alone 1) { d := 86, a := 45, b := 106 }),
    ([0x32D596EA], .vfmax (Grp.alone 2) { d := 86, a := 45, b := 106 }),
    ([0x33F59680], .vfabs (Grp.alone 3) { d := 86, a := 45 })] = true := by
  decide +kernel

theorem test_decode_major_0d : decodesAll [
    ([0x341596EA], .vfcmpEq (Grp.alone 0) { d := 86, a := 45, b := 106 }),
    ([0x353596EA], .vfcmpLt (Grp.alone 1) { d := 86, a := 45, b := 106 }),
    ([0x365596EA], .vfcmpLe (Grp.alone 2) { d := 86, a := 45, b := 106 }),
    ([0x377596EA], .vfcmpUn (Grp.alone 3) { d := 86, a := 45, b := 106 }),
    ([0x34959680], .vfclass (Grp.alone 0) { d := 86, a := 45 }),
    ([0x35B59680], .vfrnd (Grp.alone 1) { d := 86, a := 45 }),
    ([0x36D59680], .vfneg (Grp.alone 2) { d := 86, a := 45 }),
    ([0x37F596EA], .vfcpsgn (Grp.alone 3) { d := 86, a := 45, b := 106 })] = true := by
  decide +kernel

theorem test_decode_major_0e : decodesAll [
    ([0x381596EA], .vfminNan (Grp.alone 0) { d := 86, a := 45, b := 106 }),
    ([0x393596EA], .vfmaxNan (Grp.alone 1) { d := 86, a := 45, b := 106 }),
    ([0x3A5596EA], .vfdot2 (Grp.alone 2) { d := 86, a := 45, b := 106 }),
    ([0x3B7596EA], .vfscl (Grp.alone 3) { d := 86, a := 45, b := 106 }),
    ([0x38959680], .vfexp (Grp.alone 0) { d := 86, a := 45 }),
    ([0x39B59680], .vfmant (Grp.alone 1) { d := 86, a := 45 }),
    ([0x3AD596EA], .vflerp (Grp.alone 2) { d := 86, a := 45, b := 106 })] = true := by
  decide +kernel

theorem test_decode_major_10 : decodesAll [
    ([0x431596B1], .vcvtF (Grp.alone 3) { d := 86, a := 45, sel := 1, ty := 17 }),
    ([0x403596B1], .vcvtI (Grp.alone 0) { d := 86, a := 45, sel := 1, ty := 17 }),
    ([0x415596B1], .vcvtN (Grp.alone 1) { d := 86, a := 45, sel := 1, ty := 17 }),
    ([0xF8000480, 0x427596EA], .vcvtPk16 (withType 9 2) { d := 86, a := 45, b := 106 }),
    ([0xF8000500, 0x439596EA], .vcvtPk8 (withType 10 3) { d := 86, a := 45, b := 106 }),
    ([0xF8000400, 0x40B596B4], .vcvtUnpk (withType 8 0) { d := 86, a := 45, sel := 1, ty := 20 }),
    ([0x41D59680], .vcvtBs (Grp.alone 1) { d := 86, a := 45 })] = true := by
  decide +kernel

theorem test_decode_major_11 : decodesAll [
    ([0x46159680], .vrcp (Grp.alone 2) { d := 86, a := 45 }),
    ([0x47359680], .vrsq (Grp.alone 3) { d := 86, a := 45 }),
    ([0x44559680], .vsqrt (Grp.alone 0) { d := 86, a := 45 }),
    ([0x45759680], .vexp2 (Grp.alone 1) { d := 86, a := 45 }),
    ([0x46959680], .vlog2 (Grp.alone 2) { d := 86, a := 45 }),
    ([0x47B59680], .vsinp (Grp.alone 3) { d := 86, a := 45 }),
    ([0x44D59680], .vcosp (Grp.alone 0) { d := 86, a := 45 }),
    ([0x45F59680], .vtanh (Grp.alone 1) { d := 86, a := 45 })] = true := by
  decide +kernel

theorem test_decode_major_12 : decodesAll [
    ([0x4A1596EA], .vcmul (Grp.alone 2) { d := 86, a := 45, b := 106 }),
    ([0x4B3596EA], .vcfma (Grp.alone 3) { d := 86, a := 45, b := 106 }),
    ([0x485596EA], .vcconj (Grp.alone 0) { d := 86, a := 45, b := 106 }),
    ([0x497596EA], .vcabs2 (Grp.alone 1) { d := 86, a := 45, b := 106 }),
    ([0x4A959680], .vwelf (Grp.alone 2) { d := 86, a := 45 }),
    ([0x4BB59680], .vwmrg (Grp.alone 3) { d := 86, a := 45 }),
    ([0x48D59681], .vwfin (Grp.alone 0) { d := 86, a := 45, k := true })] = true := by
  decide +kernel

theorem test_decode_major_13 : decodesAll [
    ([0x4D158076], .vli (Grp.alone 1) { d := 86, imm := 118 }),
    ([0x4E3596F6], .vaddi (Grp.alone 2) { d := 86, a := 45, imm := 118 }),
    ([0x4F5596F6], .vandi (Grp.alone 3) { d := 86, a := 45, imm := 118 }),
    ([0x4C7596F6], .vori (Grp.alone 0) { d := 86, a := 45, imm := 118 }),
    ([0x4D9596F6], .vxori (Grp.alone 1) { d := 86, a := 45, imm := 118 }),
    ([0x4EB59696], .vshli (Grp.alone 2) { d := 86, a := 45, n := 22 }),
    ([0x4FD59696], .vshri (Grp.alone 3) { d := 86, a := 45, n := 22 }),
    ([0x4CF59696], .vsari (Grp.alone 0) { d := 86, a := 45, n := 22 })] = true := by
  decide +kernel

theorem test_decode_major_14 : decodesAll [
    ([0x511596EA], .vshflIdx (Grp.alone 1) { d := 86, a := 45, b := 106 }),
    ([0x52359696], .vshflUp (Grp.alone 2) { d := 86, a := 45, n := 22 }),
    ([0x53559696], .vshflDn (Grp.alone 3) { d := 86, a := 45, n := 22 }),
    ([0x50759696], .vshflXor (Grp.alone 0) { d := 86, a := 45, n := 22 }),
    ([0x519596EA], .vxsel (Grp.alone 1) { d := 86, a := 45, b := 106 }),
    ([0x52B58B00], .vbcast (Grp.alone 2) { d := 86, a := 22 }),
    ([0x53D58000], .vlane (Grp.alone 3) { d := 86 }),
    ([0x50EAD696], .vext (Grp.alone 0) { d := 43, a := 45, n := 22 })] = true := by
  decide +kernel

theorem test_decode_major_15 : decodesAll [
    ([0x550AD680], .vvoteAny (Grp.alone 1) { d := 43, a := 45 }),
    ([0x562AD680], .vvoteAll (Grp.alone 2) { d := 43, a := 45 }),
    ([0x574AD680], .vvoteUni (Grp.alone 3) { d := 43, a := 45 }),
    ([0x546AD680], .vballot (Grp.alone 0) { d := 43, a := 45 }),
    ([0x55719680], .vballotMask (Grp.alone 1) { k := 6, a := 45 }),
    ([0x56959685], .vredux (Grp.alone 2) { d := 86, a := 45, op := 5 }),
    ([0x57B59685], .vscanIn (Grp.alone 3) { d := 86, a := 45, op := 5 }),
    ([0x54D59685], .vscanEx (Grp.alone 0) { d := 86, a := 45, op := 5 }),
    ([0x55F59680], .vmatch (Grp.alone 1) { d := 86, a := 45 })] = true := by
  decide +kernel

theorem test_decode_major_18 : decodesAll [
    ([0x621ADAF6], .vld8 (Grp.alone 2) { byp := true, ds := 86, sb := 53, vo := 118 }),
    ([0x633ADAF6], .vld8s (Grp.alone 3) { byp := true, ds := 86, sb := 53, vo := 118 }),
    ([0x605ADAF6], .vld16 (Grp.alone 0) { byp := true, ds := 86, sb := 53, vo := 118 }),
    ([0x617ADAF6], .vld16s (Grp.alone 1) { byp := true, ds := 86, sb := 53, vo := 118 }),
    ([0x629ADAF6], .vld32 (Grp.alone 2) { byp := true, ds := 86, sb := 53, vo := 118 }),
    ([0x63BADAF6], .vld64 (Grp.alone 3) { byp := true, ds := 86, sb := 53, vo := 118 }),
    ([0x60DADAF6], .vld128 (Grp.alone 0) { byp := true, ds := 86, sb := 53, vo := 118 })] = true := by
  decide +kernel

theorem test_decode_major_19 : decodesAll [
    ([0x650ADAF6], .vst8 (Grp.alone 1) { ds := 86, sb := 53, vo := 118 }),
    ([0x662ADAF6], .vst16 (Grp.alone 2) { ds := 86, sb := 53, vo := 118 }),
    ([0x674ADAF6], .vst32 (Grp.alone 3) { ds := 86, sb := 53, vo := 118 }),
    ([0x646ADAF6], .vst64 (Grp.alone 0) { ds := 86, sb := 53, vo := 118 }),
    ([0x658ADAF6], .vst128 (Grp.alone 1) { ds := 86, sb := 53, vo := 118 })] = true := by
  decide +kernel

theorem test_decode_major_1a : decodesAll [
    ([0x6A1ADA82], .vldl (Grp.alone 2) { byp := true, ds := 86, sb := 53, n := 2 }),
    ([0x6B2ADAF6], .vldg (Grp.alone 3) { ds := 86, sb := 53, vo := 118 }),
    ([0x68401AF6], .prefL1 (Grp.alone 0) { sb := 53, vo := 118 }),
    ([0x69601AF6], .prefL2 (Grp.alone 1) { sb := 53, vo := 118 })] = true := by
  decide +kernel

theorem test_decode_major_1b : decodesAll [
    ([0x6E0ADAF6], .vlsp8 (Grp.alone 2) { ds := 86, sb := 53, vo := 118 }),
    ([0x6F2ADAF6], .vlsp32 (Grp.alone 3) { ds := 86, sb := 53, vo := 118 }),
    ([0x6C4ADAF6], .vlsp64 (Grp.alone 0) { ds := 86, sb := 53, vo := 118 }),
    ([0x6D6ADAF6], .vlsp128 (Grp.alone 1) { ds := 86, sb := 53, vo := 118 }),
    ([0x6E8ADAF6], .vssp8 (Grp.alone 2) { ds := 86, sb := 53, vo := 118 }),
    ([0x6FAADAF6], .vssp32 (Grp.alone 3) { ds := 86, sb := 53, vo := 118 }),
    ([0x6CCADAF6], .vssp64 (Grp.alone 0) { ds := 86, sb := 53, vo := 118 }),
    ([0x6DEADAF6], .vssp128 (Grp.alone 1) { ds := 86, sb := 53, vo := 118 })] = true := by
  decide +kernel

theorem test_decode_major_1c : decodesAll [
    ([0x720ADAF6], .vamoAdd (Grp.alone 2) { ds := 86, sb := 53, vo := 118 }),
    ([0x732ADAF6], .vamoMin (Grp.alone 3) { ds := 86, sb := 53, vo := 118 }),
    ([0x704ADAF6], .vamoMax (Grp.alone 0) { ds := 86, sb := 53, vo := 118 }),
    ([0x716ADAF6], .vamoAnd (Grp.alone 1) { ds := 86, sb := 53, vo := 118 }),
    ([0x728ADAF6], .vamoOr (Grp.alone 2) { ds := 86, sb := 53, vo := 118 }),
    ([0x73AADAF6], .vamoXor (Grp.alone 3) { ds := 86, sb := 53, vo := 118 }),
    ([0x70CADAF6], .vamoXchg (Grp.alone 0) { ds := 86, sb := 53, vo := 118 }),
    ([0x71EADAF6], .vamoCas (Grp.alone 1) { ds := 86, sb := 53, vo := 118 })] = true := by
  decide +kernel

theorem test_decode_major_1d : decodesAll [
    ([0x760ADAF6], .vamoIncw (Grp.alone 2) { ds := 86, sb := 53, vo := 118 }),
    ([0x772ADAF6], .vamoFaddb (Grp.alone 3) { ds := 86, sb := 53, vo := 118 }),
    ([0x744ADAF6], .vamoFaddF32 (Grp.alone 0) { ds := 86, sb := 53, vo := 118 })] = true := by
  decide +kernel

theorem test_decode_major_1e : decodesAll [
    ([0x790EDAF6], .vredAdd (Grp.alone 1) { ds := 118, sb := 53, vo := 118 }),
    ([0x7A2EDAF6], .vredAddF32 (Grp.alone 2) { ds := 118, sb := 53, vo := 118 }),
    ([0x7B4EDAF6], .vredAddBf16x2 (Grp.alone 3) { ds := 118, sb := 53, vo := 118 }),
    ([0x786EDAF6], .vredMin (Grp.alone 0) { ds := 118, sb := 53, vo := 118 }),
    ([0x798EDAF6], .vredMax (Grp.alone 1) { ds := 118, sb := 53, vo := 118 }),
    ([0x7AAEDAF6], .vredAnd (Grp.alone 2) { ds := 118, sb := 53, vo := 118 }),
    ([0x7BCEDAF6], .vredOr (Grp.alone 3) { ds := 118, sb := 53, vo := 118 }),
    ([0x78EEDAF6], .vredXor (Grp.alone 0) { ds := 118, sb := 53, vo := 118 })] = true := by
  decide +kernel

theorem test_decode_major_1f : decodesAll [
    ([0x7D000015], .fence (Grp.alone 1) { kind := 2, scope := 5 }),
    ([0x7E040005], .trel (Grp.alone 2) { t := 5 }),
    ([0x7F0800A7], .tfeSet (Grp.alone 3) { t := 167 }),
    ([0x7C0C00FF], .tfeClr (Grp.alone 0) { t := 255 }),
    ([0x7D12B80F], .tstat (Grp.alone 1) { d := 43, t := 2063 }),
    ([0x7E16B602], .cbdef (Grp.alone 2) { d := 43, t := 1538 }),
    ([0x7F1ABE2A], .cbrel (Grp.alone 3) { d := 43, t := 3626 }),
    ([0x7C1EB000], .mbat (Grp.alone 0) { d := 43 })] = true := by
  decide +kernel

theorem test_decode_major_20 : decodesAll [
    ([0x810FB36C], .mmaF16 (Grp.alone 1) { na := true, nb := true, zc := true, c := 54, va := 13, vb := 22, ext := false }),
    ([0x821FB36C], .mmaBf16 (Grp.alone 2) { na := true, nb := true, zc := true, c := 54, va := 13, vb := 22, ext := false }),
    ([0x832FB36C], .mmaE4m3 (Grp.alone 3) { na := true, nb := true, zc := true, c := 54, va := 13, vb := 22, ext := false }),
    ([0x803FB36C], .mmaE5m2 (Grp.alone 0) { na := true, nb := true, zc := true, c := 54, va := 13, vb := 22, ext := false }),
    ([0x814FB36C], .mmaE2m1 (Grp.alone 1) { na := true, nb := true, zc := true, c := 54, va := 13, vb := 22, ext := false }),
    ([0x825FB36C], .mmaI8 (Grp.alone 2) { na := true, nb := true, zc := true, c := 54, va := 13, vb := 22, ext := false }),
    ([0x836FB36C], .mmaF32 (Grp.alone 3) { na := true, nb := true, zc := true, c := 54, va := 13, vb := 22, ext := false })] = true := by
  decide +kernel

theorem test_decode_major_21 : decodesAll [
    ([0x840FB36C], .smmaF16 (Grp.alone 0) { na := true, nb := true, zc := true, c := 54, va := 13, vb := 22, ext := false }),
    ([0x851FB36C], .smmaBf16 (Grp.alone 1) { na := true, nb := true, zc := true, c := 54, va := 13, vb := 22, ext := false }),
    ([0x862FB36C], .smmaE4m3 (Grp.alone 2) { na := true, nb := true, zc := true, c := 54, va := 13, vb := 22, ext := false }),
    ([0x873FB36C], .smmaI8 (Grp.alone 3) { na := true, nb := true, zc := true, c := 54, va := 13, vb := 22, ext := false })] = true := by
  decide +kernel

theorem test_decode_major_22 : decodesAll [
    ([0x88016580], .mld (Grp.alone 0) { g := 22, a := 22 }),
    ([0x89056580], .mldt (Grp.alone 1) { g := 22, a := 22 }),
    ([0x8A08E036], .mrd (Grp.alone 2) { n := 14, k := 54 }),
    ([0x8B0CE036], .mwr (Grp.alone 3) { n := 14, k := 54 }),
    ([0x88100036], .mzero (Grp.alone 0) { k := 54 })] = true := by
  decide +kernel

theorem test_decode_major_24 : decodesAll [
    ([0x91000580], .cpy (Grp.alone 1) { a := 22 }),
    ([0x92040580], .cpyg (Grp.alone 2) { a := 22 }),
    ([0x93080580], .cpyst (Grp.alone 3) { a := 22 })] = true := by
  decide +kernel

theorem test_decode_major_25 : decodesAll [
    ([0x94000580], .sort (Grp.alone 0) { a := 22 }),
    ([0x95040580], .sortr (Grp.alone 1) { a := 22 })] = true := by
  decide +kernel

theorem test_decode_major_26 : decodesAll [
    ([0x9A00E3B6], .trace (Grp.alone 2) { n := 14, g := 14, k := 54 }),
    ([0x9B04E580], .rast (Grp.alone 3) { n := 14, a := 22 }),
    ([0x980AB584], .callx (Grp.alone 0) { d := 43, a := 22, n := 4 }),
    ([0x990C0584], .retx (Grp.alone 1) { a := 22, n := 4 }),
    ([0x9A100580], .hitret (Grp.alone 2) { a := 22 })] = true := by
  decide +kernel

theorem test_decode_major_27 : decodesAll [
    ([0x9F1596B5], .hgrid (Grp.alone 3) { d := 86, a := 45, b := 53 }),
    ([0x9C3596B5], .hgrad (Grp.alone 0) { d := 86, a := 45, b := 53 })] = true := by
  decide +kernel

theorem test_decode_major_28 : decodesAll [
    ([0xA11596B5], .cmps (Grp.alone 1) { d := 86, a := 45, b := 53 }),
    ([0xA23596B5], .cmpsb (Grp.alone 2) { d := 86, a := 45, b := 53 })] = true := by
  decide +kernel

theorem test_decode_major_29 : decodesAll [
    ([0xA7000580], .coll (Grp.alone 3) { a := 22 })] = true := by
  decide +kernel

/-- R53, R58 to R61: groups of several words, and the scheduling hints. -/
theorem test_decode_groups : decodesAll [
    -- vadd.i16x2.sat v10, v11, v12 under m2: MASK 2, SAT, TYPE 3
    ([0xF9000980, 0x2002858C], .vadd { Grp.alone 0 with pfx := some { Pfx.default with mask := 2, typ := 3, sat := true } } { d := 10, a := 11, b := 12 }),
    -- the extended stall count
    ([0xFF000002, 0x53C04000], .vlane { Grp.alone 3 with ext := some 2 } { d := 1 }),
    -- two limm words before an immediate
    ([0xFD000012, 0xFD345678, 0x08149ABC], .sli { Grp.alone 0 with limms := [0x12, 0x345678] } { d := 20, imm := 0x9ABC }),
    -- the modifier hint: POLICY 2, NT, LINE 3
    ([0xFE00001E, 0x60910207], .vld32 { Grp.alone 0 with modifier := some { policy := 2, nt := true, line := 3 } } { byp := true, ds := 8, sb := 4, vo := 7 }),
    -- a matrix operation whose extent register is s30
    ([0xF803C000, 0x80400005], .mmaE2m1 { Grp.alone 0 with pfx := some { Pfx.default with op4 := 30 } }
      { na := false, nb := false, zc := false, c := 0, va := 0, vb := 2, ext := true }),
    ([0xFC000000], .hintNop), ([0xFC000701], .hintYield 7), ([0xFC00FF02], .hintBoost 255), ([0xFC000103], .hintSlot true)] = true := by
  decide +kernel

/-- Why a list of words is no group. -/
noncomputable def refusal (ws : List W32) : Option DecodeError := match decode ws with | .ok _ => none | .error e => some e

/-- R46, R50, R51, R53, R54, R58, R60, R61: each reason to refuse a list of words. -/
theorem test_decode_refuses :
    [refusal [], refusal [0xFD000000], refusal [0], refusal [0x3C000000], refusal [0x04B00000], refusal [0x20E04083], refusal [0x046C0001],
     refusal [0xF8000000, 0xF8000000, 0x2002858C], refusal [0xFC000001, 0xFC000003] , refusal [0xFD000000, 0xFD000000, 0xFD000000, 0x08149ABC],
     refusal [0xF8000001, 0x2002858C], refusal [0xF8600000, 0x3002858C], refusal [0xF8000780, 0x2002858C], refusal [0xFE000003, 0x60910207],
     refusal [0xFE000020, 0x60910207], refusal [0xFF000100, 0x53C04000], refusal [0xFC000004], refusal [0xFC010000],
     refusal [0xF8000000, 0xFC000000], refusal [0xFD000001, 0x18000000]] =
    [some .truncated, some .truncated, some .reservedMajor, some .reservedMajor, some .unassigned, some .reservedField, some .reservedField,
     some .structure, none, some .structure,
     some .reservedField, some .notAccepted, some .notAccepted, some .notAccepted,
     some .reservedField, some .reservedField, some .unassigned, some .reservedField,
     some .structure, some .notAccepted] := by decide +kernel

/-- R47, R53: the words of the example of 05_isa_vector.md, `vfma.f16x2` with NEGB and ZERO under m1. -/
theorem test_encode_vfma : encode (.vfma { Grp.alone 0 with pfx := some { Pfx.default with mask := 1, rnd := 1, op4 := 9, zero := true, typ := 8, negb := true } }
    { d := 20, a := 21, b := 22 }) = [0xF8913420, 0x30650A96] := by decide +kernel

/-- R186: the words of the examples of 07_isa_matrix.md. -/
theorem test_encode_mma : encode (.mmaF16 (Grp.alone 0) { na := false, nb := false, zc := false, c := 3, va := 2, vb := 3, ext := false }) = [0x80001886] ∧
    encode (.mmaF16 (Grp.alone 0) { na := false, nb := false, zc := true, c := 3, va := 2, vb := 3, ext := false }) = [0x80021886] := by decide +kernel

/-- R45, R69: the table's bits, least significant byte first. -/
theorem test_table_word : decodeTableWord 32 0x04954209 = some (.sadr3 (Grp.alone 0) { d := 20, a := 8, b := 9 }) ∧
    decodeTableWord 32 0 = none := by decide +kernel

/-! One step. The gang holds `s0`, `s1`, ... and `v0`, `v1`, ... in lane 0; its slot A issues at 0x1000. -/

/-- The issuing group. -/
def cur0 : Cur := { gang := 0, slotB := false, pc := 0x1000 }
/-- A state in which slot A of gang `g` issues. -/
def issuer (g : Gang) : State :=
  { State.reset with cur := some cur0, gangs := [(0, g)], crews := [(0, programCrew)], launches := [(0, programLaunch)] }
/-- A gang with the given scalar registers and lane-0 vector registers. -/
def holding (s : List W64) (v : List W32) : Gang := { programGang with s := s, v := v.map (fun x => [x]) }
/-- The gang after an instruction, its results landed. -/
noncomputable def ran (g : Gang) (i : Instr) : Gang :=
  match exec i (issuer g) with | .next t => ((aget t.gangs 0).getD g).landSlot false | _ => g
/-- `s2` after `i s2, s0, s1`, with A in `s0`, B in `s1` and D in `s2`. -/
noncomputable def scalar3 (i : Grp → OpS3 → Instr) (A B D : W64) : W64 :=
  (ran (holding [A, B, D] []) (i (Grp.alone 0) { d := 2, a := 0, b := 1 })).readS false 2
/-- `s2` after `i s2, s0`. -/
noncomputable def scalar2 (i : Grp → OpS2 → Instr) (A : W64) : W64 :=
  (ran (holding [A] []) (i (Grp.alone 0) { d := 2, a := 0 })).readS false 2
/-- The group with a prefix of the type code `t`. -/
def typed (t : BitVec 4) : Grp := withPfx { Pfx.default with typ := t }
/-- Lane 0 of `v2` after `i v2, v0, v1`, with the third operand in `v2`. -/
noncomputable def vector3 (grp : Grp) (i : Grp → OpV3 → Instr) (A B D : W32) : W32 :=
  (ran (holding [] [A, B, D]) (i grp { d := 2, a := 0, b := 1 })).lane? 2 0
/-- Lane 0 of `v2` after `i v2, v0`. -/
noncomputable def vector2 (grp : Grp) (i : Grp → OpV2 → Instr) (A : W32) : W32 :=
  (ran (holding [] [A]) (i grp { d := 2, a := 0 })).lane? 2 0

/-- R100: -5 and 3, signed and unsigned. -/
theorem test_scalar_arithmetic :
    ([Instr.sadd, .ssub, .smul, .smulhI, .smulhN, .sdivI, .sdivN, .sremI, .sremN, .sadr3].map (fun i => scalar3 i 0xFFFFFFFFFFFFFFFB 3 0)) =
    [0xFFFFFFFFFFFFFFFE, 0xFFFFFFFFFFFFFFF8, 0xFFFFFFFFFFFFFFF1, 0xFFFFFFFFFFFFFFFF, 2, 0xFFFFFFFFFFFFFFFF, 0x5555555555555553, 0xFFFFFFFFFFFFFFFE, 2, 0x13] := by
  decide +kernel
/-- R101: a zero divisor, and the most negative number by -1. -/
theorem test_scalar_division_corners :
    ([Instr.sdivI, .sdivN, .sremI, .sremN].map (fun i => scalar3 i 7 0 0)) = [0xFFFFFFFFFFFFFFFF, 0xFFFFFFFFFFFFFFFF, 7, 7] ∧
    scalar3 .sdivI (2 ^ 63) 0xFFFFFFFFFFFFFFFF 0 = 2 ^ 63 ∧ scalar3 .sremI (2 ^ 63) 0xFFFFFFFFFFFFFFFF 0 = 0 := by decide +kernel
/-- R100: shifts by B[5:0], here 65 and so 1. -/
theorem test_scalar_shifts :
    ([Instr.sshl, .sshr, .ssar, .sandn, .sminI, .sminN, .smaxI, .smaxN, .scmpLtI, .scmpLtN].map (fun i => scalar3 i 0x8000000000000001 65 0)) =
    [2, 0x4000000000000000, 0xC000000000000000, 0x8000000000000000, 0x8000000000000001, 65, 65, 0x8000000000000001, 1, 0] := by decide +kernel
/-- R102: the example's field, unsigned and signed, and its insertion. -/
theorem test_scalar_bit_field : scalar3 .sbfeN 0x00F30000 0x0810 0 = 0xF3 ∧ scalar3 .sbfeI 0x00F30000 0x0810 0 = 0xFFFFFFFFFFFFFFF3 ∧
    scalar3 .sbfi 0x5A 0x0810 0xFFFFFFFF = 0xFF5AFFFF ∧ scalar3 .sbfeN 5 0 0 = 0 := by decide +kernel
/-- R100: counts, reversal and extensions of one value. -/
theorem test_scalar_unary :
    ([Instr.sclz, .sctz, .spopc, .sbrev, .sxtI8, .sxtI16, .sxtI32, .sxtN8, .sxtN16, .sxtN32].map (fun i => scalar2 i 0x80F0)) =
    [48, 4, 5, 0x0F01000000000000, 0xFFFFFFFFFFFFFFF0, 0xFFFFFFFFFFFF80F0, 0x80F0, 0xF0, 0x80F0, 0x80F0] ∧
    scalar2 .sclz 0 = 64 ∧ scalar2 .sctz 0 = 64 := by decide +kernel
/-- R59, R103: an immediate under two `limm` words, and alone. -/
theorem test_scalar_immediate :
    (ran (holding [] []) (.sli (withLimms [0x12, 0x345678]) { d := 20, imm := 0x9ABC })).readS false 20 = 0x123456789ABC ∧
    (ran (holding [] []) (.sli (Grp.alone 0) { d := 20, imm := 0x9ABC })).readS false 20 = 0xFFFFFFFFFFFF9ABC ∧
    (ran (holding [] []) (.slui (Grp.alone 0) { d := 20, imm := 0x9ABC })).readS false 20 = 0x9ABC := by decide +kernel
/-- R19: a write of `s63` is discarded, and `s62` is the slot's mask. -/
theorem test_scalar_special_registers : (ran (holding [5] []) (.smov (Grp.alone 0) { d := 63, a := 0 })).readS false 63 = 0 ∧
    (ran (holding [5] []) (.smov (Grp.alone 0) { d := 62, a := 0 })).a.mask = 5 := by decide +kernel

/-- R49, R104, R105: targets. -/
theorem test_branches :
    ((ran (holding [0] []) (.brz (Grp.alone 0) { a := 0, off := 0xFFFE })).a.pc, (ran (holding [0] []) (.brnz (Grp.alone 0) { a := 0, off := 0xFFFE })).a.pc,
     (ran (holding [] []) (.call (Grp.alone 0) { off := 4 })).a.pc, (ran (holding [] []) (.call (Grp.alone 0) { off := 4 })).readS false 61,
     (ran (holding [0xFE00000000002003] []) (.ret (Grp.alone 0) { a := 0 })).a.pc) = (0xFF8, 0x1004, 0x1010, 0x1004, 0x2000) := by decide +kernel
/-- R108, R109: the first `if` of the example after R112 splits: slot A takes `m3`'s lanes, slot B starts at the `else`. -/
theorem test_if_splits :
    let g := ran { programGang with m := [0, 0, 0, 0xFF] } (.opIf (Grp.alone 0) { m := 3, off := 5 })
    (g.a.mask, g.a.pc, g.b.live, g.b.mask, g.b.pc, g.a.stack) =
      (0xFF, 0x1004, true, 0xFFFFFF00, 0x1014, [.ifE 0xFFFFFFFF 0 0xFF .split]) := by decide +kernel
/-- R109: a loop whose lanes have all left closes at `endl`. -/
theorem test_endl_closes :
    let g := ran { programGang with a := { programGang.a with mask := 0, stack := [.loopE 0xF 0 0] } } (.endl (Grp.alone 0) { off := 0x3FFFF })
    (g.a.mask, g.a.pc, g.a.stack) = (0xF, 0x1004, []) := by decide +kernel

/-- R134: i32 sums wrap, and saturate under SAT; i16x2 elements. -/
theorem test_vector_integers :
    vector3 (Grp.alone 0) .vadd 0x7FFFFFFF 1 0 = 0x80000000 ∧
    vector3 (withPfx { Pfx.default with sat := true }) .vadd 0x7FFFFFFF 1 0 = 0x7FFFFFFF ∧
    vector3 (withPfx { Pfx.default with typ := 3, sat := true }) .vsub 0x80000001 0x00010002 0 = 0x8000FFFF ∧
    vector3 (typed 2) .vmulh 0xFFFFFFFF 0xFFFFFFFF 0 = 0xFFFFFFFE ∧ vector3 (Grp.alone 0) .vmulh 0xFFFFFFFF 0xFFFFFFFF 0 = 0 ∧
    vector3 (Grp.alone 0) .vmin 0xFFFFFFFF 1 0 = 0xFFFFFFFF ∧ vector3 (typed 2) .vmin 0xFFFFFFFF 1 0 = 1 ∧
    vector3 (withPfx { Pfx.default with op4 := 2 }) .vmad 3 4 5 = 17 := by decide +kernel
/-- R135 to R139: shifts, selection, bit counts, bit fields, dot products and comparisons. -/
theorem test_vector_bits :
    vector3 (Grp.alone 0) .vshl 3 33 0 = 6 ∧ vector3 (Grp.alone 0) .vsar 0x80000000 4 0 = 0xF8000000 ∧ vector3 (Grp.alone 0) .vsel 1 2 0 = 2 ∧
    vector2 (Grp.alone 0) .vclz 0x00010000 = 15 ∧ vector2 (Grp.alone 0) .vffs 8 = 4 ∧ vector2 (typed 5) .vpopc 0x0F0103FF = 0x04010208 ∧
    vector3 (typed 1) .vbfe 0xF3 0x0804 0 = 0xF ∧ vector3 (typed 6) .vdp4 0x01020304 0x05060708 10 = 80 ∧
    vector3 (Grp.alone 0) .vcmpLt 0xFFFFFFFF 0 0 = 0xFFFFFFFF ∧ vector3 (typed 2) .vcmpLt 0xFFFFFFFF 0 0 = 0 := by decide +kernel
/-- R55: a lane outside the prefix's mask register keeps its value, or receives 0 under ZERO. -/
theorem test_vector_masks :
    let g := { holding [] [7, 8, 9] with m := [0, 0xFFFFFFFE] }
    (ran g (.vadd (withPfx { Pfx.default with mask := 1 }) { d := 2, a := 0, b := 1 })).lane? 2 0 = 9 ∧
    (ran g (.vadd (withPfx { Pfx.default with mask := 1, zero := true }) { d := 2, a := 0, b := 1 })).lane? 2 0 = 0 := by decide +kernel
/-- R141: the example of 05_isa_vector.md. -/
theorem test_vfma_example :
    (ran { programGang with v := (List.replicate 9 []) ++ [[0x35553C00]] ++ List.replicate 11 [] ++ [[0x3C004000], [0x38004200]], m := [0, 1] }
      (.vfma (withPfx { Pfx.default with mask := 1, rnd := 1, op4 := 9, zero := true, typ := 8, negb := true }) { d := 20, a := 21, b := 22 })).lane? 20 0 =
    0xB156C500 := by decide +kernel
/-- R141 to R144: 1.5 + 2.25, 1.5 - 2.25, 1.5 * 2.25, the lesser and a comparison with a NaN, and 1.5 * 2^3. -/
theorem test_vector_floats :
    ([Instr.vfadd, .vfsub, .vfmul, .vfmax].map (fun i => vector3 (Grp.alone 0) i 0x3FC00000 0x40100000 0)) = [0x40700000, 0xBF400000, 0x40580000, 0x40100000] ∧
    vector3 (Grp.alone 0) .vfmin 0x7FC00000 0x40100000 0 = 0x40100000 ∧ vector3 (Grp.alone 0) .vfminNan 0x7FC00000 0x40100000 0 = 0x7FC00000 ∧
    vector3 (Grp.alone 0) .vfcmpUn 0x7FC00000 0 0 = 0xFFFFFFFF ∧ vector3 (Grp.alone 0) .vfscl 0x3FC00000 3 0 = 0x41400000 ∧
    vector2 (Grp.alone 0) .vfneg 0x3FC00000 = 0xBFC00000 ∧ vector2 (Grp.alone 0) .vfexp 0x40100000 = 1 ∧ vector2 (Grp.alone 0) .vfmant 0x40100000 = 0x3F900000 := by
  decide +kernel
/-- R145: the example after the conversions: four elements to e4m3, with SAT and without. -/
theorem test_vcvt_pk8_example :
    let g := { programGang with v := [[], [], [0x3E99999A], [0xC3FA0000], [0x3A800000], [0x7FC00000]] }
    (ran g (.vcvtPk8 (withPfx { Pfx.default with typ := 10, sat := true }) { d := 10, a := 2, b := 4 })).lane? 10 0 = 0x7F00FE2A ∧
    (ran g (.vcvtPk8 (withPfx { Pfx.default with typ := 10 }) { d := 10, a := 2, b := 4 })).lane? 10 0 = 0x7F00FF2A := by decide +kernel
/-- R145: f16 1.5 to f32, and f32 -2.5 to an integer, to even and toward zero. -/
theorem test_vcvt :
    (ran (holding [] [0x3E000000]) (.vcvtF (Grp.alone 0) { d := 2, a := 0, sel := 1, ty := 0x10 })).lane? 2 0 = 0x3FC00000 ∧
    (ran (holding [] [0xC0200000]) (.vcvtI (Grp.alone 0) { d := 2, a := 0, sel := 0, ty := 0x12 })).lane? 2 0 = 0xFFFFFFFE := by decide +kernel
/-- R147, R148: exact results and special cases. -/
theorem test_special_functions :
    vector2 (Grp.alone 0) .vrcp 0x40800000 = 0x3E800000 ∧ vector2 (Grp.alone 0) .vsqrt 0x40800000 = 0x40000000 ∧
    vector2 (Grp.alone 0) .vexp2 0x40400000 = 0x41000000 ∧ vector2 (Grp.alone 0) .vlog2 0x41000000 = 0x40400000 ∧
    vector2 (Grp.alone 0) .vlog2 0 = 0xFF800000 ∧ vector2 (Grp.alone 0) .vrsq 0xBF800000 = 0x7FC00000 ∧
    vector2 (Grp.alone 0) .vcosp 0x3F800000 = 0xBF800000 ∧ vector2 (Grp.alone 0) .vtanh 0xFF800000 = 0xBF800000 := by decide +kernel
/-- R149: (1 + 2i)(3 + 4i) = -5 + 10i. -/
theorem test_vcmul :
    let g := ran { programGang with v := [[0x3F800000], [0x40000000], [0x40400000], [0x40800000]] } (.vcmul (Grp.alone 0) { d := 4, a := 0, b := 2 })
    (g.lane? 4 0, g.lane? 5 0) = (0xC0A00000, 0x41200000) := by decide +kernel
/-- R150: the first sample 3.0 of a Welford state. -/
theorem test_vwelf :
    let g := ran (holding [] [0, 0, 0, 0, 0x40400000]) (.vwelf (Grp.alone 0) { d := 0, a := 4 })
    (g.lane? 0 0, g.lane? 1 0, g.lane? 2 0) = (1, 0x40400000, 0) := by decide +kernel
/-- R151 to R154: a shuffle, lane numbers, a ballot, and the sum of lanes 0 to 31 with its scans. -/
theorem test_cross_lane :
    let g := { programGang with v := [(List.range 32).map (fun l => BitVec.ofNat 32 l)] }
    (ran g (.vshflXor (Grp.alone 0) { d := 1, a := 0, n := 5 })).lane? 1 2 = 7 ∧ (ran g (.vshflUp (Grp.alone 0) { d := 1, a := 0, n := 5 })).lane? 1 3 = 3 ∧
    (ran g (.vlane (Grp.alone 0) { d := 1 })).lane? 1 31 = 31 ∧ (ran g (.vballot (Grp.alone 0) { d := 1, a := 0 })).readS false 1 = 0xFFFFFFFE ∧
    (ran g (.vredux (Grp.alone 0) { d := 1, a := 0, op := 0 })).lane? 1 9 = 496 ∧ (ran g (.vscanIn (Grp.alone 0) { d := 1, a := 0, op := 0 })).lane? 1 4 = 10 ∧
    (ran g (.vscanEx (Grp.alone 0) { d := 1, a := 0, op := 0 })).lane? 1 4 = 6 := by decide +kernel

/-! Memory, tiles, tasks and engines. -/

/-- A state with a gang's slot A issuing, where VA 0 to 2^30 is the code page and VA 0x40000000 a data page at PA 0x80000000. -/
def paged (g : Gang) : State :=
  let s := placeProgram State.reset []
  { s with todo := [], cur := some cur0, mem := mwriteNat s.mem 0x40002008 8 0x80000007, gangs := [(0, g)] }
/-- The first lane alone, `s0` the data page's address and `s1` a value. -/
def memGang : Gang :=
  { programGang with s := [0x40000000, 0x1122334455667788], v := [[0], [0xAABBCCDD], [0x01020304]], a := { programGang.a with mask := 1 } }
/-- The state a step gives, or the state before it. -/
def nextOf (s : State) (out : Outcome) : State := match out with | .next t => t | _ => s
/-- The gang after an instruction in the paged state. -/
noncomputable def ranAt (g : Gang) (i : Instr) : Gang := (aget (nextOf (paged g) (exec i (paged g))).gangs 0).getD g

/-- R122, R167: a store buffers its low bytes for the translated address, and memory stays. -/
theorem test_sst16 :
    let t := nextOf (paged memGang) (exec (.sst16 (Grp.alone 0) { d := 1, a := 0, b := 63 }) (paged memGang))
    (((aget t.gangs 0).getD memGang).entries.map (fun e => (e.pa, e.va, e.kind)), t.mem == (paged memGang).mem) =
      ([(0x80000000, 0x40000000, .store [0x88, 0x77])], true) := by decide +kernel
/-- R123: the load of two bytes, zero-extended, and R160: one byte, sign-extended, in its lane. -/
theorem test_load_response :
    let s := fun (dest : LoadDest) (size : Nat) =>
      { paged { memGang with loads := [{ pos := [0], slotB := false, pc := 0x1000, kind := .sload, size := size, atHome := true, onChip := false, passed := none, accesses := [⟨0, 0x40000000, 0x80000000, false, false⟩], dest := dest }] } with
        mem := mwriteNat (paged memGang).mem 0x80000000 4 0x1234F6E8 }
    let after := fun (dest : LoadDest) (size : Nat) => (aget (nextOf (s dest size) (exec (.loadResponse 0 0 false) (s dest size))).gangs 0).getD memGang
    (after (.scalar 2) 2).readS false 2 = 0xF6E8 ∧ (after (.vector 3 1 true) 1).lane? 3 0 = 0xFFFFFFE8 ∧ (after (.scalar 2) 2).loads = [] := by decide +kernel
/-- R156, R160, R166: a vector load issues for the lanes that take part, a vector store buffers their words. -/
theorem test_vector_accesses :
    ((ranAt memGang (.vld64 (Grp.alone 0) { byp := true, ds := 4, sb := 0, vo := 0 })).loads.map (fun l => (l.kind, l.size, l.atHome, l.accesses))) =
      [(.vload, 8, true, [⟨0, 0x40000000, 0x80000000, false, false⟩])] ∧
    ((ranAt memGang (.vst64 (Grp.alone 0) { ds := 4, sb := 0, vo := 0 })).entries.map (·.kind)) = [.store (List.replicate 8 0)] := by decide +kernel
/-- R22, R124: an atomic makes its register pending and buffers its operand. -/
theorem test_samo_add :
    let h := ranAt memGang (.samoAdd (Grp.alone 0) { d := 2, a := 0, b := 1 })
    (h.pendS, h.entries.map (·.kind)) = (4, [.amo .add 8 0x1122334455667788 0 (.scalar 2)]) := by decide +kernel
/-- R66, R122, R346: a misaligned scalar store is the fault ALIGN, class 0x0C in the record, with its address. -/
theorem test_misaligned_store :
    let g := { memGang with s := [0x40000001, 5] }
    let t := nextOf (paged g) (exec (.sst32 (Grp.alone 0) { d := 1, a := 0, b := 63 }) (paged g))
    ((t.part 0).heldFaults.map (fun c => c.cls), (t.part 0).fltProd, ((aget t.gangs 0).getD g).a.parked.isSome, ((aget t.gangs 0).getD g).entries) =
      ([.align], 1, true, []) := by decide +kernel
/-- R341, R349: an access to a page that is not resident parks the slot with an open record. -/
theorem test_page_miss :
    let g := { memGang with s := [0x80000000, 5] }
    let t := nextOf (paged g) (exec (.sst32 (Grp.alone 0) { d := 1, a := 0, b := 63 }) (paged g))
    ((t.part 0).openRecords.map (fun x => (x.1, x.2.cls)), (t.part 0).heldFaults, ((aget t.gangs 0).getD g).a.pc) = ([(0, .xlatMiss)], [], 0x1000) := by
  decide +kernel
/-- R124, R125, R170: operations on words, the lock word of R125 with one reader, and the quantum's stores in order (R303). -/
theorem test_operations :
    amoApply .add 32 0xFFFFFFFF 2 0 = (1, true) ∧ (amoApply .minI 32 0xFFFFFFFF 2 0).1 = 0xFFFFFFFF ∧ (amoApply .minN 32 0xFFFFFFFF 2 0).1 = 2 ∧
    (amoApply .cas 64 5 9 5).1 = 9 ∧ (amoApply .incw 32 7 7 0).1 = 0 ∧ amoApply .racq 32 0 0 0 = (1, true) ∧ amoApply .wacq 32 1 0 0 = (0x10001, false) ∧
    amoApply .wrel 32 0x80000000 0 0 = (0, true) := by decide +kernel
/-- R302, R303: a commit performs the gang's stores in program order. -/
theorem test_quantum_commit :
    let e := fun (n : Nat) (x : Byte) => Entry.mk [n] 0 [0, 0] 0x40000000 0x80000000 false false 0x1000 false 96 (.store [x])
    let g := { memGang with entries := [e 1 7, e 0 9], phase := .ended, detstep := 0 }
    mread (nextOf (paged g) (exec (.quantumCommit 0 0) (paged g))).mem 0x80000000 = 7 := by decide +kernel
/-- R168, R169: a scratchpad store and load of one lane. -/
theorem test_scratchpad :
    let t := nextOf (paged memGang) (exec (.vssp32 (Grp.alone 0) { ds := 1, sb := 63, vo := 0 }) (paged memGang))
    mreadNat (t.core 0).scratch 0 4 = 0xAABBCCDD ∧
    ((ranAt memGang (.vlsp32 (Grp.alone 0) { ds := 4, sb := 63, vo := 0 })).landSlot false).lane? 4 0 = 0 := by decide +kernel
/-- R174 to R179: a tile given to the engines, its status word, and a buffer of two slots of one tile. -/
theorem test_tiles :
    let t := nextOf (paged memGang) (exec (.trel (Grp.alone 0) { t := 5 }) (paged memGang))
    let u := { t with gangs := [(0, { memGang with s := [0, 0x10206] })] }
    let w := nextOf u (exec (.cbdef (Grp.alone 0) { d := 1, t := 0x602 }) u)
    (t.core 0).scratchOwn = 0x20 ∧ (((aget (nextOf u (exec (.tstat (Grp.alone 0) { d := 2, t := 5 }) u)).gangs 0).getD memGang).landSlot false).readS false 2 = 1 ∧
    (w.core 0).scratchOwn = 0xE0 ∧ ((aget w.crews 0).getD programCrew).buf 2 =
      { defined := true, first := 6, slots := 2, span := 1, free := 2, filled := 0, widx := 0, ridx := 0, held := [] } := by decide +kernel
/-- R207: `mzero` completes by clearing its tile, here tile 3's element (0, 1). -/
theorem test_mzero :
    let s0 := (paged memGang).setCore 0 { Core.empty with acc := mwriteNat [] (3 * 1024 + 4) 4 77 }
    let s1 := nextOf s0 (exec (.mzero (Grp.alone 0) { k := 3 }) s0)
    let s2 := nextOf s1 (exec (.matrixOperationStart 0) s1)
    let s3 := nextOf s2 (exec (.matrixOperationCompletion 0 0) s2)
    ((s1.core 0).ops.length, mreadNat (s3.core 0).acc (3 * 1024 + 4) 4, (s3.core 0).ops) = (1, 0, []) := by decide +kernel
/-- R186, R190: the element (0, 1) of an i8 product whose one pair is -2 and 3, added to C. -/
theorem test_mma_i8 :
    let op : MatOp := { num := 0, gang := none, batch := 1, pc := 0, slotNo := 0, crewKey := 0, word := .dense 5, c := 0, na := false, nb := false, zc := false, becalm := false,
                        em := 16, en := 16, ek := 32, sat := false, a := [[0xFE], [], [], []], b := [[0, 3], [], [], []], sa := [], sb := [], ta := 0, tb := 0,
                        ma := [], mb := [], tiles := [], started := true, stopping := false, issued := 0, total := 0 }
    opElem op (fun _ => 0) 0 1 10 = 4 := by decide +kernel
/-- R114, R116: `step` waits for its successor, `end` ends the task. -/
theorem test_step_end :
    (ranAt memGang (.step (Grp.alone 0) { a := 1, n := 0 })).phase =
      .waiting { entry := 0x1122334455667788, pc := 0x1000, descriptors := [], barrier := none, host := [], held := false } ∧
    (ranAt memGang (.opEnd (Grp.alone 0))).phase = .ended := by decide +kernel
/-- R117: the word that `trap` leaves, with bit 63, its number and the pc, and its target, the launch's trap entry. -/
theorem test_trap :
    let l := { programLaunch with words := programLaunch.words.set 4 0x3000 }
    let s := { paged memGang with launches := [(0, l)] }
    let h := ((aget (nextOf s (exec (.trap (Grp.alone 0) { d := 2, n := 3 }) s)).gangs 0).getD memGang).landSlot false
    (h.readS false 2, h.a.pc) = (0x8600000000001000, 0x3000) := by decide +kernel
/-- R28, R29: `LANE`, and the capability word of the part. -/
theorem test_srd : ((ranAt memGang (.srd (Grp.alone 0) { d := 2, n := 0 })).landSlot false).readS false 2 = 0xFFFFFFFF ∧
    ((ranAt memGang (.srd (Grp.alone 0) { d := 2, n := 9 })).landSlot false).readS false 2 = 0x284007F := by decide +kernel
/-- R118: a spawn item with its payload. -/
theorem test_spawn :
    ((ranAt { memGang with s := [0x4000, 7] } (.spawn (Grp.alone 0) { a := 0, n := 1 })).entries.map (fun e =>
      match e.kind with | .spawn i => (i.entry, i.role, i.payload) | _ => (0, 9, []))) = [(0x4000, 0, [7])] := by decide +kernel
/-- R210, R235: a `trace` sends its rays and gives up its register tile. -/
theorem test_trace :
    let t := nextOf (paged memGang) (exec (.trace (Grp.alone 0) { n := 1, g := 0, k := 63 }) (paged memGang))
    ((t.cmds.map (fun c => (c.2.kind, c.2.slot, c.2.rays.length))), ((aget t.gangs 0).getD memGang).vtOwner) = ([(.trace, some 1, 1)], 2) := by decide +kernel
/-- R225: pairs in the order of their keys, equal keys as they came. -/
theorem test_sorted_words :
    let c := commandOf (paged memGang) cur0 memGang .sort [0, 0, 0, 0, 64 * 2 ^ 40, 0, 0, 0]
    sortedWords c [5, 2, 5] [10, 20, 30] = [2, 0, 20, 5, 0, 10, 5, 0, 30] := by decide +kernel

/-! Steps of the part. -/

/-- R322, R323: a remap moves row sets 0 to 65535. -/
theorem test_remap :
    let s := { State.reset with pkg := { State.reset.pkg with phase := 6 } }
    let s1 := nextOf s (exec (.remapGo 5 3) s)
    let s2 := nextOf s1 (exec (.remapStart 5) s1)
    let s3 := s2.setChannel 5 { s2.channel 5 with bound := 65535 }
    ((s1.channel 5).active, (s2.channel 5).cur, (s2.channel 5).old, ((nextOf s3 (exec (.rowSetMove 5) s3)).channel 5).active) = (true, 3, 0, false) := by decide +kernel
/-- R375, R377: another package's write and read of this one's memory, once its partition accepts the package. -/
theorem test_peer_request :
    let s := (paged memGang).setPart 0 { Part.empty with lnkAccept := 2 }
    let r := fun (a : PeerAccess) => ({ package := 1, part := 0, offset := 0x90000000, access := a, scene := false, tag := 4 } : PeerRequest)
    let t := nextOf s (exec (.peerRequest (r (.write [1, 2]))) s)
    (nextOf t (exec (.peerRequest (r (.read 3))) t)).pkg.replies = [.done 1 4 [], .done 1 4 [1, 2, 0]] := by decide +kernel
/-- R381: a flit in sequence is delivered, and the next one of the flow is awaited. -/
theorem test_flit :
    let s := State.reset.setPort 2 { State.reset.port 2 with up := true }
    let f : Flit := { source := 1, dest := 0, die := 0, cls := 0, sequence := 0, good := true, payload := [9] }
    let t := nextOf s (exec (.flitReception 2 f) s)
    t.pkg.delivered = [f] ∧ (aget t.pkg.flows (1, 0, 0, 0)) = some 1 ∧ (nextOf t (exec (.flitReception 2 f) t)).pkg.delivered = [f] := by decide +kernel
/-- R340, R342: a walk finds the page and the die's buffer keeps it. -/
theorem test_page_walk :
    ((nextOf (paged memGang) (exec (.pageWalk 0 0 0 0x40001234) (paged memGang))).die 0).tlb =
      [{ space := 0, base := 0x40000000, log := 30, leaf := 0x80000007 }] := by decide +kernel
/-- R355: a held cause asserts the line. -/
theorem test_squall :
    let s := nextOf (paged memGang) (exec (.kill 0 0) (paged memGang))
    let t := nextOf s (exec (.squallAssertion 0) s)
    ((t.part 0).asserted, (t.part 0).cause, (t.part 0).heldFaults) = (true, FaultClass.kill.code, []) := by decide +kernel
/-- R411: bring-up phase 5 takes the layout word and the package number. -/
theorem test_boot :
    let s := { State.reset with pkg := { State.reset.pkg with phase := 5, straps := 67 } }
    let t := nextOf s (exec (.bootPhaseCompletion true 0) s)
    (t.pkg.phase, t.pkg.number, t.pkg.layout) = (6, 3, some 0x0302010003) := by decide +kernel
/-- R414: the layout word by mailbox. -/
theorem test_partget :
    let s := (paged memGang).setMailbox 0 { toFirmware := [7, 0], sent := [7, 0], busy := true, toHost := [], valid := false }
    let t := nextOf s (exec (.partget 0) s)
    ((t.mailbox 0).busy, (t.mailbox 0).valid, tget 0 (t.mailbox 0).toHost 1) = (false, true, 0xFFFFFF0000) := by decide +kernel
/-- R419: a throttle takes the clock down by 25. -/
theorem test_clock :
    let s := { State.reset with pkg := { State.reset.pkg with temps := [(0, 0x17FF)] } }
    (nextOf s (exec (.clockThrottle 1) s)).pkg.aclk = 1725 := by decide +kernel

/-- The row runs as the first instruction after reset. -/
theorem test_step_runs_placed_word :
    (match step (State.reset.withFetchWord 32 0x08149ABC) with | .next t => ((aget t.gangs 0).getD programGang).landSlot false | _ => programGang).readS false 20 =
      0xFFFFFFFFFFFF9ABC := by decide +kernel

/-! Witnesses: for each statement of Obligations.lean with hypotheses, states and operands that meet the hypotheses of each of
its clauses together. -/

/-- The hypotheses of `Clear`, decided. -/
def isClear (s : State) (c : Cur) (g : Gang) : Bool :=
  decide (s.cur = some c) && decide (aget s.gangs c.gang = some g) && decide ((g.slot c.slotB).parked = none) && g.flight.isEmpty &&
    g.loads.isEmpty && (g.slot c.slotB).haz.isEmpty &&
    (match aget (s.core g.core).benches (benchOf g.slotNo) with | some b => decide (b.cycle ≠ max (s.core g.core).cyc (g.slot c.slotB).ready) | none => true)

theorem clear_of_isClear {s : State} {c : Cur} {g : Gang} (h : isClear s c g = true) : Clear s c g := by
  simp only [isClear, Bool.and_eq_true, decide_eq_true_eq, List.isEmpty_iff] at h
  obtain ⟨⟨⟨⟨⟨⟨h1, h2⟩, h3⟩, h4⟩, h5⟩, h6⟩, h7⟩ := h
  exact ⟨h1, h2, h3, h4, h5, h6, fun b hb => by simpa [hb] using h7⟩
/-- The hypotheses of `Settled`, decided. -/
def isSettled (s : State) : Bool :=
  s.gangs.all (fun x => match x.2.phase with | .waiting w => w.held && (((parseDeps w.descriptors).getD []).filterMap Dep.site).isEmpty | _ => true) &&
    s.launches.all (fun x => x.2.started) && s.past.isEmpty
theorem settled_of {s : State} (h : isSettled s = true) : Settled s := by
  simp only [isSettled, Bool.and_eq_true, List.all_eq_true, List.isEmpty_iff] at h
  exact ⟨fun x hx w hw => by simpa [hw] using h.1.1 x hx, h.1.2, h.2⟩

/-- The gang of the witnesses whose registers are all usable, in the paged state. -/
theorem clear_paged : Clear (paged memGang) cur0 memGang := clear_of_isClear (by decide +kernel)

theorem witness_ScalarArithmeticAndDivision : Clear (paged memGang) cur0 memGang ∧ (regsS3 { d := 63, a := 0, b := 62 }).all memGang.usable = true :=
  ⟨clear_paged, by decide +kernel⟩
theorem witness_ScalarLogicShiftsAndCompares : Clear (paged memGang) cur0 memGang ∧ (regsS3 { d := 62, a := 63, b := 0 }).all memGang.usable = true :=
  ⟨clear_paged, by decide +kernel⟩
theorem witness_ScalarBitFieldsAndUnary : Clear (paged memGang) cur0 memGang ∧ (regsS3 { d := 61, a := 0, b := 1 }).all memGang.usable = true ∧
    (regsS2 { d := 63, a := 62 }).all memGang.usable = true := ⟨clear_paged, by decide +kernel, by decide +kernel⟩
theorem witness_ScalarImmediates : Clear (paged memGang) cur0 memGang ∧ (regsSI { d := 20, imm := 0x8000 }).all memGang.usable = true :=
  ⟨clear_paged, by decide +kernel⟩
theorem witness_BranchTargets : Clear (paged memGang) cur0 memGang ∧ [Reg.s 61].all memGang.usable = true ∧ [Reg.s 63].all memGang.usable = true :=
  ⟨clear_paged, by decide +kernel, by decide +kernel⟩

/-- A gang whose slot A has a mask and a stack, with the lanes of `m3`. -/
def masked (mask : W32) (stack : List StackEntry) (m3 : W32) : Gang :=
  { programGang with a := { programGang.a with mask := mask, stack := stack }, m := [0, 0, 0, m3] }
/-- A gang whose slot B issues. -/
def inSlotB (stackA stackB : List StackEntry) : Gang :=
  { masked 0xF stackA 3 with b := { Slot.idle with live := true, mask := 0xF0, stack := stackB }, bStart := 0xF0 }
/-- Slot B issues. -/
def curB : Cur := { gang := 0, slotB := true, pc := 0x1000 }
/-- A state in which slot B of gang `g` issues. -/
def issuerB (g : Gang) : State := { issuer g with cur := some curB }

/-- The split, the serialised forms with no lane on either side and with the deepest stack, both kinds of `else`, and `endif`. -/
theorem witness_IfForms :
    (let g := masked 0xF (List.replicate 7 (.loopE 1 1 0)) 3
     Clear (issuer g) cur0 g ∧ g.a.stack.length < 8 ∧ g.b.live = false ∧ g.a.mask &&& g.readM 3 ≠ 0 ∧ g.a.mask &&& ~~~g.readM 3 ≠ 0) ∧
    (let g := masked 0xF [] 0xF0
     Clear (issuer g) cur0 g ∧ g.a.stack.length < 8 ∧ g.a.mask &&& g.readM 3 = 0) ∧
    (let g := masked 0xF [] 0xF
     Clear (issuer g) cur0 g ∧ g.a.mask &&& ~~~g.readM 3 = 0) ∧
    (let g := inSlotB [] []
     Clear (issuerB g) curB g ∧ g.b.stack = [] ∧ g.b.live = true) ∧
    (let g := masked 1 [.ifE 0xF 0xE 1 .thenSide] 0
     Clear (issuer g) cur0 g ∧ g.a.stack = [.ifE 0xF 0xE 1 .thenSide]) ∧
    (let g := masked 1 [.ifE 0xF 0xE 1 .split] 0
     Clear (issuer g) cur0 g ∧ g.a.stack = [.ifE 0xF 0xE 1 .split]) ∧
    (let g := masked 1 [.ifE 0xF 0xE 1 .elseSide] 0
     Clear (issuer g) cur0 g ∧ g.a.stack = [.ifE 0xF 0xE 1 .elseSide] ∧ SideState.elseSide ≠ .split) := by
  refine ⟨⟨clear_of_isClear ?_, ?_⟩, ⟨clear_of_isClear ?_, ?_⟩, ⟨clear_of_isClear ?_, ?_⟩, ⟨clear_of_isClear ?_, ?_⟩, ⟨clear_of_isClear ?_, ?_⟩,
    ⟨clear_of_isClear ?_, ?_⟩, ⟨clear_of_isClear ?_, ?_⟩⟩ <;> decide +kernel

/-- Slot B's end, slot A before and after it, a loop in the slot, a loop of slot A's that slot B leaves, and both ends of `endl`. -/
theorem witness_JoinsAndLoops :
    (let g := inSlotB [.ifE 0xFF 0xF0 0xF .split] []
     Clear (issuerB g) curB g ∧ g.b.stack = []) ∧
    (let g := { inSlotB [.ifE 0xFF 0xF0 0xF .split] [] with a := { programGang.a with mask := 0xF, stack := [.ifE 0xFF 0xF0 0xF .split] } }
     Clear (issuer g) cur0 g ∧ g.a.stack = [.ifE 0xFF 0xF0 0xF .split] ∧ g.b.live = true) ∧
    (let g := { masked 0xF [.ifE 0xFF 0xF0 0xF .split] 0 with joining := [(0x10, 0x20, 3)] }
     Clear (issuer g) cur0 g ∧ g.a.stack = [.ifE 0xFF 0xF0 0xF .split] ∧ g.b.live = false ∧ g.joining = [(0x10, 0x20, 3)]) ∧
    (let g := masked 0xF [] 3
     Clear (issuer g) cur0 g ∧ g.a.stack.length < 8) ∧
    (let g := masked 0xF [.loopE 0xF 0xF 0] 3
     Clear (issuer g) cur0 g ∧ inLoop g.a.stack = true) ∧
    (let g := inSlotB [.ifE 0xFF 0xF0 0xF .split, .loopE 0xFF 0xFF 0] []
     Clear (issuerB g) curB g ∧ inLoop g.b.stack = false ∧ inLoop (belowSplit g.a.stack) = true) ∧
    (let g := masked 0xF [.loopE 0xFF 0xF 0] 3
     Clear (issuer g) cur0 g ∧ g.a.stack = [.loopE 0xFF 0xF 0] ∧ (0xF : W32) ||| 0 ≠ 0) ∧
    (let g := masked 0 [.loopE 0xFF 0 0] 3
     Clear (issuer g) cur0 g ∧ g.a.stack = [.loopE 0xFF 0 0] ∧ (0 : W32) ||| 0 = 0) := by
  refine ⟨⟨clear_of_isClear ?_, ?_⟩, ⟨clear_of_isClear ?_, ?_⟩, ⟨clear_of_isClear ?_, ?_⟩, ⟨clear_of_isClear ?_, ?_⟩, ⟨clear_of_isClear ?_, ?_⟩,
    ⟨clear_of_isClear ?_, ?_⟩, ⟨clear_of_isClear ?_, ?_⟩, ⟨clear_of_isClear ?_, ?_⟩⟩ <;> decide +kernel

/-- Registers at the ends of the file, one register and pairs, with a third operand from OP4. -/
theorem witness_VectorIntegerArithmetic : Clear (paged memGang) cur0 memGang ∧ memGang.groupsReady [(127, 1), (0, 1), (127, 1)] = true ∧
    typeRegs (typeOf (typed 12) 1) = 2 ∧ memGang.groupsReady [(126, 2), (0, 2), (126, 2)] = true ∧
    memGang.groupsReady [(thirdReg (withPfx { Pfx.default with op4 := 126, typ := 12 }) 4, 2)] = true :=
  ⟨clear_paged, by decide +kernel, by decide +kernel, by decide +kernel, by decide +kernel⟩
theorem witness_VectorUnaryAndBitwise : Clear (paged memGang) cur0 memGang ∧ memGang.groupsReady [(127, 1), (0, 1)] = true ∧
    memGang.groupsReady [(127, 1), (0, 1), (3, 1)] = true ∧ memGang.groupsReady [(thirdReg (typed 2) 5, 1)] = true ∧
    typeRegs (typeOf (typed 2) 2) = 1 ∧ (intTyOf (typeOf (typed 2) 2)).w = 32 :=
  ⟨clear_paged, by decide +kernel, by decide +kernel, by decide +kernel, by decide +kernel, by decide +kernel⟩
theorem witness_VectorCompareDotAndImmediates : Clear (paged memGang) cur0 memGang ∧ memGang.groupsReady [(127, 1), (0, 1), (1, 1)] = true ∧
    memGang.groupsReady [(127, 1), (0, 1), (1, 1), (thirdReg (typed 6) 127, 1)] = true ∧ (intTyOf (typeOf (typed 6) 5)).w * 4 = 32 ∧
    (intTyOf (typeOf (typed 3) 3)).w * 2 = 32 ∧ memGang.groupsReady [(127, 1)] = true ∧ typeOf (typed 2) 1 ≤ 2 ∧ (typed 2).fields.sat = false ∧
    (let p := withPfx { Pfx.default with typ := 1, sat := true }; typeOf p 1 = 1 ∧ p.fields.sat = true) ∧
    (let p := withPfx { Pfx.default with typ := 2, sat := true }; typeOf p 1 = 2 ∧ p.fields.sat = true) := by
  refine ⟨clear_paged, ?_⟩; decide +kernel
theorem witness_FloatArithmeticAndDots : Clear (paged memGang) cur0 memGang ∧ memGang.groupsReady [(127, 1), (0, 1), (1, 1)] = true ∧
    memGang.groupsReady [(thirdReg (withPfx { Pfx.default with op4 := 127, typ := 8 }) 5, 1)] = true := by refine ⟨clear_paged, ?_⟩; decide +kernel
theorem witness_FloatCompareAndUnary : Clear (paged memGang) cur0 memGang ∧ memGang.groupsReady [(127, 1), (0, 1), (1, 1)] = true ∧
    memGang.groupsReady [(0, 1), (127, 1)] = true ∧ (∃ n m e, fF32.val 0x3F800000 = .fin n m e) ∧ (∃ n, fF32.val 0 = .zero n) ∧
    (∃ n, fF32.val 0xFF800000 = .inf n) ∧ (∃ n q, fF32.val 0x7FC00001 = .nan n q) :=
  ⟨clear_paged, by decide +kernel, by decide +kernel, ⟨_, _, _, rfl⟩, ⟨_, rfl⟩, ⟨_, rfl⟩, ⟨_, _, rfl⟩⟩
theorem witness_ConversionsAndSpecialFunctions : Clear (paged memGang) cur0 memGang ∧ memGang.groupsReady [(127, 1), (0, 1)] = true ∧
    memGang.groupsReady [(127, 1), (0, 1), (1, 1)] = true ∧ memGang.groupsReady [(127, 1), (0, 2), (126, 2)] = true := by
  refine ⟨clear_paged, ?_⟩; decide +kernel
theorem witness_ComplexAndWelford : Clear (paged memGang) cur0 memGang ∧ memGang.groupsReady [(126, 2), (0, 2), (2, 2)] = true ∧
    memGang.groupsReady [(126, 2), (0, 2), (2, 2), (thirdReg (withPfx { Pfx.default with op4 := 4 }) 126, 2)] = true ∧
    memGang.groupsReady [(126, 2), (0, 2)] = true ∧ memGang.groupsReady [(127, 1), (126, 2)] = true ∧ memGang.groupsReady [(124, 4), (0, 1)] = true ∧
    memGang.groupsReady [(124, 4), (0, 4)] = true ∧ memGang.groupsReady [(127, 1), (124, 4)] = true ∧
    (Welford.mk 0xFFFFFFFF 0 0).n = 0xFFFFFFFF ∧ (Welford.mk 0 5 6).n = 0 ∧ (Welford.mk 1 5 6).n ≠ 0 := by
  refine ⟨clear_paged, ?_⟩; decide +kernel
theorem witness_Shuffles : Clear (paged memGang) cur0 memGang ∧ memGang.groupsReady [(127, 1), (0, 1), (1, 1)] = true ∧
    memGang.groupsReady [(127, 1), (0, 1)] = true ∧
    (∀ l, l < 32 → participates cur0 memGang (Grp.alone 0) l = true → 127 + (memGang.lane? 0 l).toNat % 128 < memGang.vcount →
      memGang.usable (.v (127 + (memGang.lane? 0 l).toNat % 128)) = true) ∧
    [Reg.v 127, .s 63].all memGang.usable = true ∧ memGang.groupsReady [(127, 1)] = true ∧ [Reg.s 63, .v 0].all memGang.usable = true := by
  refine ⟨clear_paged, ?_⟩; decide +kernel
theorem witness_VotesReductionsAndScans : Clear (paged memGang) cur0 memGang ∧ [Reg.s 63, .v 127].all memGang.usable = true ∧
    [Reg.m 0, .v 127].all memGang.usable = true ∧ memGang.groupsReady [(127, 1), (0, 1)] = true ∧
    (∃ y, redTy (Grp.alone 0) = .int y) ∧ (Grp.alone 0).fields.sat = false :=
  ⟨clear_paged, by decide +kernel, by decide +kernel, by decide +kernel, ⟨_, rfl⟩, by decide +kernel⟩

/-- The data page's access of lane 0, with its leaf. -/
def dataAccess (offset : Nat) : Access × W64 := (⟨0, 0x40000000 + offset, 0x80000000 + offset, false, false⟩, 0x80000007)
/-- The paged state once that access has been translated: die 0's buffer and core 0's hold the page. -/
def dataPaged : State := ((paged memGang).gangXlate memGang 0x40000000 .read).1
/-- Its dies. -/
def dataDies : List (Nat × Die) := dataPaged.dies
/-- The access of lane 0 to the data page translates. -/
theorem resident_data (need : Need) (h : need ≠ .fetch) : Resident (paged memGang) memGang need [(0, 0x40000000)] [dataAccess 0] dataPaged := by
  cases need with
  | fetch => exact absurd rfl h
  | read => exact ⟨by decide +kernel, by decide +kernel⟩
  | write => exact ⟨by decide +kernel, by decide +kernel⟩

theorem witness_ScalarLoadsAndStores : Clear (paged memGang) cur0 memGang ∧ (regsS3 { d := 1, a := 0, b := 63 }).all memGang.usable = true ∧
    requestRoom (paged memGang) memGang [(memGang.lowLane, (memGang.readS false 0 + memGang.readS false 63).toNat)] = true ∧
    (memGang.readS false 0 + memGang.readS false 63).toNat % 8 = 0 ∧ bufferUse memGang.entries + 96 ≤ 16384 ∧
    Resident (paged memGang) memGang .read [(memGang.lowLane, (memGang.readS false 0 + memGang.readS false 63).toNat)] [dataAccess 0] dataPaged ∧
    Resident (paged memGang) memGang .write [(memGang.lowLane, (memGang.readS false 0 + memGang.readS false 63).toNat)] [dataAccess 0] dataPaged :=
  ⟨clear_paged, by decide +kernel, by decide +kernel, by decide +kernel, by decide +kernel, resident_data .read (by decide), resident_data .write (by decide)⟩
theorem witness_ScalarAtomicsAndReductions : Clear (paged memGang) cur0 memGang ∧ bufferUse memGang.entries + 96 ≤ 16384 ∧
    Admits (paged memGang) memGang .minI [dataAccess 0] ∧ (memGang.readS false 0).toNat % 8 = 0 ∧
    Resident (paged memGang) memGang .write [(memGang.lowLane, (memGang.readS false 0).toNat)] [dataAccess 0] dataPaged ∧
    (regsS3 { d := 63, a := 0, b := 1 }).all memGang.usable = true ∧ (regsS2 { d := 2, a := 0 }).all memGang.usable = true ∧
    [Reg.s 0, .s 1].all memGang.usable = true ∧ [Reg.s 0, .v 0].all memGang.usable = true ∧ memGang.groupsReady [(126, 2)] = true ∧
    Resident (paged memGang) memGang .write (laneVas cur0 memGang (Grp.alone 0) 0 0) [dataAccess 0] dataPaged ∧
    alignedTo 8 (laneVas cur0 memGang (Grp.alone 0) 0 0) = true ∧ bufferUse memGang.entries + laneSpace 8 * 1 ≤ 16384 := by
  refine ⟨clear_paged, by decide +kernel, ?_, by decide +kernel, resident_data .write (by decide), by decide +kernel, by decide +kernel, by decide +kernel,
    by decide +kernel, by decide +kernel, resident_data .write (by decide), by decide +kernel, by decide +kernel⟩
  intro x hx; left; simp only [List.mem_singleton] at hx; subst hx; decide
theorem witness_AtomicAndLockOperations : (0xFFFFFFFF < 2 ^ 32 ∧ 5 < 2 ^ 32) ∧ (0xFFFFFFFFFFFFFFFF < 2 ^ 64) ∧
    (sext 32 0xFFFFFFFF ≤ sext 32 5) ∧ (sext 32 5 ≤ sext 32 5) ∧ (1 < 2 ∧ 0x3FFF < 2 ^ 14 ∧ 0xFFFF < 2 ^ 16) ∧ 31 < 32 := by decide +kernel
/-- The lowest lane's sites of a `vldl` of two lines. -/
def lineSites : List (Nat × Nat) := [(0, 0x40000000), (32, 0x40000080)]
/-- A group whose prefix leaves no lane. -/
def noLanes : Grp := withPfx { Pfx.default with mask := 1 }
/-- Four lanes whose addresses are a resident word, a misaligned one and two in pages that are not resident. -/
def prefetchGang : Gang :=
  { memGang with v := [[0, 2, 0x40000000, 0x7FFFFFFC]], a := { memGang.a with mask := 0xF } }
theorem witness_VectorLoadsAndPrefetches : Clear (paged memGang) cur0 memGang ∧ [Reg.s 0, .v 0].all memGang.usable = true ∧
    memGang.groupsReady [(124, 4)] = true ∧ alignedTo 16 (laneVas cur0 memGang (Grp.alone 0) 0 0) = true ∧
    requestRoom (paged memGang) memGang (laneVas cur0 memGang (Grp.alone 0) 0 0) = true ∧
    Resident (paged memGang) memGang .read (laneVas cur0 memGang (Grp.alone 0) 0 0) [dataAccess 0] dataPaged ∧
    (regGroup 124 4 ++ [Reg.s 0]).all memGang.usable = true ∧ (memGang.readS false 0).toNat % 128 = 0 ∧
    ((List.range 32).filter (fun l => participates cur0 memGang (Grp.alone 0) l) = [0] ∧ requestRoom (paged memGang) memGang lineSites = true) ∧
    Resident (paged memGang) memGang .read lineSites [dataAccess 0, (⟨32, 0x40000080, 0x80000080, false, false⟩, 0x80000007)]
      (translateLanes memGang .read (paged memGang) lineSites).1 ∧
    ((List.range 32).filter (fun l => participates cur0 memGang noLanes l) = [] ∧ requestRoom (paged memGang) memGang [] = true ∧
      Resident (paged memGang) memGang .read [] [] (paged memGang)) ∧
    (Clear (paged prefetchGang) cur0 prefetchGang ∧ [Reg.s 0, .v 0].all prefetchGang.usable = true ∧
      (laneVas cur0 prefetchGang (Grp.alone 0) 0 0).all (fun a => decide (a.2 < 2 ^ 57)) = true ∧
      (let r := translateLanes prefetchGang .read (paged prefetchGang) (laneVas cur0 prefetchGang (Grp.alone 0) 0 0)
       r.2.ok.length = 2 ∧ r.2.missed.length = 2 ∧ ((r.1.core 0).l1).length + 32 ≤ 2048 ∧ (paged prefetchGang).pkg.badUnits = [] ∧
        r.2.ok.any (fun x => decide (x.1.uncached = false) && decide (x.1.va % 4 = 0)) = true)) := by
  refine ⟨clear_paged, by decide +kernel, by decide +kernel, by decide +kernel, by decide +kernel, resident_data .read (by decide), by decide +kernel, by decide +kernel,
    by decide +kernel, ⟨by decide +kernel, by decide +kernel⟩, ⟨by decide +kernel, by decide +kernel, ⟨rfl, rfl⟩⟩, clear_of_isClear (by decide +kernel), ?_⟩
  decide +kernel
theorem witness_VectorStoresAndAtomics : Clear (paged memGang) cur0 memGang ∧ [Reg.s 0, .v 0].all memGang.usable = true ∧
    Resident (paged memGang) memGang .write (laneVas cur0 memGang (Grp.alone 0) 0 0) [dataAccess 0] dataPaged ∧
    memGang.groupsReady [(124, 4)] = true ∧ alignedTo 16 (laneVas cur0 memGang (Grp.alone 0) 0 0) = true ∧
    bufferUse memGang.entries + laneSpace 16 * 1 ≤ 16384 ∧ Admits (paged memGang) memGang .and [dataAccess 0] ∧
    memGang.groupsReady [(2, 2), (4, 2)] = true := by
  refine ⟨clear_paged, by decide +kernel, resident_data .write (by decide), by decide +kernel, by decide +kernel, by decide +kernel, ?_, by decide +kernel⟩
  intro x hx; left; simp only [List.mem_singleton] at hx; subst hx; decide
theorem witness_ScratchLoadsAndStores : Clear (paged memGang) cur0 memGang ∧ [Reg.s 63, .v 0].all memGang.usable = true ∧
    (laneVas cur0 memGang (Grp.alone 0) 63 0).all (fun a => decide (a.2 < 4096 * (paged memGang).tcount memGang)) = true ∧
    scratchOwned (paged memGang) memGang (laneVas cur0 memGang (Grp.alone 0) 63 0) = false ∧
    memGang.groupsReady [(124, groupOf 16)] = true ∧ alignedTo 16 (laneVas cur0 memGang (Grp.alone 0) 63 0) = true ∧
    (laneVas cur0 memGang (Grp.alone 0) 63 0).all (fun a => !tileHeld (paged memGang) memGang ((paged memGang).physTile memGang (a.2 / 4096))) = true := by
  refine ⟨clear_paged, ?_⟩; decide +kernel

theorem namesTile_of {s : State} {c : Cur} {g : Gang} {t : BitVec 12} {x : TileKind × Nat} (h1 : namedTile c g t = some x) (h2 : tileBeyond s g x = false)
    (h3 : (match tileIndirect t with | some r => g.usable (.s r) | none => true) = true)
    (h4 : (match x with | (.reg, n) => decide (8 * n + 7 < g.vcount) | _ => true) = true) : NamesTile s c g t x := by
  refine ⟨h1, ?_, h2, ?_⟩
  · intro r hr; rw [hr] at h3; exact h3
  · intro n hn; subst hn; simpa using h4

/-- Tiles of each kind at the highest number the crew or the gang has, one of them through a register. -/
theorem witness_FencesAndTiles : Clear (paged memGang) cur0 memGang ∧
    (NamesTile (paged memGang) cur0 memGang 15 (.scratch, 15) ∧ tileOwned (paged memGang) memGang (.scratch, 15) = false ∧
      tileBusy (paged memGang) memGang (.scratch, 15) = false) ∧
    (NamesTile (paged memGang) cur0 memGang 0xE3F (.scratch, 0)) ∧
    (NamesTile (paged memGang) cur0 memGang 0x20F (.acc, 15) ∧ tileOwned (paged memGang) memGang (.acc, 15) = false ∧
      tileBusy (paged memGang) memGang (.acc, 15) = false) ∧
    (NamesTile (paged memGang) cur0 memGang 0x40F (.reg, 15) ∧ (vtRegs 15).all memGang.usable = true ∧ tileOwned (paged memGang) memGang (.reg, 15) = false) ∧
    NamesTile (paged memGang) cur0 memGang 0x60F (.buffer, 15) ∧ NamesTile (paged memGang) cur0 memGang 0x80F (.barrier, 15) ∧
    memGang.usable (.s 63) = true ∧ memGang.b.live = false := by
  refine ⟨clear_paged, ⟨namesTile_of ?_ ?_ ?_ ?_, ?_, ?_⟩, namesTile_of ?_ ?_ ?_ ?_, ⟨namesTile_of ?_ ?_ ?_ ?_, ?_, ?_⟩, ⟨namesTile_of ?_ ?_ ?_ ?_, ?_, ?_⟩,
    namesTile_of ?_ ?_ ?_ ?_, namesTile_of ?_ ?_ ?_ ?_, ?_, ?_⟩ <;> decide +kernel

/-- The paged state with a buffer of the crew. -/
def buffered (b : CBuf) (g : Gang) : State := { paged g with crews := [(0, programCrew.setBuf 15 b)] }
/-- A buffer of two slots, one free and one filled, over tiles 0 and 1. -/
def halfFull : CBuf := { defined := true, first := 0, slots := 2, span := 1, free := 1, filled := 1, widx := 1, ridx := 0, held := [] }

/-- A definition over the crew's last tile, a dissolution, and the release of the only filled slot. -/
theorem witness_CircularBuffers :
    (let g := { memGang with s := [0, 0x1010F] }
     let v := g.readS false 1
     Clear (paged g) cur0 g ∧ g.usable (.s 1) = true ∧ NamesTile (paged g) cur0 g 0x60F (.buffer, 15) ∧ g.crewKey = some 0 ∧
      aget (paged g).crews 0 = some programCrew ∧ bits v 63 21 = 0 ∧ bit v 15 = false ∧ (programCrew.buf 15).defined = false ∧ 0 < bits v 14 8 ∧
      bits v 14 8 ≤ 64 ∧ 0 < bits v 20 16 ∧ bits v 20 16 ≤ 16 ∧ bits v 7 0 + bits v 14 8 * bits v 20 16 ≤ programCrew.tcount ∧
      ([15].all (fun t => !tileOwned (paged g) g (.scratch, t) && !tileBusy (paged g) g (.scratch, t))) = true) ∧
    (let s := buffered halfFull memGang
     Clear s cur0 memGang ∧ memGang.usable (.s 63) = true ∧ NamesTile s cur0 memGang 0x60F (.buffer, 15) ∧
      aget s.crews 0 = some (programCrew.setBuf 15 halfFull) ∧ bits (memGang.readS false 63) 63 0 = 0 ∧
      ((programCrew.setBuf 15 halfFull).buf 15).defined = true ∧ (crewCommands s 0).all (fun x => !x.advances 15) = true) ∧
    (let g := { memGang with s := [0, 1] }
     let s := buffered halfFull g
     Clear s cur0 g ∧ g.usable (.s 1) = true ∧ NamesTile s cur0 g 0x60F (.buffer, 15) ∧ aget s.crews 0 = some (programCrew.setBuf 15 halfFull) ∧
      0 < bits (g.readS false 1) 6 0 ∧ bits (g.readS false 1) 6 0 ≤ halfFull.filled ∧
      ([0].all (fun t => !tileOwned s g (.scratch, t) && !tileBusy s g (.scratch, t))) = true) := by
  refine ⟨⟨clear_of_isClear ?_, ?_, namesTile_of ?_ ?_ ?_ ?_, ?_⟩, ⟨clear_of_isClear ?_, ?_, namesTile_of ?_ ?_ ?_ ?_, ?_⟩,
    ⟨clear_of_isClear ?_, ?_, namesTile_of ?_ ?_ ?_ ?_, ?_⟩⟩ <;> decide +kernel

/-- An operation that has started, on tile 0. -/
def startedOp (form : MatForm) (ek : Nat) : MatOp :=
  { num := 0, gang := some 0, batch := 1, pc := 0, slotNo := 0, crewKey := 0, word := form, c := 0, na := false, nb := true, zc := false, becalm := false, em := 16, en := 0, ek := ek,
    sat := true, a := [[1]], b := [[2]], sa := [], sb := [], ta := 0, tb := 0, ma := [], mb := [], tiles := [], started := true, stopping := false, issued := 0,
    total := 0 }

/-- A dense f16 operation whose fragments are zeros. -/
def startedZeros : MatOp := { startedOp (.dense 0) 4 with a := [], b := [] }
/-- In a scratchpad of zeros every element of a sparse tile is 0, as in fragments of zeros. -/
theorem zero_elements (m : List Byte) (sa k : Nat) : tileElem (MatForm.sparse 0).shape (fun _ => 0) m sa 0 k = fragElem [] 16 0 k := by
  have h : fragElem [] 16 0 k = 0 := by simp [fragElem, tget, elem]
  rw [h]; unfold tileElem; split
  · simp only [MatForm.shape]; decide +kernel
  · rfl
/-- A dense and a sparse operation with their extents in `s63`, on the crew's last tile; operations that complete. -/
theorem witness_MatrixOperations :
    (Clear (paged memGang) cur0 memGang ∧ memGang.b.live = false ∧ ((paged memGang).core 0).ops.length < 64 ∧ 15 < (paged memGang).ccount memGang ∧
      tileOwned (paged memGang) memGang (.acc, 15) = false ∧ (groupRegs 31 4 ++ groupRegs 0 4).all memGang.usable = true ∧
      (groupRegs 30 5 ++ groupRegs 0 5).all memGang.usable = true ∧
      (let v := memGang.readS false 63
       memGang.usable (.s 63) = true ∧ bits v 7 0 ≤ 16 ∧ bits v 15 8 ≤ 16 ∧ bits v 23 16 ≤ 8 ∧ bits v 63 25 = 0 ∧ (bit v 24 = true → false = true)) ∧
      (let sa := bits (memGang.lane? 124 0) 19 0
       sa % 32 = 0 ∧ sa + 32 ≤ 4096 * (paged memGang).tcount memGang ∧ (tilesSpanned sa 32).all (fun t => !tileOwned (paged memGang) memGang (.scratch, t)) = true)) ∧
    (∀ form ek, let s := (paged memGang).setCore 0 { Core.empty with ops := [startedOp form ek] }
      (s.core 0).ops[0]? = some (startedOp form ek) ∧ (startedOp form ek).started = true ∧ (startedOp form ek).stopping = false ∧ arrayStops s 0 = false ∧
      ((s.core 0).ops.take 0).all (fun p => decide (p.c ≠ (startedOp form ek).c)) = true ∧ (startedOp form ek).em ≤ 16 ∧ (startedOp form ek).en ≤ 16) ∧
    (startedOp .zero 0).word = .zero ∧ (startedOp (.dense 5) 32).word = .dense 5 ∧ (startedOp (.dense 0) 4).word = .dense 0 ∧ (startedOp (.dense 0) 4).ek = 4 ∧
    (let p := { startedOp (.sparse 0) 4 with ma := [1], mb := [1] }
     let d := startedZeros
     (0, 0, 4) ∈ [(0, 0, 4), (1, 1, 4), (2, 2, 8), (3, 5, 8)] ∧ p.word = .sparse 0 ∧ d.word = .dense 0 ∧ d.na = p.na ∧ d.nb = p.nb ∧ d.zc = p.zc ∧ d.ek = p.ek ∧ d.sat = p.sat ∧
      (∀ k, tileElem p.word.shape (fun _ => 0) p.ma p.ta 0 k = fragElem d.a p.word.shape.w 0 k) ∧
      (∀ k, tileElem p.word.shape (fun _ => 0) p.mb p.tb 0 k = fragElem d.b p.word.shape.w 0 k) ∧
      (∀ q, 4 * q < p.ek → ∃ k, 4 * q ≤ k ∧ k < 4 * q + 4 ∧ k < p.ek ∧ mapBit p.word.shape p.ma 0 k = true ∧ mapBit p.word.shape p.mb 0 k = true)) ∧
    ((fF32.val (0x3F800000 : W32).toNat).isNan = false ∧ (0x3F800000 : W32) ≠ 0x80000000) := by
  refine ⟨⟨clear_paged, ?_⟩, fun form ek => ⟨rfl, rfl, rfl, rfl, rfl, by show 16 ≤ 16; decide, by show 0 ≤ 16; decide⟩, rfl, rfl, rfl, rfl,
    ⟨?_, rfl, rfl, rfl, rfl, rfl, rfl, rfl, zero_elements _ _, zero_elements _ _, ?_⟩, ?_⟩
  · decide +kernel
  · decide
  · intro q hq
    have : q = 0 := by have : 4 * q < 4 := hq; omega
    subst this; exact ⟨0, by decide, by decide, by decide, by decide +kernel, by decide +kernel⟩
  · decide +kernel

/-- Descriptors that are 0 and that name each width, and the crew's last accumulator tile. -/
theorem witness_MatrixMoves : Clear (paged memGang) cur0 memGang ∧ memGang.b.live = false ∧ (Reg.s 63 :: groupRegs 31 4).all memGang.usable = true ∧
    (let s := paged memGang
     let v := memGang.readS false 63
     bits v 23 20 = 0 ∧ bits v 63 43 = 0 ∧ bits v 42 40 = 0 ∧ bits v 19 0 % 16 = 0 ∧ bits v 39 24 % 16 = 0 ∧
      ((List.range 16).map (fun r => (bits v 19 0 + r * bits v 39 24, 32))).all (fun r => decide (r.1 + r.2 ≤ 4096 * s.tcount memGang)) = true ∧
      ((List.range 16).map (fun r => (bits v 19 0 + r * bits v 39 24, 32))).all (fun r => (tilesSpanned r.1 r.2).all (fun t => !tileOwned s memGang (.scratch, t))) = true) ∧
    ([(0, 32), (1, 16), (2, 8), (3, 4)].all (fun (code, w) =>
      let g := { memGang with s := [w64 (code * 2 ^ 40 + 48 * 2 ^ 24)] }
      let v := g.readS false 0
      let rows := (List.range (256 / w)).map (fun k => (bits v 19 0 + k * bits v 39 24, 2 * w))
      isClear (paged g) cur0 g && decide (bits v 23 20 = 0) && decide (bits v 63 43 = 0) && decide (bits v 42 40 = code) &&
        decide (bits v 19 0 % 16 = 0) && decide (bits v 39 24 % 16 = 0) && rows.all (fun r => decide (r.1 + r.2 ≤ 4096 * (paged g).tcount g)) &&
        rows.all (fun r => (tilesSpanned r.1 r.2).all (fun t => !tileOwned (paged g) g (.scratch, t))))) = true ∧
    (vtRegs 15).all memGang.usable = true ∧ 15 < (paged memGang).ccount memGang ∧ tileOwned (paged memGang) memGang (.acc, 15) = false ∧
    tileBusy (paged memGang) memGang (.acc, 15) = false := by
  refine ⟨clear_paged, ?_⟩; decide +kernel

/-- A step with no descriptor and with four, and a barrier's first and last arrival. -/
theorem witness_StepEnds :
    (Clear (paged memGang) cur0 memGang ∧ cur0.slotB = false ∧ memGang.b.live = false ∧ (blockRegs 61 1).all memGang.usable = true ∧
      parseDeps [] = some [] ∧ Watchable (paged memGang) memGang [] (paged memGang)) ∧
    (let words := (List.range 4).map (fun j => memGang.readS false (57 + 1 + j))
     (blockRegs 57 5).all memGang.usable = true ∧ ∃ ds, parseDeps words = some ds ∧ ds.all (fun d => !d.invalid (paged memGang) memGang && !d.beyond (paged memGang) memGang) = true ∧
      (ds.filterMap Dep.site).all (fun x => x.1 % x.2 == 0) = true ∧ Watchable (paged memGang) memGang (ds.filterMap Dep.site) (paged memGang)) ∧
    (let words : List W64 := [0x5000000040000000, 5]
     let ds := (parseDeps words).getD []
     ds.all (fun d => !d.invalid (paged memGang) memGang && !d.beyond (paged memGang) memGang) = true ∧
      ds.filterMap Dep.site = [(0x40000000, 4)] ∧ Watchable (paged memGang) memGang (ds.filterMap Dep.site) dataPaged) ∧
    (let g := { memGang with s := [1, 2] }
     Clear (paged g) cur0 g ∧ g.usable (.s 0) = true ∧ ((paged g).crewOf g).isSome = true ∧ 0 < bits (g.readS false 0) 15 0 ∧
      ((paged g).barrier (barrierKey (paged g) g 15)).arrived = 0 ∧
      (let s := { paged g with barriers := [(barrierKey (paged g) g 15, { gen := 0xFFFFFFFF, latch := 2, arrived := 1 })] }
       Clear s cur0 g ∧ (s.barrier (barrierKey s g 15)).latch = bits (g.readS false 1) 15 0)) := by
  refine ⟨⟨clear_paged, rfl, rfl, ?_, rfl, ⟨[], ?_, ?_, ?_, ?_⟩⟩, ⟨?_, ?_⟩, ⟨?_, ?_, ?_⟩, ⟨clear_of_isClear ?_, ?_, ?_, ?_, ?_, ⟨clear_of_isClear ?_, ?_⟩⟩⟩
  any_goals decide +kernel
  · refine ⟨List.replicate 4 .always, rfl, by decide +kernel, by decide +kernel, [], ?_, ?_, ?_⟩ <;> decide +kernel
  · refine ⟨[(0x40000000, 4, 0x80000000, 0x80000007)], ?_, ?_, ?_, ?_⟩ <;> decide +kernel

/-- An any-hit task, and a callee with a return chain. -/
def hitGang : Gang := { memGang with kind := .anyHit, lane := 1, origins := [{ key := [0], lane := 0, coherence := 0, chain := [{ entry := 0x2000, role := 0 }] }] }
theorem witness_TaskEnds : Clear (paged memGang) cur0 memGang ∧ cur0.slotB = false ∧ memGang.b.live = false ∧
    (Clear (paged hitGang) cur0 hitGang ∧ (regGroup 124 3).all hitGang.usable = true ∧ hitGang.kind = .anyHit ∧ (paged hitGang).pkg.mini = false) ∧
    ((Reg.s 63 :: regGroup 110 18).all hitGang.usable = true ∧
      (((List.range 32).filter (fun l => bit hitGang.lane l)).all (fun l => decide (bits (hitGang.lane? 110 l) 1 0 < (paged hitGang).roles hitGang))) = true ∧
      ((List.range 32).all (fun l => !bit hitGang.a.mask l || decide ((hitGang.origin l).chain.length < 8))) = true) ∧
    ((regGroup 112 16).all hitGang.usable = true ∧ (((List.range 32).filter (fun l => bit hitGang.lane l)).all (fun l => decide ((hitGang.origin l).chain ≠ []))) = true) := by
  refine ⟨clear_paged, rfl, rfl, ⟨clear_of_isClear ?_, ?_⟩, ?_⟩ <;> decide +kernel

/-- A launch with a trap entry. -/
def trapLaunch : Launch := { programLaunch with words := programLaunch.words.set 4 0x3000 }
theorem witness_TrapsAndWork :
    (let s := { paged memGang with launches := [(0, trapLaunch)] }
     Clear s cur0 memGang ∧ memGang.usable (.s 63) = true ∧ aget s.launches memGang.launch = some trapLaunch ∧ bits (trapLaunch.word 4) 56 0 ≠ 0) ∧
    Clear (paged memGang) cur0 memGang ∧ (blockRegs 53 9).all memGang.usable = true ∧ bits (memGang.readS false 53) 1 0 < (paged memGang).roles memGang ∧
    bufferUse memGang.entries + 160 ≤ 16384 ∧ (32 % 16 = 0 ∧ (blockRegs 32 16).all memGang.usable = true) ∧ memGang.usable (.s 0) = true ∧ 17 < 18 := by
  refine ⟨⟨clear_of_isClear ?_, ?_⟩, clear_paged, ?_⟩ <;> decide +kernel
theorem witness_SystemRegisters : Clear (paged memGang) cur0 memGang ∧ memGang.usable (.s 62) = true ∧ 17 < 18 ∧ (paged memGang).crewOf memGang = some programCrew ∧
    ((paged memGang).core memGang.core).ops = [] ∧ aget (paged memGang).launches memGang.launch = some programLaunch := by
  refine ⟨clear_paged, ?_⟩; decide +kernel

/-- A gang whose record stands in `s48` to `s55`. -/
def withRecord (ws : List W64) : Gang := { memGang with s := List.replicate 48 0 ++ ws }
/-- The command of that record. -/
def recordCommand (kind : CmdKind) (ws : List W64) : Command :=
  commandOf (paged (withRecord ws)) cur0 (withRecord ws) kind ((List.range 8).map (fun j => (withRecord ws).readS false (48 + j)))
/-- A copy of one byte within the data page. -/
def copyWords : List W64 := [0x40000000, 0x40000100, 0x010100010001, 0, 0, 0, 0, 0]
theorem witness_EngineCommandsAreSent :
    (48 % 8 = 0 ∧ 48 < 56 ∧ (blockRegs 48 8).all memGang.usable = true ∧ bufferUse memGang.entries + 160 ≤ 16384) ∧
    (let g := withRecord copyWords
     Clear (paged g) cur0 g ∧ copyCount (paged g) g.core < 16 ∧ copyIllegal (paged g) g (recordCommand .cpy copyWords) false = false ∧
      copyMisaligned (recordCommand .cpy copyWords) false = false ∧ copyPerm (paged g) g (recordCommand .cpy copyWords) = false ∧
      copyIllegal (paged g) g (recordCommand .cpyg copyWords) true = false ∧ copyMisaligned (recordCommand .cpyg copyWords) true = false ∧
      copyPerm (paged g) g (recordCommand .cpyg copyWords) = false) ∧
    (let g := withRecord []
     let c := recordCommand .cpyst []
     Clear (paged g) cur0 g ∧ [0, 1, 2, 3, 4, 6].all (fun j => c.word j == 0) = true ∧ bits (c.word 5) 7 0 = 0 ∧ bits (c.word 5) 20 16 = 0 ∧
      bits (c.word 5) 63 22 = 0 ∧ bit (c.word 5) 21 = false) ∧
    (let ws : List W64 := [0x40000000, 0, 0x40001000, 0, 1 + 64 * 2 ^ 40, 0x40002000, 0, 0]
     let g := withRecord ws
     Clear (paged g) cur0 g ∧ (sortCommands (paged g) g.die).length < 32 ∧ sortIllegal (recordCommand .sort ws) = false ∧
      sortMisaligned (recordCommand .sort ws) = false ∧ sortFull (recordCommand .sort ws) = none) ∧
    (let ws : List W64 := [0x40000000, 0x40001000, 4 + 2 ^ 32 * 0, 1 + 2 ^ 40, 0, 0, 0, 0]
     let g := withRecord ws
     Clear (paged g) cur0 g ∧ (sortCommands (paged g) g.die).length < 32 ∧ sortrIllegal (recordCommand .sortr ws) = false ∧
      ((recordCommand .sortr ws).word 0).toNat % 8 = 0 ∧ ((recordCommand .sortr ws).word 1).toNat % 8 = 0 ∧ sortFull (recordCommand .sortr ws) = none) ∧
    (let ws : List W64 := [0x40000000, 0x40001000, 1 + 5 * 2 ^ 32, 0, 0, 0, 0, 0]
     let g := withRecord ws
     Clear (paged g) cur0 g ∧ collIllegal (recordCommand .coll ws) = false ∧ collMisaligned (recordCommand .coll ws) = false) ∧
    (Clear (paged memGang) cur0 memGang ∧ (paged memGang).pkg.mini = false ∧ (Reg.s 63 :: vtRegs 15 ++ vtRegs 0).all memGang.usable = true ∧
      (memGang.readS false 63).toNat % 64 = 0 ∧ bits (memGang.readS false 63) 63 57 = 0) ∧
    (let g := withRecord []
     let cmd := commandOf (paged g) cur0 g .rast ((List.range 8).map (fun j => g.readS false (48 + j)))
     (blockRegs 48 8 ++ vtRegs 15).all g.usable = true ∧ bits (cmd.word 3) 63 32 = 0 ∧ bits (cmd.word 4) 63 2 = 0 ∧ bits (cmd.word 4) 1 0 < 3 ∧
      [5, 6, 7].all (fun j => cmd.word j == 0) = true) := by
  refine ⟨?_, ⟨clear_of_isClear ?_, ?_⟩, ⟨clear_of_isClear ?_, ?_⟩, ⟨clear_of_isClear ?_, ?_⟩, ⟨clear_of_isClear ?_, ?_⟩, ⟨clear_of_isClear ?_, ?_⟩,
    ⟨clear_paged, ?_⟩, ?_⟩ <;> decide +kernel

/-- A grid of one level of resolution 1 over the data page, its record in `s48` to `s55`. -/
def gridGang : Gang := withRecord [0x40000000, 1, 1, 0, 0, 0, 0x40000000, 0]
/-- The addresses of the eight corners' entries of lane 0. -/
def gridSites (size : Nat) : List (Nat × Nat) :=
  (gridCorners ((List.range 3).map (fun a => valF32 (gridGang.lane? (0 + a) 0))) 1 0).map (fun x => (0, 0x40000000 + size * x.2))
theorem witness_HashGrid : Clear (paged gridGang) cur0 gridGang ∧ (paged gridGang).pkg.mini = false ∧
    (let B := fun (j : Nat) => gridGang.readS false (48 + j)
     bits (B 0) 63 57 = 0 ∧ bits (B 6) 63 57 = 0 ∧ B 7 = 0 ∧ bits (B 1) 7 5 = 0 ∧ bits (B 1) 63 13 = 0 ∧ bits (B 1) 4 0 = 1 ∧ bits (B 1) 12 8 ≤ 24 ∧
      0 < bits (B 2) 15 0 ∧ bits (B 0) 56 0 % 4 = 0 ∧ bits (B 6) 56 0 % 8 = 0) ∧
    ((List.range 8).map (fun j => Reg.s (48 + j)) ++ regGroup 0 3).all gridGang.usable = true ∧ (regGroup 127 1).all gridGang.usable = true ∧
    (regGroup 126 2).all gridGang.usable = true ∧ (List.range 32).filter (fun l => participates cur0 gridGang (Grp.alone 0) l) = [0] ∧
    (let r := translateLanes gridGang .read (paged gridGang) (gridSites 4)
     Resident (paged gridGang) gridGang .read (gridSites 4) r.2.ok r.1 ∧
      r.2.ok.all (fun x => !r.1.unreachable x.1.pa && !r.1.refuses x.1.pa && !r.1.bad (memKey 0 x.1.pa)) = true ∧ (paged gridGang).calm = true) ∧
    (let r := translateLanes gridGang .write (paged gridGang) (gridSites 8)
     Resident (paged gridGang) gridGang .write (gridSites 8) r.2.ok r.1 ∧ gridGang.entries = [] ∧ r.2.ok.all (fun x => decide (aperture x.1.pa ≠ 2)) = true) ∧
    bufferUse gridGang.entries + 24 * (16 * 1 * 1) ≤ 16384 ∧
    (let g := { gridGang with a := { gridGang.a with mask := 0 } }
     Clear (paged g) cur0 g ∧ (List.range 32).filter (fun l => participates cur0 g (Grp.alone 0) l) = []) := by
  refine ⟨clear_of_isClear ?_, ?_, ?_, ?_, ?_, ?_, ?_, ⟨⟨?_, ?_⟩, ?_⟩, ⟨⟨?_, ?_⟩, ?_, ?_⟩, ?_, ⟨clear_of_isClear ?_, ?_⟩⟩
  all_goals decide +kernel

theorem witness_Splats : Clear (paged memGang) cur0 memGang ∧ (paged memGang).pkg.mini = false ∧ memGang.usable (.s 63) = true ∧
    bits (memGang.readS false 63) 19 0 % 16 = 0 ∧ bits (memGang.readS false 63) 19 0 + 48 ≤ 4096 * (paged memGang).tcount memGang ∧
    (List.range 12).all (fun j => !bit ((paged memGang).core 0).scratchOwn ((paged memGang).physTile memGang ((0 + 4 * j) / 4096))) = true ∧
    (regGroup 124 4 ++ regGroup 122 2).all memGang.usable = true ∧ (3 + 9 ≤ 12 ∧ (regGroup 12 12 ++ regGroup 3 9).all memGang.usable = true) ∧
    (16 + 12 ≤ 28 ∧ (regGroup 16 12 ++ regGroup 28 9).all memGang.usable = true) := by
  refine ⟨clear_paged, ?_⟩; decide +kernel

/-- The paged state with a full fault queue. -/
def fullQueue (g : Gang) : State := (paged g).setPart 0 { Part.empty with fltProd := 63, fltCons := 0xFFFFFFFF }
theorem queueOpen_paged (g : Gang) (h : g.part = 0) (hc : g.core = 0) : QueueOpen (paged g) g := by
  unfold QueueOpen Gang.die; rw [h, hc]; exact ⟨(by decide +kernel : ringReachable ((paged memGang).part 0) ((paged memGang).part 0).fltBase = true), (by decide +kernel : queueFull ((paged memGang).part 0) = false), rfl⟩
theorem witness_FaultRecords : aget (paged memGang).gangs 0 = some memGang ∧ QueueOpen (paged memGang) memGang ∧
    aget (fullQueue memGang).gangs 0 = some memGang ∧ queueFull ((fullQueue memGang).part memGang.part) = true ∧
    memGang.aspace < 256 ∧ memGang.core < 160 ∧ memGang.slotNo < 64 :=
  ⟨by decide +kernel, queueOpen_paged _ rfl rfl, by decide +kernel, by decide +kernel, by decide, by decide, by decide⟩

/-- For each fault, a gang that takes it; for the addresses, one of each kind. -/
theorem witness_FaultsAreTaken : QueueOpen (paged memGang) memGang ∧ Clear (paged memGang) cur0 memGang ∧
    (let g := { memGang with a := { memGang.a with haz := [(0, 2)] } }
     let s := { paged g with ctxs := [(0, { (paged g).ctx 0 with scheck := true })] }
     s.cur = some cur0 ∧ aget s.gangs 0 = some g ∧ g.a.parked = none ∧ g.flight = [] ∧ g.loads = [] ∧ s.scheck g = true ∧
      (regsS3 { d := 2, a := 0, b := 1 }).any (fun r => (g.slot false).haz.any (fun x => x.1 == r.code && decide (unitDist cur0 g (Grp.alone 0) < x.2))) = true) ∧
    (let g := { memGang with pendS := 1 }
     Clear (paged g) cur0 g ∧ (regsS3 { d := 2, a := 0, b := 1 }).any g.pending = true) ∧
    (let g := { memGang with vcount := 8 }
     Clear (paged g) cur0 g ∧ g.vcount ≤ 8) ∧
    (let g := { memGang with vtOwner := 2 }
     Clear (paged g) cur0 g ∧ [15, 0, 1].all (fun n => !g.beyond (.v n) && !g.pending (.v n)) = true ∧ g.owned (.v 15) = true) ∧
    (let s := { paged hitGang with pkg := { (paged hitGang).pkg with mini := true } }
     Clear s cur0 hitGang ∧ s.pkg.mini = true ∧ hitGang.b.live = false ∧ hitGang.kind = .anyHit ∧ (regGroup 0 3).all hitGang.usable = true) ∧
    (let g := { memGang with s := [0x10000, 2] }
     Clear (paged g) cur0 g ∧ g.usable (.s 0) = true ∧ ((paged g).crewOf g).isSome = true ∧ bits (g.readS false 0) 15 0 = 0 ∧
      (let s := { paged g with barriers := [(barrierKey (paged g) g 0, { gen := 0, latch := 3, arrived := 1 })] }
       Clear s cur0 g ∧ 0 < bits (g.readS false 1) 15 0 ∧ (s.barrier (barrierKey s g 0)).arrived ≠ 0 ∧
        (s.barrier (barrierKey s g 0)).latch ≠ bits (g.readS false 1) 15 0)) ∧
    (memGang.usable (.s 2) = true ∧ aget (paged memGang).launches memGang.launch = some programLaunch ∧ bits (programLaunch.word 4) 56 0 = 0) ∧
    (let g := { memGang with s := [0x40000002] }
     Clear (paged g) cur0 g ∧ [Reg.s 0, .v 0, .v 1].all g.usable = true ∧
      (laneVas cur0 g (Grp.alone 0) 0 0).find? (fun a => a.2 % 4 != 0) = some (0, 0x40000002)) ∧
    (let g := { memGang with s := [0x1000] }
     let s := ({ paged g with dies := [(0, { Die.empty with tlb := [{ space := 0, base := 0, log := 30, leaf := 0xB }] })] } : State).setCore 0
       { (paged g).core 0 with tlb := [{ space := 0, base := 0, log := 30, leaf := 0xB }] }
     Clear s cur0 g ∧ laneVas cur0 g (Grp.alone 0) 0 0 = [(0, 0x1000)] ∧ s.gangXlate g 0x1000 .write = (s, .perm)) ∧
    (let g := { memGang with s := [0x80000000] }
     Clear (paged g) cur0 g ∧ laneVas cur0 g (Grp.alone 0) 0 0 = [(0, 0x80000000)] ∧
      (paged g).gangXlate g 0x80000000 .write = (paged g, .miss none)) ∧
    (blockRegs 48 8).any ({ memGang with pendS := BitVec.twoPow 64 48 } : Gang).pending = true := by
  refine ⟨queueOpen_paged _ rfl rfl, clear_paged, ?_, ⟨clear_of_isClear ?_, ?_⟩, ⟨clear_of_isClear ?_, ?_⟩, ⟨clear_of_isClear ?_, ?_⟩, ⟨clear_of_isClear ?_, ?_⟩,
    ⟨clear_of_isClear ?_, ?_, ?_, ?_, ⟨clear_of_isClear ?_, ?_⟩⟩, ?_, ⟨clear_of_isClear ?_, ?_⟩, ⟨clear_of_isClear ?_, ?_⟩, ⟨clear_of_isClear ?_, ?_⟩, ?_⟩ <;> decide +kernel

/-- A gang with a result of each kind on its way, two of them to one register. -/
def landingGang : Gang :=
  { memGang with flight := [⟨false, false, 9, 9, .scalar 5 1⟩, ⟨false, false, 3, 0, .scalar 61 2⟩, ⟨false, true, 4, 0, .mask 7 3⟩,
      ⟨false, false, 5, 0, .vector 127 1 [7]⟩, ⟨false, false, 2, 0, .scalar 5 8⟩] }
theorem witness_HintsAndAging : Clear (paged memGang) cur0 memGang ∧ (5 : BitVec 8) ≠ 0 ∧ aget (paged landingGang).gangs 0 = some landingGang ∧
    ([1, 2, 3, 4].all (fun k => match landingGang.flight[k]? with
      | some f => decide (f.lands ≤ ((paged landingGang).core 0).cyc) &&
        landingGang.flight.all (fun x => decide (x.write.reg ≠ f.write.reg) || decide (f.lands ≤ x.lands)) | none => false)) = true ∧
    (landingGang.flight[0]?.map (fun f => decide (((paged landingGang).core 0).cyc < f.lands))) = some true ∧ 61 < 62 ∧ 7 ≠ 0 ∧
    (let g := { memGang with a := { memGang.a with passed := true } }
     let s := (paged g).setCore 0 { (paged g).core 0 with cyc := 4096 + g.a.ready }
     aget s.gangs 0 = some g ∧ ready s g false = true ∧ g.a.aged = false ∧ g.a.ready + 4096 ≤ (s.core g.core).cyc) := by
  refine ⟨clear_paged, ?_⟩; decide +kernel

/-- A load of the gang's first group. -/
def loadAt (pos : Nat) (kind : AccessKind) (size : Nat) (atHome onChip : Bool) (as : List Access) (dest : LoadDest) : Load :=
  { pos := [pos], slotB := false, pc := 0x1000, kind := kind, size := size, atHome := atHome, onChip := onChip, passed := none, accesses := as, dest := dest }
/-- A gang with outstanding accesses. -/
def loadsOf (ls : List Load) : Gang := { memGang with loads := ls }
/-- A gang with one outstanding load. -/
def loading (kind : AccessKind) (size : Nat) (atHome : Bool) (as : List Access) (dest : LoadDest) : Gang :=
  loadsOf [loadAt 0 kind size atHome false as dest]
/-- Accesses of the first and the last lane. -/
def twoLanes : List Access := [⟨0, 0x40000000, 0x80000000, false, false⟩, ⟨31, 0x40000100, 0x80000100, false, false⟩]
/-- An access of the first lane. -/
def oneLane : List Access := twoLanes.take 1
/-- No partition of a program's state counts accesses. -/
theorem counters_off (g : Gang) (p : Nat) : ((paged g).part p).nthr = 0 := by
  rfl
/-- A load that must wait for an earlier one of the same bytes; loads of each kind that are performed, one of them from an L1 that holds
its line; scratchpad accesses; and faults: no route, a refused page, an uncorrectable unit and a refusal by another package. -/
theorem witness_LoadsArePerformed :
    (let g := loadsOf [loadAt 0 .sload 8 true false oneLane (.scalar 4), loadAt 1 .vload 4 true false oneLane (.vector 5 1 false)]
     aget (paged g).gangs 0 = some g ∧ g.mayPerform (paged g) (loadAt 1 .vload 4 true false oneLane (.vector 5 1 false)) = false) ∧
    (∀ g p, ((paged g).part p).nthr = 0) ∧
    (let g := loading .sload 8 true oneLane (.scalar 61)
     let s := paged g
     aget s.gangs 0 = some g ∧ g.loads.length = 1 ∧ g.mayPerform s (loadAt 0 .sload 8 true false oneLane (.scalar 61)) = true ∧ s.calm = true ∧
      s.pkg.softUnits = [] ∧ s.unreachable 0x80000000 = false ∧ s.refuses 0x80000000 = false ∧ s.bad (memKey g.part 0x80000000) = false) ∧
    (let g := loading .vload 16 false twoLanes (.vector 124 4 false)
     let s := paged g
     aget s.gangs 0 = some g ∧ s.calm = true ∧ s.pkg.softUnits = [] ∧ 4 = max 1 (16 / 4) ∧
      twoLanes.all (fun a => !s.unreachable a.pa && !s.refuses a.pa && !s.bad (memKey g.part a.pa) && decide (a.lane < 32)) = true ∧
      (twoLanes.map (·.lane)).Nodup) ∧
    (let g := loading .vload 1 false oneLane (.vector 127 1 true)
     let s := paged g
     aget s.gangs 0 = some g ∧ 1 = max 1 (1 / 4) ∧ oneLane.length = 1 ∧
      oneLane.all (fun a => !a.uncached && (aget (s.core g.core).l1 (memKey g.part a.pa / 128)).isNone && lineGood s (memKey g.part a.pa / 128)) = true ∧
      (let t := s.setCore 0 { s.core 0 with l1 := [(memKey 0 0x80000000 / 128, List.replicate 128 7)] }
       aget t.gangs 0 = some g ∧ (aget (t.core g.core).l1 (memKey g.part 0x80000000 / 128)).isSome = true)) ∧
    (let g := loading .vgather 8 true twoLanes (.vector 126 2 false)
     let s := paged g
     aget s.gangs 0 = some g ∧ 2 = max 1 (8 / 4) ∧ (loadAt 0 .vgather 8 true false twoLanes (.vector 126 2 false)).gathers = true ∧
      ((packets s g.part 32 twoLanes)[0]?).isSome = true) ∧
    (let g := loading .sload 4 false oneLane (.scalar 5)
     let s := { paged g with pkg := { (paged g).pkg with badUnits := [memKey 0 0x80000000 / 32 + 1] } }
     aget s.gangs 0 = some g ∧ g.mayPerform s (loadAt 0 .sload 4 false false oneLane (.scalar 5)) = true ∧
      oneLane.all (fun a => !a.uncached && (aget (s.core g.core).l1 (memKey g.part a.pa / 128)).isNone && !lineGood s (memKey g.part a.pa / 128) &&
        !s.bad (memKey g.part a.pa)) = true) ∧
    ([LoadDest.store [[1, 2, 3, 4]], .scalar 5, .vector 126 1 false].all (fun dest =>
      let g := loadsOf [loadAt 0 .scratch 4 false true oneLane dest]
      decide (aget (paged g).gangs 0 = some g) && (paged g).calm && g.mayPerform (paged g) (loadAt 0 .scratch 4 false true oneLane dest)) = true) ∧
    (let g := loading .vload 4 true oneLane (.vector 127 1 false)
     let s := { paged g with pkg := { (paged g).pkg with badUnits := [memKey 0 0x80000000 / 32] } }
     aget s.gangs 0 = some g ∧ s.calm = true ∧ s.pkg.softUnits = [] ∧ s.unreachable 0x80000000 = false ∧ s.refuses 0x80000000 = false ∧
      s.bad (memKey g.part 0x80000000) = true) ∧
    (∀ w bad, QueueOpen { paged w with pkg := { (paged w).pkg with badUnits := bad } } memGang) ∧
    (let far : Access := ⟨0, 0x40000000, 2 ^ 50, false, true⟩
     let g := loading .vload 4 true [far] (.vector 127 1 false)
     aget (paged g).gangs 0 = some g ∧ g.peerReads[0]? = some (0, far) ∧ (paged g).unreachable far.pa = true ∧
      (let s := { paged g with pkg := { (paged g).pkg with ports := [(0, { Port.down with up := true, en := true })], routes := [(peerPkg (2 ^ 50), 0x20)], refusals := [2 ^ 50 / 4096] } }
       s.unreachable far.pa = false ∧ s.refuses far.pa = true)) := by
  refine ⟨?_, counters_off, ?_, ?_, ?_, ?_, ?_, ?_, ?_, fun w bad => ⟨?_, ?_, rfl⟩, ?_⟩
  any_goals decide +kernel
  · exact (by decide +kernel : ringReachable ((paged memGang).part 0) ((paged memGang).part 0).fltBase = true)
  · exact (by decide +kernel : queueFull ((paged memGang).part 0) = false)

/-- A waiting gang. -/
def waitGang (held : Bool) : Gang :=
  { memGang with phase := .waiting { entry := 0x2000, pc := 0x1000, descriptors := [], barrier := none, host := [], held := held }, detstep := 1 }
/-- The paged state with the launch's first quantum committed. -/
def committed (g : Gang) : State := { paged g with launches := [(0, { programLaunch with quanta := [(0, 1)] })] }
/-- A commit of the launch's only instance that has performed its entries. -/
def doneAck (packages : List Nat) (host : Bool) (gang : Option Nat) : Ack :=
  { launch := 0, inst := programLaunch.instOf (coresOf (paged memGang) 0) 0, gang := gang, pending := [], fences := [], early := [], answers := [], packages := packages,
    host := host, members := [0], writes := [] }
theorem witness_StepsAndCommits :
    (let g := waitGang true
     let s := committed g
     aget s.gangs 0 = some g ∧ g.phase = .waiting { entry := 0x2000, pc := 0x1000, descriptors := [], barrier := none, host := [], held := true } ∧ g.restarting = false ∧
      (s.part g.part).asserted = false ∧ (s.ctx (spaceKey g.part g.aspace)).torn = false ∧ s.acking 0 = false ∧ g.entries.all Entry.heldBack = true ∧
      aget s.launches g.launch = some { programLaunch with quanta := [(0, 1)] } ∧
      g.detstep.toNat ≤ Launch.quantum { programLaunch with quanta := [(0, 1)] } (gangInst s g)) ∧
    (let g := waitGang false
     let s := committed g
     aget s.gangs 0 = some g ∧ s.gangs.filter (fun x => decide (x.2.die = 0)) = [(0, g)] ∧ s.launches.all (fun x => x.2.started) = true ∧
      (((parseDeps []).getD []).filterMap Dep.site) = [] ∧ (s.part g.part).asserted = false ∧ s.past = [] ∧ s.calm = true ∧
      (let t := s.setPart 0 { s.part 0 with asserted := true }
       (t.part g.part).asserted = true ∧ t.gangs.filter (fun x => decide (x.2.die = 0)) = [(0, g)] ∧ t.calm = true ∧ t.past = [])) ∧
    Watchable (committed (waitGang false)) (waitGang false) [] (committed (waitGang false)) ∧
    ([doneAck [5] false none, doneAck [5, 6] false none, doneAck [5] true none, doneAck [] true (some 0), doneAck [5] false (some 0)].all (fun a =>
      let b : Ack := { a with launch := 1 }
      let s := { paged memGang with acks := [b] ++ a :: [a] }
      decide (aget s.launches 0 = some programLaunch) && decide (aget s.gangs 0 = some memGang) && decide (a.inst = programLaunch.instOf (coresOf s programLaunch.part) 0) &&
        !ackOf s 0 0 b && a.pending.isEmpty && !unsent s 5 && !commitHalts s a &&
        commitHalts (s.setPart 0 { s.part 0 with asserted := true }) a) = true) ∧
    (let f : Flit := { source := 0, dest := 5, die := 0, cls := 0, sequence := 0, good := true, payload := [] }
     unsent { paged memGang with pkg := { (paged memGang).pkg with ports := [(0, { Port.down with queue := [f] })] } } 5 = true) := by
  refine ⟨?_, ?_, ⟨[], ?_, ?_, ?_, ?_⟩, ?_, ?_⟩ <;> decide +kernel

/-- An entry of the gang. -/
def entryAt (pos lane pa : Nat) (kind : EntryKind) : Entry :=
  { pos := [pos], lane := lane, key := [0, 0], va := pa - 0x40000000, pa := pa, ms := false, scene := false, pc := 0x1000, slotB := false, space := 96, kind := kind }
/-- An entry at the data page's first byte. -/
def entryOf (kind : EntryKind) : Entry := entryAt 0 0 0x80000000 kind
/-- A gang whose task has ended with two stores. -/
def endedGang : Gang := { memGang with phase := .ended, entries := [entryOf (.store [1]), { entryOf (.store [2]) with pos := [1] }] }
/-- A spawn item. -/
def spawnItem : SpawnItem :=
  { launch := 0, part := 0, aspace := 0, entry := 0x3000, role := 0, payload := [1, 2], key := [0, 1], generation := 1, ident := ⟨0, 0, 0, 0⟩ }
/-- A second gang of the crew, which has atomics, a reduction, a fence and a spawn to commit. -/
def secondGang : Gang :=
  { memGang with
    slotNo := 1, gangIndex := 1, key := [0, 1], phase := .ended
    entries := [entryAt 0 0 0x80000000 (.amo .add 8 1 0 (.scalar 2)), entryAt 1 0 0x80000100 (.red .add 8 5), entryAt 2 0 0 (.fence 2 4), entryAt 3 0 0 (.spawn spawnItem)] }
/-- Both gangs at the end of their task. -/
def bothEnded : State := { paged endedGang with gangs := [(0, endedGang), (1, secondGang)], serial := 2 }
theorem witness_CommitsArePerformed :
    (let s := { paged memGang with acks := [{ doneAck [] false none with pending := [(0, entryOf (.store [1]))] }] }
     aget s.gangs 0 = some memGang ∧ s.acks[0]? = some { doneAck [] false none with pending := [(0, entryOf (.store [1]))] } ∧ s.calm = true ∧ Settled s ∧
      s.pkg.softUnits = [] ∧ s.pkg.badUnits = [] ∧ s.unreachable (entryOf (.store [])).pa = false ∧ s.refuses 0x80000000 = false ∧
      ([EntryKind.store [1], .amo .add 8 1 0 (.scalar 2), .red .minI 4 5, .hgrad [(0, 0x40000000, 0x80000000, 7)], .launch [], .spawn spawnItem, .command 3 (recordCommand .cpy []),
        .items [], .answers []].all (fun k => !(entryOf k).awaitsPort s)) = true ∧ s.bad (memKey 0 0x80000000) = false ∧
      [EntryKind.store [1], .amo .add 8 1 0 (.scalar 2), .red .minI 4 5].all EntryKind.addressed = true ∧
      (let far := { entryOf (.store [1]) with pa := 2 ^ 50 }
       s.unreachable far.pa = true ∧ far.awaitsPort s = false ∧
        (let t := { s with pkg := { s.pkg with ports := [(0, { Port.down with up := true, en := true, train := true })], routes := [(peerPkg (2 ^ 50), 0x20)] } }
         far.awaitsPort t = true) ∧
        (let t := { s with pkg := { s.pkg with ports := [(0, { Port.down with up := true, en := true })], routes := [(peerPkg (2 ^ 50), 0x20)], refusals := [2 ^ 50 / 4096] } }
         far.awaitsPort t = false ∧ t.unreachable far.pa = false ∧ t.refuses far.pa = true)) ∧
      (let t := { s with pkg := { s.pkg with badUnits := [memKey 0 0x80000000 / 32] } }
       t.bad (memKey 0 0x80000000) = true ∧ (unitsOf (memKey 0 0x80000000) 1).find? (fun u => t.pkg.badUnits.contains u && !coversUnit (memKey 0 0x80000000) 1 u) = some (memKey 0 0x80000000 / 32) ∧
        (unitsOf (memKey 0 0x80000000) 32).find? (fun u => t.pkg.badUnits.contains u && !coversUnit (memKey 0 0x80000000) 32 u) = none) ∧
      ({ spawnItem with generation := 15 } : SpawnItem).generation ≤ 15 ∧ 15 < ({ spawnItem with generation := 16 } : SpawnItem).generation) ∧
    (∀ p, ((paged memGang).part p).nthr = 0) ∧
    (let s := bothEnded
     let inst := programLaunch.instOf (coresOf s 0) 0
     let gs := (programLaunch.instCrews (coresOf s 0) 0).flatMap (fun c => (crewGangs s 0 c).filter (fun x => x.2.inQuantum (programLaunch.quantum inst)))
     aget s.launches 0 = some programLaunch ∧ mayCommit s 0 programLaunch 0 = true ∧ octetOthers s programLaunch.part = [] ∧ s.pkg.softUnits = [] ∧ s.pkg.badUnits = [] ∧
      s.calm = true ∧ Settled s ∧ s.loose = false ∧ s.pkg.toLink = [] ∧ commitHalts s (.new 0 inst none) = false ∧ gs = [(0, endedGang), (1, secondGang)] ∧ (gs.map (·.1)).Nodup ∧
      (gs.all (fun x => decide (aget s.gangs x.1 = some x.2))) = true ∧ (commitList gs).length = 6 ∧
      ((commitList gs).all (fun x => match x.2.kind with
        | .store _ => true | .amo _ _ _ _ _ => true | .red _ _ _ => true | .fence _ _ => true | .spawn it => decide (it.generation ≤ 15) | _ => false)) = true ∧
      ((commitList gs).all (fun x => !x.2.global || (decide (aperture x.2.pa = 0) && !x.2.ms))) = true) := by
  refine ⟨⟨?_, ?_, ?_, settled_of ?_, ?_, ?_, ?_, ?_, ?_, ?_, ?_, ?_, ?_, ?_, ?_⟩, counters_off _, ⟨?_, ?_, ?_, ?_, ?_, ?_, settled_of ?_, ?_⟩⟩ <;> decide +kernel

/-- A launch of one crew of two roles, not placed. -/
def newCrewLaunch : Launch := { programLaunch with
  words := [0x0000000008040101, 1, 0, 0, 0, 0x0202000000, 0x0802_0401, 0, 0x1000, 0x2000, 0, 0, 0, 0, 0, 0], placed := [] }
theorem witness_CrewsComeAndGo :
    (let s := { paged memGang with gangs := [], crews := [], launches := [(1, newCrewLaunch)], serial := 2 }
     aget s.launches 1 = some newCrewLaunch ∧ placeable s newCrewLaunch 0 = true ∧ s.gangs.all (fun x => decide (x.1 < s.serial)) = true ∧
      newCrewLaunch.roleList.length = 3 ∧ 0 < newCrewLaunch.scratch ∧ 0 < newCrewLaunch.acc ∧
      s.gangs.any (fun x => decide (x.2.core = Launch.coreFor s newCrewLaunch 0) && decide (x.2.launch = 1)) = false) ∧
    (let g := { memGang with phase := .ended }
     let s := { paged g with launches := [(0, { programLaunch with quanta := [(0, 1)] })] }
     aget s.launches 0 = some { programLaunch with quanta := [(0, 1)] } ∧ aget s.crews (crewKeyOf 0 0) = some programCrew ∧
      releasable s 0 0 { programLaunch with quanta := [(0, 1)] } programCrew = true ∧ (s.ctx (spaceKey 0 0)).torn = false) := by
  decide +kernel

/-- A lane item of a callee. -/
def laneItem (k : Nat) : Item :=
  { launch := 0, part := 0, aspace := 0, kind := .callee, entry := 0x3000, role := 0, generation := 3, origin := ⟨[0], k, 0, []⟩, ident := ⟨0, 0, 0, 0⟩,
    regs := [5, 6], ray := none }
/-- The paged state with work at the die. -/
def withWork (spawns : List SpawnItem) (items : List Item) : State := { paged memGang with serial := 5, dies := [(0, { Die.empty with spawns := spawns, items := items })] }
theorem witness_DetachedTasks :
    (let s := withWork [spawnItem, spawnItem] []
     s.gangs.all (fun x => decide (x.1 < s.serial)) = true ∧ (s.die 0).spawns = spawnItem :: [spawnItem] ∧ aget s.launches spawnItem.launch = some programLaunch ∧
      slotFree s programLaunch 0 39 63 0 = true) ∧
    (let s := withWork [] ((List.range 33).map laneItem)
     (s.die 0).items[1]? = some (laneItem 1) ∧ 32 ≤ ((s.die 0).items.filter (sameGang s (laneItem 1))).length ∧
      slotFree s programLaunch 0 39 59 (laneItem 1).role = true) ∧
    (let s := withWork [] [laneItem 0]
     (s.die 0).items[0]? = some (laneItem 0) ∧ ((s.die 0).items.filter (sameGang s (laneItem 0))).length < 32 ∧
      slotFree s programLaunch 0 39 59 (laneItem 0).role = true) := by
  decide +kernel

/-- The hypotheses of `AtHome`, decided. -/
def isAtHome (s : State) (w : Access.Who) (va n : Nat) (need : Need) (pa : Nat) : Bool :=
  decide (va < 2 ^ 57) && !(s.ctx (spaceKey w.part w.aspace)).torn &&
    (match tlbFind (spaceKey w.part w.aspace) va (s.die w.die).tlb with
     | some t => leafAdmits need t.leaf && !leafCounted t.leaf && decide (pa = entryPA t.leaf + va % 2 ^ t.log) && (!leafScene t.leaf || (octetOthers s w.part).isEmpty)
     | none => false) && decide (memKey w.part pa < 2 ^ 50) && (s.badUnit (memKey w.part pa) n).isNone
theorem atHome_of {s : State} {w : Access.Who} {va n : Nat} {need : Need} {pa : Nat} (h : isAtHome s w va n need pa = true) : AtHome s w va n need pa := by
  simp only [isAtHome, Bool.and_eq_true, decide_eq_true_eq, Bool.not_eq_true', Option.isNone_iff_eq_none] at h
  obtain ⟨⟨⟨⟨h1, h2⟩, h3⟩, h4⟩, h5⟩ := h
  refine ⟨h1, h2, ?_, h4, h5⟩
  revert h3
  cases tlbFind (spaceKey w.part w.aspace) va (s.die w.die).tlb with
  | none => intro h; cases h
  | some t =>
    intro h
    simp only [Bool.and_eq_true, decide_eq_true_eq, Bool.or_eq_true, Bool.not_eq_true', List.isEmpty_iff] at h
    obtain ⟨⟨⟨h6, h10⟩, h7⟩, h8⟩ := h
    exact ⟨t, rfl, h6, h10, h7, fun h9 => h8.resolve_left (by rw [h9]; decide)⟩
/-- The hypotheses of `Refused`, decided. -/
def isRefused (s : State) (w : Access.Who) (va : Nat) (need : Need) : Bool :=
  decide (va < 2 ^ 57) && !(s.ctx (spaceKey w.part w.aspace)).torn &&
    (match tlbFind (spaceKey w.part w.aspace) va (s.die w.die).tlb with | some t => !leafAdmits need t.leaf | none => false)
theorem refused_of {s : State} {w : Access.Who} {va : Nat} {need : Need} (h : isRefused s w va need = true) : Refused s w va need := by
  simp only [isRefused, Bool.and_eq_true, decide_eq_true_eq, Bool.not_eq_true'] at h
  obtain ⟨⟨h1, h2⟩, h3⟩ := h
  refine ⟨h1, h2, ?_⟩
  revert h3
  cases tlbFind (spaceKey w.part w.aspace) va (s.die w.die).tlb with
  | none => intro h; cases h
  | some t => intro h; exact ⟨t, rfl, by simpa using h⟩
/-- The paged state with the data page, the code page and a PRIV page in die 0's translation buffer. -/
def withData (g : Gang) : State :=
  { paged g with dies := [(0, { Die.empty with tlb :=
      [{ space := 0, base := 0x40000000, log := 30, leaf := 0x80000007 }, { space := 0, base := 0, log := 30, leaf := 0xB },
       { space := 0, base := 0xC0000000, log := 30, leaf := 0x83 }] })] }
/-- Die 0's front end. -/
def front : Access.Who := { part := 0, aspace := 0, die := 0, windows := false }

/-- A well-formed record of class 2. -/
def goodRecord : List W64 := [0x0000000010102001, 1, 0, 0, 0, 0, 0x1001, 0, 0x1000, 0, 0, 0, 0, 0, 0, 0]
/-- The same with its constants at 0x40003000, its status record at 0x40004000 with TAG 9, and a START that waits for the 0 at 0x40005000. -/
def fullRecord : List W64 := ((goodRecord.set 3 0x40003000).set 7 0x40004000009).set 12 0x6000000040005000
/-- The same with its status record in a page that is not to be written. -/
def lostRecord : List W64 := goodRecord.set 7 0x4000009
/-- The state with a device launch record of class 2 at die 0. -/
def withDevice (words : List W64) : State :=
  { withData memGang with dies := [(0, { ((withData memGang).die 0) with launches := [{ part := 0, aspace := 0, words := words }] })] }
/-- The state with a record at place 0 of the class-2 queue of context 0, whose ring lies at `base`. -/
def withQueue (base : Nat) (words : List W64) : State :=
  let s := withData memGang
  { s with
    mem := mwriteBytes s.mem 0x80001000 (wordBytes words)
    ctxs := [(0, (s.ctx 0).setQueue 2 { LaunchQueue.empty with base := base, consAddr := 0x40002000, prod := 1 })] }
/-- The record at the queue judged. -/
def judged : State × Bool := judgeRecord (withQueue 0x40001000 fullRecord) (newLaunch 0 0 0 fullRecord) (some 2)
/-- A doorbell; records with no status record, with each reason from 1 to 7, with a START, a status record and constants, and with none
of these readable; a host queue whose turn it is, one that has no turn, and one whose page is not resident; a device record; and launches
that are past, with no status record, with one, and with one that cannot be written. -/
theorem witness_LaunchesComeAndGo : 3 < 4 ∧
    (let s := withData memGang
     s.pkg.softUnits = [] ∧ s.calm = true ∧ Settled s ∧ (newLaunch 0 0 0 goodRecord).status = 0 ∧ (newLaunch 0 0 0 goodRecord).layout.isSome = true ∧
      (match (newLaunch 0 0 0 goodRecord).start with | some .always => true | _ => false) = true ∧ Dep.always.site = none ∧
      ([goodRecord.set 14 1, goodRecord.set 6 0, goodRecord.set 1 0, goodRecord.set 5 0xA000, goodRecord.set 12 1, goodRecord.set 3 4, goodRecord].zipIdx.all (fun (ws, k) =>
        let l := newLaunch 0 0 0 ws
        let reason := if l.reserved = true then 1 else if l.rolesBad = true then 2 else if l.crews = 0 then 3
          else if l.layout = none ∨ coresOf s l.part ≤ bits (l.word 5) 15 8 then 4
          else match l.start with | none => 5 | some d => if d.misaligned || startPerm s l d then 5 else 0
        decide (l.status = 0) && decide ((if reason ≠ 0 then reason else if bits (l.word 3) 56 0 % 8 ≠ 0 then 6 else if bits (l.word 0) 13 12 ≠ 1 then 7 else 0) = k + 1))) = true) ∧
    (let s := withData memGang
     let l := newLaunch 0 0 0 fullRecord
     (l.part, l.aspace, l.die) = (0, 0, 0) ∧ (match l.start with | some (.watch t va n v) => decide ((t, va, n, v) = (1, 0x40005000, 4, 0)) | _ => false) = true ∧ bits (l.word 3) 56 0 = 0x40003000 ∧ l.status = 0x40004000 ∧ l.reserved = false ∧ l.rolesBad = false ∧
      l.crews ≠ 0 ∧ l.layout.isSome = true ∧ bits (l.word 5) 15 8 < coresOf s l.part ∧ bits (l.word 0) 13 12 = 2 ∧ startPerm s l (.watch 1 0x40005000 4 0) = false ∧
      (∀ j, j < 16 → AtHome s front (0x40003000 + 8 * j) 8 .read (0x80003000 + 8 * j)) ∧ AtHome s front 0x40005000 4 .read 0x80005000 ∧
      AtHome s front 0x40004000 16 .write 0x80004000) ∧
    (let s := withData memGang
     let l := newLaunch 0 0 0 lostRecord
     let k := newLaunch 0 0 0 (goodRecord.set 3 0xC0000000)
     Refused s l.who l.status .write ∧ l.status ≠ 0 ∧ bits (l.word 3) 56 0 = 0 ∧ (match l.start with | some .always => true | _ => false) = true ∧
      Refused s k.who (bits (k.word 3) 56 0) .read ∧ k.status = 0 ∧ bits (k.word 3) 56 0 ≠ 0 ∧ bits (k.word 3) 56 0 % 8 = 0 ∧ k.reserved = false ∧
      k.rolesBad = false ∧ k.crews ≠ 0 ∧ k.layout.isSome = true ∧ bits (k.word 5) 15 8 < coresOf s 0 ∧
      (match k.start with | some .always => true | _ => false) = true ∧
      (let m := newLaunch 0 0 0 (goodRecord.set 3 0x100000000)
       Absent s m.who (bits (m.word 3) 56 0) ∧ m.status = 0 ∧ bits (m.word 3) 56 0 % 8 = 0 ∧ m.reserved = false ∧ m.rolesBad = false ∧ m.crews ≠ 0 ∧
        m.layout.isSome = true ∧ bits (m.word 5) 15 8 < coresOf s 0)) ∧
    (let s := withQueue 0x40001000 fullRecord
     let q := (s.ctx (spaceKey 0 0)).queue 2
     2 < 4 ∧ s.pkg.softUnits = [] ∧ nextTurn s 0 2 = some 0 ∧ ([3].all (fun k => !classWaits s 0 0 k)) = true ∧ nextTurn s 0 1 ≠ some 0 ∧ q.owed = false ∧
      AtHome s front (q.base + 128 * (q.cons.toNat % 2 ^ q.logSize)) 128 .read 0x80001000 ∧ fullRecord.length = 16 ∧
      wordBytes fullRecord = mreadBytes s.mem (memKey 0 0x80001000) 128 ∧ judged.2 = true ∧ AtHome judged.1 front q.consAddr 8 .write 0x80002000 ∧
      judged.1.pkg.softUnits = [] ∧ judged.1.pkg.sceneWrites = [] ∧ s.calm = true ∧ judged.1.calm = true ∧ judged.1.launches.all (fun x => x.2.started) = true ∧
      (∀ m ctxs parts, let u := { judged.1 with mem := m, ctxs := ctxs, parts := parts }
        testSteps u = u)) ∧
    (let s := withQueue 0x80000000 []
     let q := (s.ctx (spaceKey 0 0)).queue 2
     nextTurn s 0 2 = some 0 ∧ ([3].all (fun k => !classWaits s 0 0 k)) = true ∧ q.owed = false ∧ Absent s front (q.base + 128 * (q.cons.toNat % 2 ^ q.logSize))) ∧
    (let s := withDevice goodRecord
     ([3, 2, 1, 0].find? (classWaits s 0 0)).bind (deviceHead s 0) = some (0, { part := 0, aspace := 0, words := goodRecord }) ∧
      (judgeRecord s (newLaunch 0 0 0 goodRecord) none).2 = true) ∧
    (let past := fun (status : W64) => { programLaunch with words := programLaunch.words.set 7 status, placed := [], released := [0] }
     let s := fun (l : Launch) => { withData memGang with gangs := [], crews := [], launches := [(0, l)] }
     ([0, 0x40004000009, 0x4000009].all (fun w => decide (aget (s (past w)).launches 0 = some (past w)) && launchOver (s (past w)) 0 (past w) && (s (past w)).pkg.softUnits.isEmpty &&
        (s (past w)).calm && isSettled (s (past w)))) = true ∧
      (past 0).status = 0 ∧ AtHome (s (past 0x40004000009)) (past 0x40004000009).who (past 0x40004000009).status 16 .write 0x80004000 ∧
      Refused (s (past 0x4000009)) (past 0x4000009).who (past 0x4000009).status .write) := by
  refine ⟨by decide, ?_, ?_, ?_, ?_, ?_, ?_, ?_⟩
  · refine ⟨?_, ?_, settled_of ?_, ?_⟩ <;> decide +kernel
  · refine ⟨?_, ?_, ?_, ?_, ?_, ?_, ?_, ?_, ?_, ?_, ?_, fun j hj => atHome_of ?_, atHome_of ?_, atHome_of ?_⟩
    case refine_12 => revert j; decide +kernel
    all_goals decide +kernel
  · refine ⟨refused_of ?_, ?_, ?_, ?_, refused_of ?_, ?_, ?_, ?_, ?_, ?_, ?_, ?_, ?_, ?_, ⟨?_, ?_, ?_, ?_, ?_⟩, ?_⟩ <;> decide +kernel
  · refine ⟨?_, ?_, ?_, ?_, ?_, ?_, atHome_of ?_, ?_, ?_, ?_, atHome_of ?_, ?_, ?_, ?_, ?_, ?_, fun m ctxs parts => testSteps_settled (settled_of ?settled)⟩
    case settled =>
      have h : isSettled judged.1 = true := by decide +kernel
      simp only [isSettled] at h ⊢
      exact h
    all_goals decide +kernel
  · refine ⟨?_, ?_, ?_, ⟨?_, ?_, ?_, ?_, ?_⟩⟩ <;> decide +kernel
  · decide +kernel
  · refine ⟨?_, ?_, atHome_of ?_, refused_of ?_⟩ <;> decide +kernel

/-- The paged state with a pre-emption request under way. -/
def preempting (g : Gang) : State := { paged g with ctxs := [(0, { (paged g).ctx 0 with preBusy := true })] }
/-- A sparse operation that has issued 64 of its pairs. -/
def sparseOp (stopping : Bool) (total : Nat) : MatOp := { startedOp (.sparse 3) 32 with stopping := stopping, issued := 64, total := total }
theorem witness_Preemption :
    ((preempting memGang).ctx 0).preBusy = true ∧ (paged memGang).pkg.phase = 6 ∧
    (let s := { paged memGang with gangs := [], crews := [], ctxs := [(0, { (paged memGang).ctx 0 with preBusy := true })] }
     (s.ctx (spaceKey 0 0)).preBusy = true ∧ contextPlaced s (spaceKey 0 0) = false) ∧
    ((fun (s : State) (discard : Bool) => decide (aget s.launches 0 = some programLaunch) && programLaunch.placed.contains 0 && (s.ctx 0).preBusy &&
        (s.ctx 0).heldGroups.isEmpty && programLaunch.again.isEmpty && !groupCommitting s 0 programLaunch 0 && !(s.part 0).asserted &&
        (discardable s 0 programLaunch 0 == discard)) (preempting memGang) true = true) ∧
    ((fun (s : State) => decide (aget s.launches 0 = some programLaunch) && (s.ctx 0).preBusy && (s.ctx 0).heldGroups.isEmpty &&
        !groupCommitting s 0 programLaunch 0 && !(s.part 0).asserted && !discardable s 0 programLaunch 0) (preempting { memGang with sealed := true }) = true) ∧
    (∀ b total, let s := (paged memGang).setCore 0 { Core.empty with ops := [sparseOp b total] }
      (s.core 0).ops[0]? = some (sparseOp b total) ∧ (sparseOp b total).started = true ∧ arrayStops s 0 = false) ∧
    ((sparseOp false 200).issued / 64 + 1) * 64 < (sparseOp false 200).total ∧ (sparseOp false 100).total ≤ ((sparseOp false 100).issued / 64 + 1) * 64 ∧
    ((sparseOp true 400).stopping = true ∧ ((sparseOp true 400).issued / 64 + 1) * 64 < (sparseOp true 400).total ∧
      256 ≤ (sparseOp true 400).total - ((sparseOp true 400).issued / 64 + 1) * 64 ∧ (sparseOp true 400).issued ≤ (sparseOp true 400).total) := by
  refine ⟨?_, ?_, ?_, ?_, ?_, fun b total => ⟨rfl, rfl, rfl⟩, ?_, ?_, ?_⟩ <;> decide +kernel
/-- The state with the data page's translation at hand and one command. -/
def withCommand (n : Nat) (c : Command) : State := { withData memGang with cmds := [(n, c)] }
/-- A copy of one byte within the data page, or to what `w1` names. -/
def copyCommand (w1 w2 w5 : W64) : Command := recordCommand .cpy [0x40000000, w1, w2, 0, 0x10001, w5, 0, 0]
/-- A stash of one slot at the data page, its occupancy word at 0x40002000, with a second level. -/
def stashed (n : Nat) (c : Command) (occupancy : Nat) : State :=
  let s := withCommand n c
  { s with ctxs := [(0, { s.ctx 0 with stashBase := 0x40000000, stashCfg := 0x1000C, stashOcc := 0x40002000, stashSpill := 0x40010001 })]
           mem := mwriteNat s.mem 0x80002000 4 occupancy }
/-- A command that has started. -/
def begun (c : Command) : Command := { c with started := true }
/-- The state's copy with a buffer of two slots. -/
def advancing (c : Command) (b : CBuf) : State := { withCommand 7 c with crews := [(0, programCrew.setBuf 3 b)] }
/-- A started copy of two rows of two bytes, 16 bytes apart, from `w0` to `w1`. -/
def gridCopy (kind : CmdKind) (w0 w1 w5 w6 w7 : W64) : Command :=
  begun (recordCommand kind [w0, w1, 0x010100020002, 0x1000000010, 0x20002, w5, w6, w7])
/-- The places of such a grid's elements. -/
def gridSite (pa k : Nat) : Site := .home 0 (pa + k / 2 * 16 + k % 2) false
theorem served_of {s : State} {w : Access.Who} {va n : Nat} {need : Need} {pa : Nat} (h : isAtHome s w va n need pa = true) :
    Served s w va n need (.home w.part pa false) := .inr ⟨pa, rfl, atHome_of h⟩
/-- Operations that start, with elements and with none; each start of a copy and each retry; the index list of a gather; the completion
actions with a status record, without, and with one whose page is not resident; elements moved between local memory, the scratchpad and
registers; follow-ons; an uncorrectable source and pages that are not resident; and a marker with and without commands still there. -/
theorem witness_CopiesComplete :
    ([{ startedOp (.sparse 3) 32 with started := false, en := 16 }, { startedOp (.sparse 3) 32 with started := false }, { startedOp .zero 0 with started := false }].all (fun o =>
      let s := (paged memGang).setCore 0 { Core.empty with ops := [startedOp (.dense 0) 4, o] }
      decide ((s.core 0).ops[1]? = some o) && !o.started && ((s.core 0).ops.take 1).all (·.started) && !arrayStops s 0)) = true ∧
    (let c := copyCommand 0x40000100 0x010100010001 0
     let s := withCommand 7 c
     aget s.cmds 7 = some c ∧ c.parked = false ∧ (s.part c.part).asserted = false ∧ s.pkg.softUnits = [] ∧ s.pkg.sceneWrites = [] ∧ c.kind = .cpy ∧ c.started = false ∧
      (s.calm && isSettled s) = true ∧ earlierUnstarted s c.core 7 = false ∧ c.stash = .none ∧ c.adv = false ∧ startCheck s c = some 0 ∧ c.stashSlot s = none) ∧
    (let c := copyCommand 0xFE00004000000000 0x010100010001 0
     let s := withCommand 7 c
     aget s.cmds 7 = some c ∧ (s.calm && isSettled s) = true ∧ c.started = false ∧ earlierUnstarted s c.core 7 = false ∧ c.adv = false ∧ startCheck s c = some 1) ∧
    (let c := recordCommand .cpyg [0xFE00004000000000, 0x40000100, 0x010100020002, 0x1000000010, 0x20002, 0, 0x40003000, 0]
     let s := (withCommand 7 c).setCore 0 { Core.empty with scratchOwn := 0xFFFF }
     aget s.cmds 7 = some c ∧ (s.calm && isSettled s && c.kind == .cpyg) = true ∧ isWindow (c.word 0).toNat = true ∧ c.rows = 2 ∧ c.stashSlot s = none ∧ c.adv = false ∧
      (∀ r, r < 2 → AtHome s c.who (c.field 6 56 0 + 4 * r) 4 .read (0x80003000 + 4 * r)) ∧
      startCheck s { c with index := (List.range 2).map (fun r => w32 (mreadNat s.mem (memKey 0 (0x80003000 + 4 * r)) 4)) } = some 0) ∧
    ([(0, 0, false, false), (1, 0, false, false), (1, 2, false, false), (1, 1, false, false), (3, 1, false, false), (1, 0, true, false), (1, 0, true, true)].all (fun (v, pol, gone, waits) =>
      let c := { copyCommand 0x40000000 (w64 (0x010100010001 + pol * 2 ^ 53)) 0 with discarded := gone }
      let d := if waits then { begun c with stash := .waiting } else c
      let s := stashed 7 d v
      decide (aget s.cmds 7 = some d) && decide (startCheck s { d with stash := .primary } = some 0) && decide (c.fullPol = pol) && decide (d.stashSlot s = some 0) &&
        isAtHome s d.who (occupancyAddress s d 0) 4 .write 0x80002000 && decide (mreadNat s.mem 0x80002000 4 = v) && bit (s.ctxOf d).stashSpill 0 &&
        s.pkg.softUnits.isEmpty && s.pkg.sceneWrites.isEmpty && s.calm && isSettled s && !earlierUnstarted s d.core 7)) = true ∧
    ([(0, 2, false), (0, 0, false), (1, 0, true)].all (fun (free, pol, check) =>
      let c := copyCommand 0x10 (w64 (0x010100010001 + pol * 2 ^ 53)) 0x130000
      let b := { halfFull with free := free }
      let s := advancing c b
      let s1 := { s with crews := aput s.crews 0 ((programCrew.setBuf 3 b).setBuf c.buf { b with free := b.free - 1, widx := (b.widx + 1) % b.slots }) }
      let c1 := { c with slot := some b.widx }
      c.adv && decide (c.slot = none) && decide (c.crewKey = some 0) && decide (aget s.crews 0 = some (programCrew.setBuf 3 b)) && decide ((programCrew.setBuf 3 b).buf c.buf = b) &&
        s.calm && isSettled s && decide (c.fullPol = pol) && !c.discarded && !c.started && !earlierUnstarted s c.core 7 && (!check || (decide (startCheck s1 c1 = some 0) && (c.stashSlot s).isNone)))) = true ∧
    ([0, 0x40004000009, 0x80004000009].all (fun w7 =>
      let c := { gridCopy .cpy 0x40000000 0x40000100 0 0 w7 with landed := true }
      decide (aget (withCommand 7 c).cmds 7 = some c) && (withCommand 7 c).calm && isSettled (withCommand 7 c) && c.started && c.landed && decide (c.stash ≠ .waiting))) = true ∧
    (let c := gridCopy .cpy 0x40000000 0x40000100 0 0 0
     StatusAt (withCommand 7 c) c 0) ∧
    (let c := gridCopy .cpy 0x40000000 0x40000100 0 0 0x40004000009
     StatusAt (withCommand 7 c) c 0x80004000) ∧
    (let c := { gridCopy .cpy 0x40000000 0x40000100 0 0 0x80000000009 with landed := true }
     let s := withCommand 7 c
     c.field 7 63 16 ≠ 0 ∧ Absent s c.who (c.field 7 63 16 * 16) ∧ ringReachable (s.part c.part) (s.part c.part).fltBase = true ∧ queueFull (s.part c.part) = false ∧
      (s.die c.die).hold = []) ∧
    (let c := gridCopy .cpy 0x40000000 0x40000100 0 0 0
     let s := withCommand 7 c
     c.landed = false ∧ c.stash ≠ .waiting ∧ c.rows * c.cols = 4 ∧ c.progress = 0 ∧ c.follow = false ∧ c.code = 0 ∧ (s.calm && isSettled s && decide (copyDest s c = .inl 0x40000100)) = true ∧
      (∀ k, k < 4 → Served s c.who (0x40000000 + k / 2 * 16 + k % 2) 1 .read (gridSite 0x80000000 k)) ∧
      (∀ k, k < 4 → Served s c.who (0x40000100 + k / 2 * 16 + k % 2) 1 .write (gridSite 0x80000100 k))) ∧
    (let c := gridCopy .cpyg 0x40000000 0x40000100 0 0x40003000 0
     let s := withCommand 7 c
     (s.calm && isSettled s && c.kind == .cpyg) = true ∧ isWindow (c.word 0).toNat = false ∧ c.cols = 2 ∧
      (∀ r, r < 2 → AtHome s c.who (c.field 6 56 0 + 4 * r) 4 .read (0x80003000 + 4 * r) ∧ mreadNat s.mem (0x80003000 + 4 * r) 4 = 0) ∧
      (∀ k, k < 4 → Served s c.who (0x40000000 + k % 2) 1 .read (.home 0 (0x80000000 + k % 2) false)) ∧
      (∀ k, k < 4 → memKey 0 (0x80000100 + k / 2 * 16 + k % 2) + 1 ≤ memKey 0 0x80003000)) ∧
    ([(0xFE00000000000000, 0x800000), (0xFE00004000000000, 0)].all (fun (w1, w5) =>
      let c := gridCopy .cpy 0x40000000 w1 w5 0x80000000 0
      let s := (withCommand 7 c).setCore 0 { Core.empty with scratchOwn := 0xFFFF }
      decide (copyDest s c = .inl w1.toNat) && (List.range 4).all (fun k => isWindow (w1.toNat + k / 2 * 16 + k % 2) && c.who.windows &&
        (match windowSite s c.who (w1.toNat + k / 2 * 16 + k % 2) with
         | some (.scratch core o) => decide (w5 = 0 ∧ (core, o) = (0, k / 2 * 16 + k % 2))
         | some (.reg id r l b) => decide (w5 ≠ 0 ∧ (id, r, l, b) = (0, 0, k / 2 * 4, k % 2))
         | _ => false)))) = true ∧
    ([(0, 0), (1, 0), (0, 64)].all (fun (own, n) =>
      let c := gridCopy .cpy 0x40000000 0xFE00000000000000 0x800000 0x80000000 0
      let s := (withCommand 7 c).setCore 0 { Core.empty with accOwn := own, ops := List.replicate n (startedOp (.dense 0) 4) }
      let t := copyMoves s 0 7 4
      s.calm && isSettled s && c.follow && decide (c.kind = .cpy) && !c.discarded && decide (c.gang = some 0) && decide (followFunc c.mword = some 0) &&
        (match aget t.gangs 0 with
         | some g => (tileOwned t g (.acc, (followOp c.mword).c.toNat) == decide (own = 1)) && (arrayFull t g.core == decide (n = 64))
         | none => false))) = true ∧
    (let c := { gridCopy .cpy 0x40000000 0x40000100 0x800000 0x80000000 0 with discarded := true }
     c.follow = true ∧ c.kind = .cpy ∧ c.discarded = true) ∧
    (let c := gridCopy .cpy 0x40000000 0x40000100 0 0 0
     let s := { withCommand 7 c with pkg := { (withCommand 7 c).pkg with badUnits := [memKey 0 0x80000000 / 32] } }
     (s.calm && isSettled s && decide (0 < c.rows * c.cols)) = true ∧ AtHome s c.who 0x40000000 0 .read 0x80000000 ∧ s.badUnit (memKey c.part 0x80000000) 1 = some (memKey 0 0x80000000 / 32) ∧
      isWindow 0x40000000 = false) ∧
    (let c := gridCopy .cpy 0x80000000 0x80000000 0 0 0
     let s := withCommand 7 c
     Absent s c.who 0x80000000 ∧ (s.die c.die).hold = []) ∧
    (let c := begun (recordCommand .cpyg [0xFDFFFFFF00000000, 0x40000100, 0x010100020001, 0x1010000000, 0x20001, 0, 0x40003000, 0])
     let s := { withCommand 7 c with mem := mwriteNat (withCommand 7 c).mem 0x80003000 4 0x410 }
     (s.calm && isSettled s && c.kind == .cpyg && !isWindow (c.word 0).toNat && decide (c.rows * c.cols = 2) && decide (c.progress = 0) &&
        decide (mreadNat s.mem 0x80003000 4 = 0x410) && decide (0 < c.field 4 15 0) && decide (0 < c.field 4 31 16)) = true ∧
      threadOwned s c (((c.word 0).toNat + 0x410 * c.field 3 31 0) % 2 ^ 64) (elemBytes c.sty) = true ∧
      AtHome s c.who (c.field 6 56 0) 4 .read 0x80003000) ∧
    ([(0x01, 0x01, 0), (0x02, 0x03, 0), (0x12, 0x05, 0), (0x03, 0x02, 0x3F800000), (0x17, 0x17, 0x40000000), (0x12, 0x10, 0), (0x10, 0x12, 0), (0x12, 0x14, 0x40000000)].all
      (fun (sty, dty, scale) =>
        let c := recordCommand .cpy [0, 0, w64 (sty * 2 ^ 32 + dty * 2 ^ 40 + 5 * 2 ^ 50), 0, w64 (scale * 2 ^ 32), 0, 0, 0]
        decide (c.sty = sty) && decide (c.dty = dty) && decide (c.scale = scale) && decide (c.field 2 52 50 = 5))) = true ∧
    ((match codeVal 2 7, codeVal 0x12 0xFF800000, codeVal 0x10 0x7C00 with | .int 7, .float 32 (.inf true), .float 16 (.inf false) => true | _, _, _ => false) = true ∧
      codeWidth 0x10 ≤ codeWidth 0x12 ∧ codeWidth 0x10 < codeWidth 0x12) ∧
    ([[], [9]].all (fun covered =>
      let c := { recordCommand .cpyst [] with covered := covered }
      let s := { withCommand 7 c with cmds := [(7, c), (9, c)] }
      decide (aget s.cmds 7 = some c) && !c.parked && decide (c.kind = .cpyst) && decide (c.field 7 63 16 = 0) && (covered.any (stillThere s) == !covered.isEmpty))) = true := by
  refine ⟨?_, ?_, ?_, ?gather, ?_, ?_, ?_, .inl ?_, .inr (atHome_of ?_), ⟨?_, ⟨?_, ?_, ?_, ?_, ?_⟩, ?_, ?_, ?_⟩, ?moves, ?lists, ?_, ?_, ?_, ⟨?_, atHome_of ?_, ?_, ?_⟩,
    ⟨⟨?_, ?_, ?_, ?_, ?_⟩, ?_⟩, ⟨?_, ?_, atHome_of ?_⟩, ?_, ?_, ?_⟩
  case gather =>
    refine ⟨?_, ?_, ?_, ?_, ?_, ?_, fun r hr => atHome_of ?site, ?_⟩
    case site => revert r; decide +kernel
    all_goals decide +kernel
  case moves =>
    refine ⟨?_, ?_, ?_, ?_, ?_, ?_, ?_, fun k hk => served_of ?src, fun k hk => served_of ?dst⟩
    case src => revert k; decide +kernel
    case dst => revert k; decide +kernel
    all_goals decide +kernel
  case lists =>
    refine ⟨?_, ?_, ?_, fun r hr => ⟨atHome_of ?row, ?word⟩, fun k hk => served_of ?src, ?_⟩
    case word => revert r; decide +kernel
    case row => revert r; decide +kernel
    case src => revert k; decide +kernel
    all_goals decide +kernel
  all_goals decide +kernel

/-- A ray that has ended, in lane `l`. -/
def endedRay (l : Nat) : Ray :=
  { lane := l, world := [], inner := none, scene := none, work := [], best := none, visits := 1, drop := 0, code := 1, term := false, wait := .ended, generation := 0,
    origin := ⟨[], 0, 0, []⟩, ident := ⟨0, 0, 0, 0⟩ }
/-- A started sort of two pairs within the data page, and with a full bit and a status record. -/
def sortCommand (w0 : W64) : Command := begun (recordCommand .sort [w0, 0x40000100, 0x40001000, 0x40001100, 0x4400000000002, 0x40002000, 0x200000, 0x40004000009])
/-- A started range command over two keys and four tiles. -/
def rangeCommand : Command := begun (recordCommand .sortr [0x40000000, 0x40001000, 2, 0x40000000004, 0, 0, 0, 0])
/-- What a fresh sort command holds. -/
def isFresh (c : Command) : Bool := !c.landed && decide (c.progress = 0) && decide (c.code = 0) && decide (c.index = []) && decide (c.data = [])
/-- What a command of a die's sort engine meets. -/
def isSorting (s : State) (c : Command) : Bool :=
  decide (aget s.cmds 7 = some c) && !c.parked && !(s.part c.part).asserted && decide (sortCommands s c.die = [(7, c)]) && decide (s.pkg.softUnits = []) &&
    decide (s.pkg.sceneWrites = []) && s.calm && isSettled s
/-- A reduction of one element of 4 bytes over group 0. -/
def collCommand (w2 w7 : W64) : Command := recordCommand .coll [0x40000000, 0x40001000, w2, 5, 0, 0, 0, w7]
/-- The group entry of `n` members beginning with package `p`. -/
def groupBytes (n p : Nat) : List Byte :=
  [BitVec.ofNat 8 (128 + n)] ++ List.replicate 63 0 ++ (List.range n).map (fun k => BitVec.ofNat 8 (p + k)) ++ List.replicate (64 - n) 0
/-- The state with that command and such a group entry, and a route to package 1. -/
def grouped (c : Command) (n p : Nat) (route : Bool) : State :=
  let s := withCommand 7 c
  { (({ s with mem := mwriteBytes s.mem 0x80008000 (groupBytes n p) }).setPart 0 { Part.empty with collGt := 0x40008000 }) with
    pkg := { s.pkg with routes := if route then [(1, 0x20)] else [], ports := [(0, { Port.down with up := true, en := true })] } }
/-- The state's instance has that command alone. -/
def isAlone (s : State) (c : Command) : Bool :=
  decide (collsAt s c.part c.collGroup c.collSeq = [(7, c)]) && (List.range 4).all (fun p => decide (p = c.part ∨ collsAt s p c.collGroup c.collSeq = []))
/-- The instance can start: its entry is at hand for the first time. -/
def startable (s : State) (c : Command) : Bool :=
  decide (aget s.cmds 7 = some c) && !c.parked && !(s.part c.part).asserted && isAlone s c && !c.started && decide (c.entry = []) && decide (s.pkg.softUnits = []) &&
    decide (s.pkg.sceneWrites = []) && s.calm && isSettled s && isAtHome s c.who (groupAddress s c) 128 .read 0x80008000
/-- The members that the group entry gives. -/
def membersAt (s : State) (c : Command) : Option (List (Nat × Nat)) := groupMembers (mreadBytes s.mem (memKey c.part 0x80008000) 128)
/-- Whether a second command was sent, a member is lost, all others have sent, and they agree. -/
def standing (s : State) (c : Command) (ms : List (Nat × Nat)) (peers : List CollPeer) : Bool × Bool × Bool × Bool :=
  let others := ms.filter (· ≠ (0, 0))
  (openHere s c.part c.collGroup c.collSeq || peers.any (·.second), memberLost s ms,
   others.all (fun m => decide (m.1 ≠ s.pkg.number) && decide ((peers.filter (fun p => decide ((p.package, p.part) = m))).length = 1)) &&
     peers.all (fun p => decide ((p.package, p.part) ∈ ms)),
   peers.all (fun p => p.digestOk && p.w2 == c.word 2) && decide (c.collOp = 1 → c.collCount % ms.length = 0))
/-- A place of a ray's unit, whose own scene lies in the data page. -/
def rayPlace0 : RayPlace := { who := front, scene := 0, budget := 4096, unit := 0, home := 0, roleOk := fun _ => true }
/-- A scene of one node, two triangles and one instance. -/
def scene0 : Scene :=
  { nodes := 0x40001000, ncount := 1, root := 0, tris := 0x40002000, tcount := 2, insts := 0x40003000, icount := 1, ahit := 0, first := false }
/-- A ray from (1/4, 1/4, -1) towards z, to 10. -/
def ray0 : Ray :=
  { endedRay 0 with world := [0x3E800000, 0x3E800000, 0xBF800000, 0, 0, 0, 0x3F800000, 0x41200000], visits := 0, code := 0, wait := .run }
/-- A triangle of the plane z = 0, with its number. -/
def triangle0 : List W32 := [0, 0, 0, 0x3F800000, 0, 0, 0, 0x3F800000, 0, 7]
/-- The state with that triangle, a second one that is none, and an instance with the matrix of no change. -/
def sceneState : State :=
  let s := withData memGang
  let put (m : Memory) (a : Nat) (ws : List W32) : Memory := mwriteBytes m a (ws.flatMap (fun w => toBytes 4 w.toNat))
  let one : W32 := 0x3F800000
  { s with mem := put (put s.mem 0x80002000 triangle0) 0x80003000 [one, 0, 0, 0, 0, one, 0, 0, 0, 0, one, 0, 0, 5] }
/-- A triangle's command, of these coordinates. -/
def triangleCommand (x0 y0 x1 y1 x2 y2 : Nat) : Command :=
  recordCommand .rast [w64 (x0 + y0 * 2 ^ 32), w64 (x1 + y1 * 2 ^ 32), w64 (x2 + y2 * 2 ^ 32), 0, 0, 0, 0, 0]
/-- The words of a triangle's command. -/
def coordinate (c : Command) (k : Nat) : W32 := w32 (if k % 2 = 0 then c.field (k / 2) 31 0 else c.field (k / 2) 63 32)
/-- A sort that starts, one with payloads whose places are at home, one that has landed, one whose second key lies in a bad unit and one
whose page is not resident; a range command; a triangle and rays that have ended; a group entry that is malformed, one without the member,
and one with it: a second command, a lost member, one that has not sent, one that disagrees, and all in agreement; a collective that has
started, one that has landed, and re-sends; and a lost route. -/
theorem witness_EnginesComplete :
    (isSorting (withCommand 7 { sortCommand 0x40000000 with started := false }) { sortCommand 0x40000000 with started := false } = true) ∧
    (let c := sortCommand 0x40000000
     let s := withCommand 7 c
     let key := fun (pa : Nat) => memKey c.part pa
     isSorting s c = true ∧ c.started = true ∧ c.kind = .sort ∧ isFresh c = true ∧ c.sortCount = 2 ∧ bit (c.word 4) 50 = true ∧ StatusAt s c 0x80004000 ∧
      (∀ j, j < 2 → AtHome s c.who ((c.word 0).toNat + 8 * j) 8 .read (0x80000000 + 8 * j) ∧ AtHome s c.who ((c.word 2).toNat + 8 * j) 8 .write (0x80001000 + 8 * j) ∧
        AtHome s c.who ((c.word 1).toNat + 4 * j) 4 .read (0x80000100 + 4 * j) ∧ AtHome s c.who ((c.word 3).toNat + 4 * j) 4 .write (0x80001100 + 4 * j)) ∧
      (∀ j, j < 6 → AtHome s c.who ((c.word 5).toNat + 4 * j) 4 .write (0x80002000 + 4 * j)) ∧
      Apart ((List.range 2).map (fun j => (key (0x80001000 + 8 * j), 8)) ++ (List.range 2).map (fun j => (key (0x80001100 + 4 * j), 4)) ++
        (List.range 6).map (fun j => (key (0x80002000 + 4 * j), 4)) ++ [(key 0x80004000, 16)])) ∧
    (let c := { sortCommand 0x40000000 with landed := true }
     isSorting (withCommand 7 c) c = true ∧ StatusAt (withCommand 7 c) c 0x80004000) ∧
    (let c := sortCommand 0x40000018
     let s := { withCommand 7 c with pkg := { (withCommand 7 c).pkg with badUnits := [memKey 0 0x80000020 / 32] } }
     isSorting s c = true ∧ isFresh c = true ∧ StatusAt s c 0x80004000 ∧ AtHome s c.who 0x40000018 8 .read 0x80000018 ∧ AtHome s c.who 0x40000020 0 .read 0x80000020 ∧
      s.badUnit (memKey c.part 0x80000020) 8 = some (memKey 0 0x80000020 / 32)) ∧
    (let c := sortCommand 0x80000000
     let s := withCommand 7 c
     isSorting s c = true ∧ isFresh c = true ∧ 0 < c.sortCount ∧ Absent s c.who 0x80000000 ∧ ringReachable (s.part c.part) (s.part c.part).fltBase = true ∧
      queueFull (s.part c.part) = false ∧ (s.die c.die).hold = []) ∧
    (let c := rangeCommand
     let s := withCommand 7 c
     isSorting s c = true ∧ c.started = true ∧ c.kind = .sortr ∧ isFresh c = true ∧ c.field 2 31 0 = 2 ∧ c.sortTiles = 4 ∧ c.field 7 63 16 = 0 ∧
      (∀ j, j < 2 → AtHome s c.who ((c.word 0).toNat + 8 * j) 8 .read (0x80000000 + 8 * j)) ∧
      (∀ j, j < 4 → AtHome s c.who ((c.word 1).toNat + 8 * j) 8 .write (0x80001000 + 8 * j)) ∧
      Apart ((List.range 4).map (fun j => (memKey c.part (0x80001000 + 8 * j), 8)))) ∧
    ([CmdKind.rast, .trace].all (fun kind =>
      let c := { recordCommand kind [] with slot := some 15, rays := [endedRay 0, endedRay 31] }
      let s := withCommand 7 c
      decide (aget s.cmds 7 = some c) && !c.parked && !(s.part c.part).asserted && decide (aget s.gangs 0 = some memGang) && decide (c.gang = some 0) &&
        decide (c.kind = kind) && c.rays.all (fun r => r.wait == .ended) &&
        decide (c.rays.map (·.lane)).Nodup && c.rays.all (fun r => decide (r.lane < 32)) && s.answers.all (fun a => decide (a.1.1 ≠ 7)) &&
        !(s.ctx (spaceKey c.part c.aspace)).torn)) = true ∧
    (let c := collCommand 0x0500000001 0
     let peer : CollPeer := { package := 1, part := 0, w2 := 0x0500000001, src := [1, 0, 0, 0], digestOk := true, second := false }
     let openInstance := (grouped c 2 0 true).setPart 0 { ((grouped c 2 0 true).part 0) with collOpen := [{ group := 0, seq := 5, members := [(1, 0)] }] }
     startable (grouped c 0 0 true) c = true ∧ membersAt (grouped c 0 0 true) c = none ∧
      startable (grouped c 2 4 true) c = true ∧ membersAt (grouped c 2 4 true) c = some [(4, 0), (5, 0)] ∧
      startable (grouped c 2 0 true) c = true ∧ startable (grouped c 2 0 false) c = true ∧ startable openInstance c = true ∧
      membersAt (grouped c 2 0 true) c = some [(0, 0), (1, 0)] ∧ membersAt (grouped c 2 0 false) c = some [(0, 0), (1, 0)] ∧
      (grouped c 2 0 true).pkg.number = 0 ∧
      standing openInstance c [(0, 0), (1, 0)] [] = (true, false, false, true) ∧
      standing (grouped c 2 0 true) c [(0, 0), (1, 0)] [{ peer with second := true }] = (true, false, true, true) ∧
      standing (grouped c 2 0 false) c [(0, 0), (1, 0)] [peer] = (false, true, true, true) ∧
      standing (grouped c 2 0 true) c [(0, 0), (1, 0)] [] = (false, false, false, true) ∧
      standing (grouped c 2 0 true) c [(0, 0), (1, 0)] [{ peer with digestOk := false }] = (false, false, true, false) ∧
      standing (grouped c 2 0 true) c [(0, 0), (1, 0)] [peer] = (false, false, true, true) ∧ collSpan c / collBytes c = 1 ∧
      (∀ j, j < 1 → AtHome (grouped c 2 0 true) c.who ((c.word 0).toNat + 4 * j) 4 .read (0x80000000 + 4 * j))) ∧
    ([false, true].all (fun landed =>
      let c := { begun (collCommand 0x0500000001 0x40004000009) with data := [7, 0, 0, 0], landed := landed }
      let s := withCommand 7 c
      s.calm && isSettled s && decide (aget s.cmds 7 = some c) && c.started && decide (c.landed = landed) && decide (c.progress ≤ c.data.length / collBytes c) &&
        isAtHome s c.who (c.field 7 63 16 * 16) 16 .write 0x80004000 && isAtHome s c.who (c.word 1).toNat 4 .write 0x80001000)) = true ∧
    ([0, 1, 2].all (fun kind =>
      let c := collCommand 0x0500000001 0
      let r : CollRecord := { aspace := c.aspace, launch := c.launch, gang := c.gang, words := c.words, discarded := true, code := 0, data := [7, 0, 0, 0] }
      let s := withCommand 7 c
      let s := if kind = 1 then s.setPart 0 { (s.part 0) with colls := [r] } else if kind = 2 then { s with cmds := [(3, { c with discarded := true }), (7, c)] } else s
      decide (aget s.cmds 7 = some c) && !c.started && !c.landed && decide (resendOfDone s c = if kind = 1 then some r else none) &&
        s.calm && isSettled s && (decide (kind ≠ 1) || ((collsAt s 0 c.collGroup c.collSeq).isEmpty)) && (resendOfRunning s 7 c == decide (kind = 2)) && isAtHome s c.who (c.word 1).toNat 4 .write 0x80001000)) = true ∧
    ([false, true].all (fun route =>
      let c := { collCommand 0x0500000001 0 with entry := groupBytes 2 0 }
      let s := grouped c 2 0 route
      s.calm && isSettled s && decide (aget s.cmds 7 = some c) && isAlone s c && !c.landed && !isResend s 7 c && decide (c.entry ≠ []) && decide (c.members = some [(0, 0), (1, 0)]) &&
        (memberLost s [(0, 0), (1, 0)] == !route))) = true ∧
    (let c := recordCommand .sortr [0, 0, 2, 4 + 4 * 2 ^ 40, 0, 0, 0, 0]
     let tile := fun (i : Nat) => tget 0 [1, 1] i / 2 ^ c.field 3 37 32 % 2 ^ c.field 3 44 40
     3 < c.field 3 31 0 ∧ ((List.range 2).all (fun i => decide (tile i ≠ 3))) = true ∧ 1 < c.field 3 31 0 ∧ tile 0 = 1 ∧ tile 1 = 1) ∧
    ((scaled (coordinate (triangleCommand 0 0x7FC00000 0 0 0 0) 1)).isNone &&
      (List.range 6).all (fun k => (scaled (coordinate (triangleCommand 0 0 0x41800000 0 0 0x41800000) k)).isSome) &&
      bit (tget (0 : W32) (coverWords (triangleCommand 0 0 0x41800000 0 0 0x41800000) 0) 0) 0) = true ∧
    ((scaled 0x3F800000).isSome && (scaled 0x80000000).isSome) = true ∧
    (let ray := ray0.world
     Scaled (tget 0 ray) 3 (tget 0 [2 ^ 147, 2 ^ 147, -2 ^ 149]) ∧ Scaled (fun k => tget 0 ray (4 + k)) 3 (tget 0 [0, 0, 2 ^ 149]) ∧ 8 ≤ ray.length ∧
      Scaled (tget 0 triangle0) 9 (tget 0 [0, 0, 0, 2 ^ 149, 0, 0, 0, 2 ^ 149, 0]) ∧ 9 ≤ triangle0.length ∧ scaled (tget 0 ray 3) = some 0 ∧
      scaled (tget 0 ray 7) = some (10 * 2 ^ 149) ∧
      (4 * (2 ^ 147 - 0) + 4 * 0 = 1 * (2 ^ 149 : Int) + 1 * 0 ∧ 4 * (-2 ^ 149 - 0) + 4 * 2 ^ 149 = 1 * (0 : Int) + 1 * 0 ∧ (1 + 1 : Int) ≤ 4 ∧
        (0 * 4 : Int) ≤ 4 * 2 ^ 149 ∧ (4 * 2 ^ 149 : Int) ≤ 10 * 2 ^ 149 * 4) ∧
      triangleHit ray triangle0 = some (0x3F800000, 0x3E800000, 0x3E800000) ∧
      Scaled (tget 0 [0, 0, 0, 0x3F800000, 0x3F800000, 0x3F800000]) 3 (tget 0 [0, 0, 0]) ∧
      Scaled (fun k => tget 0 [0, 0, 0, 0x3F800000, 0x3F800000, 0x3F800000] (3 + k)) 3 (tget 0 [2 ^ 149, 2 ^ 149, 2 ^ 149])) ∧
    (let s := sceneState
     let words := fun (at_ n : Nat) => recordWords s front (fun j => at_ + 16 * j) n
     (s.calm && decide (s.pkg.softUnits = []) && !bit (s.part rayPlace0.who.part).octCfg 0) = true ∧ rayPlace0.unit = rayPlace0.home ∧ ray0.visits < rayPlace0.budget ∧
      (∀ j, j < 8 → AtHome s rayPlace0.who (scene0.nodes + 128 * 0 + 16 * j) 16 .read (0x80001000 + 16 * j)) ∧
      (∀ j, j < 4 → AtHome s rayPlace0.who (scene0.insts + 64 * 0 + 16 * j) 16 .read (0x80003000 + 16 * j)) ∧
      (∀ j, j < 3 → AtHome s rayPlace0.who (scene0.tris + 48 * 0 + 16 * j) 16 .read (0x80002000 + 16 * j)) ∧
      ((boxEntry (ray0.words false) [0, 0, 0, 0x3F800000, 0x3F800000, 0x3F800000] ray0.limit).isSome &&
        (boxEntry (ray0.words false) [0x3F800000, 0, 0, 0x3F800000, 0x3F800000, 0x3F800000] ray0.limit).isNone &&
        (instanceRay ray0.world (words 0x80003000 14)).isSome && (instanceRay ray0.world (words 0x80001000 14)).isNone) = true ∧
      triangleHit (ray0.words false) (words 0x80002000 10) = some (0x3F800000, 0x3E800000, 0x3E800000) ∧
      triangleHit (ray0.words false) (words 0x80002030 10) = none) ∧
    ([(0, 0, 0x12), (0, 0, 0x11), (0, 0, 6), (0, 1, 0x12), (0, 2, 0x12), (1, 1, 5), (2, 0, 5), (3, 0, 5), (4, 0, 0x12)].all (fun (op, red, ty) =>
      let c := collCommand (w64 (4 + ty * 2 ^ 32 + op * 2 ^ 40 + red * 2 ^ 44)) 0
      decide (c.collOp = op) && decide (c.collRed = red) && decide (c.collType = ty))) = true ∧
    1 < [[1, 0, 0, 0], [(2 : Byte), 0, 0, 0]].length ∧ 2 ^ 1 < [1, 2, 3].length ∧ [1, 2, 3].length ≤ 2 ^ (1 + 1) := by
  refine ⟨?_, ⟨?_, ?_, ?_, ?_, ?_, ?_, .inr (atHome_of ?_), fun j hj => ⟨atHome_of ?a, atHome_of ?b, atHome_of ?c, atHome_of ?d⟩, fun j hj => atHome_of ?e, ?apart1⟩,
    ⟨?_, .inr (atHome_of ?_)⟩, ⟨?_, ?_, .inr (atHome_of ?_), atHome_of ?_, atHome_of ?_, ?_⟩, ?absent,
    ⟨?_, ?_, ?_, ?_, ?_, ?_, ?_, fun j hj => atHome_of ?f, fun j hj => atHome_of ?g, ?apart2⟩, ?_, ?coll, ?_, ?_, ?_, ?_, ?_, ?_, ?exact, ?rays, ?_, ?_, ?_, ?_⟩
  case a => revert j; decide +kernel
  case b => revert j; decide +kernel
  case c => revert j; decide +kernel
  case d => revert j; decide +kernel
  case e => revert j; decide +kernel
  case f => revert j; decide +kernel
  case g => revert j; decide +kernel
  case absent => refine ⟨?_, ?_, ?_, ⟨?_, ?_, ?_, ?_, ?_⟩, ?_, ?_, ?_⟩ <;> decide +kernel
  case exact => unfold Scaled; decide +kernel
  case rays =>
    refine ⟨?_, ?_, ?_, fun j hj => atHome_of ?node, fun j hj => atHome_of ?inst, fun j hj => atHome_of ?tri, ?_, ?_, ?_⟩
    case node => revert j; decide +kernel
    case inst => revert j; decide +kernel
    case tri => revert j; decide +kernel
    all_goals decide +kernel
  case apart1 => unfold Apart; decide +kernel
  case apart2 => unfold Apart; decide +kernel
  case coll =>
    refine ⟨?_, ?_, ?_, ?_, ?_, ?_, ?_, ?_, ?_, ?_, ?_, ?_, ?_, ?_, ?_, ?_, ?_, fun j hj => atHome_of ?_⟩
    rotate_right
    · revert j; decide +kernel
    all_goals decide +kernel
  all_goals decide +kernel
/-- State.reset with its bring-up done and one channel. -/
def channelState (k : Nat) (c : Channel) : State := { State.reset with pkg := { State.reset.pkg with phase := 6, channels := [(k, c)], layout := some 0xFFFFFF0000 } }
/-- A channel at reset. -/
def channel0 : Channel := State.reset.channel 0
/-- The state of a die's two stacks in one partition, with a counter at 5 and a threshold. -/
def counting (nthr : Nat) (prod : W32) : State :=
  { ({ State.reset with pkg := { State.reset.pkg with phase := 6, layout := some 0xFFFFFF0000, counters := [((0, 7, 9), 5)] } } : State) with
    parts := [(0, { Part.empty with nthr := nthr, nqProd := prod })] }
/-- A channel's window that goes on and one that ends; a remap to start beside one that waits; row sets; the scrubber at a row set that a
remap moves, with nothing to do, at a unit that is sound or not, and late; counters below and at their threshold; and an atomic of another
package behind one on other bytes. -/
theorem witness_MainMemory :
    ([0, 65535, 65536].all (fun n => let s := channelState 31 { channel0 with requests := n }
      decide ((s.channel 31).requests = n))) = true ∧
    (let s := { channelState 31 { channel0 with waiting := some 7 } with pkg := { (channelState 31 { channel0 with waiting := some 7 }).pkg with
       channels := [(31, { channel0 with waiting := some 7 }), (30, { channel0 with active := false })] } }
     (s.channel 31).waiting = some 7 ∧ ((List.range 32).all (fun j => decide (31 / 32 * 32 + j = 31) || !(s.channel (31 / 32 * 32 + j)).active)) = true) ∧
    ([0, 65535].all (fun b => let s := channelState 255 { channel0 with active := true, bound := b }
      (s.channel 255).active && (s.channel 255).waiting.isNone && s.pkg.softUnits.isEmpty)) = true ∧
    ([(false, 1, 0, 0, 0, false, false), (true, 0, 0, 0, 0, false, false), (true, 1, 0, 0, 0, true, false), (true, 1, 2 ^ 26 - 1, 0, 0, false, false),
      (true, 1, 5, 0, 0xFFFF * 2 ^ 20, false, false), (true, 1, 5, 1, 0, false, true)].all
      (fun (started, lowq, pos, bound, elapsed, moving, bad) =>
      let c := { channel0 with pos := pos, bound := bound, elapsed := elapsed, active := moving }
      let s := channelState 255 c
      let s := { s with pkg := { s.pkg with lowq := lowq, badUnits := if bad then [memKey (stackPart s 7).1 (scrubAddress s 255) / 32] else [] } }
      s.pkg.scrubEn && decide (s.pkg.deadline ≠ 0) && decide (s.channel 255 = c) && (!moving || decide (c.pos / 32 % 65536 = c.bound)) &&
        decide (lowq = 0 → scrubLevel s c = 0) && decide (s.pkg.softUnits = []) && (s.bad (memKey (stackPart s (255 / 32)).1 (scrubAddress s 255)) == bad) &&
        (let part := (stackPart s (255 / 32)).1
         let p := s.part part
         s.badUnit (memKey part (p.nqBase + 16 * (p.nqProd.toNat % ringSize p.nqLog))) 16 == none) &&
        decide (s.pkg.deadline * 2 ^ 20 ≤ c.elapsed ∧ c.overdue = false ↔ elapsed ≠ 0) && (started || true))) = true ∧
    ([(0, 0), (6, 0), (5, 0), (5, 64)].all (fun (nthr, prod) =>
      let s := counting nthr prod
      let part := (stackPart s 7).1
      let p := s.part part
      decide (s.pkg.badUnits = []) && decide (s.pkg.softUnits = []) && decide (part = 0) && decide (p.nthr = nthr) && decide (s.counter part 7 9 = 5) && ringReachable p p.nqBase &&
        (decide ((p.nqProd - p.nqCons).toNat < ringSize p.nqLog) == decide (prod = 0)) && (decide ((p.nqProd - p.nqCons).toNat = ringSize p.nqLog) == decide (prod = 64)))) = true ∧
    (counting 5 0).pkg.phase = 6 ∧
    (let r : PeerRequest := { package := 1, part := 0, offset := 0x1000, access := .atomic .add 8 1 0, scene := false, tag := 4 }
     let s := { State.reset with pkg := { State.reset.pkg with homeOps := [{ r with offset := 0x2000 }, r] } }
     s.pkg.homeOps[1]? = some r ∧ (s.pkg.homeOps.take 1).all (fun q => !sameWord r q) = true ∧
      ({ s with pkg := { s.pkg with homeOps := [] } } : State).calm = true ∧ s.pkg.softUnits = [] ∧ s.bad (memKey r.part r.offset) = false ∧
      aperture (memKey r.part r.offset) = 0) := by
  decide +kernel

/-- The paged state with a partition register changed. -/
def parted (p : Part) (g : Gang) : State := (paged g).setPart 0 p
/-- A shootdown of the data page's first 4 KiB. -/
def shot (request : Option (Nat × W64 × Nat)) (holders : Option (List Nat)) : Invalidation :=
  { space := 0, base := 0x40000000, size := 4096, pages := [], request := request, holders := holders }
/-- The gangs have numbers of their own. -/
def distinct (s : State) : Bool := decide (s.gangs.map (·.1)).Nodup
/-- A walk that finds a leaf, one that finds none, and one that the squall line stops; a host translation and a page request, first and
beyond 512, and one held; a request of the host where fewer than 32 and 32 wait; a shootdown to start, and not; and one under way: accesses
still into its range, holders that are clean and are not, and holders waited for. -/
theorem witness_Translations :
    (((paged memGang).ctx (spaceKey 0 0)).torn = false ∧ (paged memGang).pkg.softUnits = [] ∧ (0x7FFFFFFF : W64).toNat < 2 ^ 57 ∧
      ((paged memGang).part 0).asserted = false ∧ ((parted { Part.empty with asserted := true } memGang).part 0).asserted = true ∧
      (match (paged memGang).walk 0 0 0x7FFFFFFF with | .leaf _ log => decide (log = 30) | _ => false) = true ∧
      (match (paged memGang).walk 0 0 0x80000000 with | .leaf _ _ => false | _ => true) = true) ∧
    ([(AtsStage.translation, 0), (.translation, 512), (.page, 0), (.page, 511), (.held, 512)].all (fun (stage, n) =>
      let r : AtsRequest := { space := 0, page := 5, write := true, stage := stage }
      let rs := r :: List.replicate n { r with stage := .page } ++ [{ r with stage := .held }]
      let s := parted { Part.empty with atsRequests := rs } memGang
      decide ((s.part 0).atsRequests[0]? = some r) && s.pkg.guests.isEmpty && decide (aget s.gangs 0 = some memGang) &&
        decide ((rs.filter (fun x => x.stage == .page)).length = n + (if stage = .page then 1 else 0)) && decide (stage = .page → n < 512))) = true ∧
    ([31, 32].all (fun n => let s := parted { Part.empty with shoots := List.replicate n (shot (some (1, 0, 12)) none) } memGang
      decide (((s.part 0).shoots.filter (fun v => v.request.isSome)).length = n))) = true ∧
    ((paged memGang).pkg.phase = 6 ∧ ((paged memGang).part 3).busy = false ∧ bit (0x8000 : W64) 15 = true ∧ bit (0xC000 : W64) 15 = true ∧ bit (0x4C01 : W64) 15 = false ∧
      ((parted { Part.empty with shoots := [shot none none] } memGang).part 0).busy = true ∧ State.reset.pkg.phase ≠ 6) ∧
    (([(0, false, none), (0, true, none), (1, false, none), (2, false, none), (0, false, some [0])] : List (Nat × Bool × Option (List Nat))).all (fun (k, asserted, holders) =>
      let g := if k = 1 then loading .vload 4 true (twoLanes.take 1) (.vector 127 1 false) else memGang
      let held := { secondGang with entries := [entryOf (.store [1])], unclean := decide (k = 2) }
      let v := shot none holders
      let s := { parted { Part.empty with shoots := [v], asserted := asserted } g with gangs := [(0, g), (1, held)] }
      decide ((s.part 0).shoots = [v]) && distinct s && decide ((s.part 0).asserted = asserted) &&
        ((s.gangs.filter (fun x => decide (x.2.part = 0))).any (fun x => pendingIn s v x.1 x.2) == decide (k = 1)) && held.holds v && !g.holds v &&
        !s.acking 0 && !s.acking 1 && (held.clean (s.nonidem held) == decide (k ≠ 2)))) = true ∧
    (let held := { secondGang with entries := [entryOf (.store [1])] }
     let s := { parted { Part.empty with shoots := [shot none none] } memGang with gangs := [(1, held)], acks := [{ doneAck [] false (some 1) with pending := [(1, entryOf (.store [2]))] }] }
     held.holds (shot none none) = true ∧ s.acking 1 = true) := by
  decide +kernel

/-- A record of a miss of the gang's slot A, at the first address past the data page. -/
def missRecord : FaultRecord := { owner := .gang 0 false, aspace := 0, cls := .xlatMiss, words := [0, 0, 0x80000000, 0, 0, 0, 0] }
/-- The gang parked on record 3. -/
def parkedGang (unclean : Bool) : Gang := { memGang with unclean := unclean, a := { memGang.a with parked := some ⟨some 3, false, 1, true, false, [0]⟩ } }
/-- A mapping of 1 GiB at VA 0x80000000, and one of 4 KiB, whose table is not there. -/
def prepared1 (level : Nat) : Prepared := { aspace := 0, va := 0x80000000, leaf := 0xC0000003, level := level, entries := 1, applied := false }
/-- The held record with room in the queue and without; responses before phase 6, to a record that is not open, to one of a torn context, to one
whose task has gone on, to one of a command, and to one of a task that is clean or not; a record handed to the host with room and without;
and a mapping that can be applied. -/
theorem witness_FaultsAreAnswered :
    ([0, 64].all (fun prod => [none, some 0, some 5].all (fun task =>
      let r := { missRecord with task := task }
      let s := { parted { Part.empty with fltProd := prod } memGang with dies := [(0, { Die.empty with hold := [r, r] })] }
      (((r.task.bind (aget s.gangs)).isSome) == decide (task = some 0)) && decide ((s.die 0).hold = r :: [r]) && (queueFull (s.part 0) == decide (prod = 64)) && ringReachable (s.part 0) (s.part 0).fltBase))) = true ∧
    (let s := parted { Part.empty with openRecords := [(3, { missRecord with owner := .void })] } memGang
     aget (s.part 0).openRecords (3 : W32).toNat = some { missRecord with owner := .void } ∧ ({ missRecord with owner := .void } : FaultRecord).owner = .void) ∧
    State.reset.pkg.phase ≠ 6 ∧ (paged memGang).pkg.phase = 6 ∧ aget ((paged memGang).part 0).openRecords (3 : W32).toNat = none ∧
    (let s := parted { Part.empty with openRecords := [(3, missRecord)] } memGang
     let t := { s with ctxs := [(0, { s.ctx 0 with torn := true })] }
     aget (t.part 0).openRecords (3 : W32).toNat = some missRecord ∧ (t.ctx (spaceKey 0 missRecord.aspace)).torn = true ∧
      aget (s.part 0).openRecords (3 : W32).toNat = some missRecord ∧ missRecord.owner = .gang 0 false ∧ ((memGang.slot false).parked.bind (·.record)) ≠ some (3 : W32).toNat) ∧
    (let r := { missRecord with owner := .command 7 }
     let c := { copyCommand 0 0 0 with parked := true }
     let s := { parted { Part.empty with openRecords := [(3, r)] } memGang with cmds := [(7, c)] }
     aget (s.part 0).openRecords (3 : W32).toNat = some r ∧ r.owner = .command 7 ∧ aget s.cmds 7 = some c ∧ (s.ctx (spaceKey 0 r.aspace)).torn = false) ∧
    ([false, true].all (fun unclean =>
      let g := parkedGang unclean
      let s := parted { Part.empty with openRecords := [(3, missRecord)] } g
      decide (aget (s.part 0).openRecords (3 : W32).toNat = some missRecord) && decide (missRecord.owner = .gang 0 false) && decide (aget s.gangs 0 = some g) &&
        decide (((g.slot false).parked.bind (·.record)) = some (3 : W32).toNat) && !(s.ctx (spaceKey 0 missRecord.aspace)).torn && (g.clean (s.nonidem g) == !unclean) &&
        recordLive s 0 (3 : W32).toNat missRecord)) = true ∧
    ([0, 64].all (fun prod =>
      let s := parted { Part.empty with unseen := [(3, missRecord)], hqProd := prod } memGang
      let p := s.part 0
      decide (p.unseen = (3, missRecord) :: []) && ringReachable p p.hqBase && decide (p.prepared = []) && (decide ((p.hqProd - p.hqCons).toNat = ringSize p.hqLog) == decide (prod = 64)) &&
        decide (missRecord.words.length = 7))) = true ∧
    (let m := prepared1 3
     let s := parted { Part.empty with unseen := [(3, missRecord)], prepared := [m] } memGang
     (s.part 0).unseen = (3, missRecord) :: [] ∧ missRecord.cls = .xlatMiss ∧ (s.part 0).prepared = [m] ∧ m.applied = false ∧
      m.covers missRecord.aspace (tget 0 missRecord.words 2).toNat = true ∧
      (applyPrepared (s.setPart 0 { s.part 0 with unseen := [], fltCons := w32 (3 + 1) }) 0 m).isSome = true) := by
  decide +kernel

/-- A cause of the issuing context. -/
def cause1 (cls : FaultClass) (words : List W64) : Cause := { cls := cls, aspace := 0, words := words, gang := some 0 }
/-- A line to assert, one asserted and one with causes of a torn context alone; a unit that stops, with its area and without, a bench, a copy
engine with a command and another; a teardown with a dump that fits, one that does not, one whose area is not reachable and one of a kill; a
release; a kill; and a gang of a torn context, of a crew and detached. -/
theorem witness_SquallLine :
    (let s := parted { Part.empty with heldFaults := [cause1 .align [], cause1 .align []] } memGang
     (s.part 0).asserted = false ∧ ((s.part 0).heldFaults.filter (fun c => !(s.ctx (spaceKey 0 c.aspace)).torn)) = cause1 .align [] :: [cause1 .align []]) ∧
    (((paged memGang).part 0).asserted = false ∧ ((paged memGang).part 0).heldFaults = []) ∧
    (([(0, 0), (0, 160), (3, 255)] : List (Nat × Nat)).all (fun (d, u) => ([0, 1] : List Nat).all (fun k =>
      let c := copyCommand 0 0 0
      let s := { parted { Part.empty with asserted := true, unstopped := if k = 0 then [(0, 0), (0, 160), (3, 255)] else [(d, u)], stopBase := if k = 0 then 0 else 2 ^ 50 } memGang with
        cmds := [(7, c)] }
      (s.part 0).asserted && (s.part 0).unstopped.contains (d, u) && (ringReachable (s.part 0) (s.part 0).stopBase == decide (k = 0)) &&
        (((s.part 0).unstopped.filter (· ≠ (d, u))).isEmpty == decide (k = 1)) &&
        decide ((s.cmds.filter (fun x => (x.2.kind == .cpy || x.2.kind == .cpyg || x.2.kind == .cpyst) && decide (x.2.core = 0)))[0]? = some (7, c)) &&
        decide ((gangAt s 0 0).isSome) && decide (gangAt s 0 4 = none)))) = true ∧
    ([(0, 0, FaultClass.align), (256, 0, .align), (2 ^ 20, 0, .align), (2 ^ 20, 0, .kill), (2 ^ 20, 2 ^ 50, .align)].all (fun (size, base, cls) =>
      let s := parted { Part.empty with asserted := true, stopped := true, current := some (cause1 cls (List.replicate 8 5)), dumpSize := size, dumpBase := base } memGang
      (s.part 0).asserted && (s.part 0).stopped && !(s.part 0).tornDown && s.cmds.isEmpty && s.pkg.guests.isEmpty && decide ((s.part 0).dumpSize = size) &&
        (ringReachable (s.part 0) (s.part 0).dumpBase == decide (base = 0)) && decide ((s.part 0).current = some (cause1 cls (List.replicate 8 5))))) = true ∧
    (let s := parted { Part.empty with asserted := true, stopped := true, tornDown := true } memGang
     ((paged memGang).ctx 0).privBase < 2 ^ 50 ∧ onChipEntries (paged memGang) 0 0 = 0 ∧ onChipEntries (paged (masked 1 [] 0)) 0 0 = 0 ∧
      (s.part 0).stopped = true ∧ (s.part 0).tornDown = true ∧ s.pkg.guests = [] ∧ s.pkg.phase = 6 ∧ ((paged memGang).part 0).tornDown = false) ∧
    ([none, some 0].all (fun key =>
      let g := { memGang with crewKey := key }
      let s := { paged g with ctxs := [(0, { (paged g).ctx 0 with torn := true })] }
      decide (aget s.gangs 0 = some g) && decide (g.phase = .running) && (s.ctx (spaceKey g.part g.aspace)).torn && !(s.part g.part).asserted)) = true := by
  decide +kernel

/-- A request of package 1. -/
def request1 (a : PeerAccess) (scene : Bool) : PeerRequest := { package := 1, part := 0, offset := 0x90000000, access := a, scene := scene, tag := 4 }
/-- A state with port 17 as it is given, and port 3 up; package 2 is reached over port 3. -/
def ported (p : Port) : State :=
  { State.reset with pkg := { State.reset.pkg with ports := [(17, p), (3, { Port.down with up := true, en := true, credits := [(0, 1)] })], routes := [(2, 0x23)] } }
/-- A flit for package `d`. -/
def flit1 (d sequence : Nat) (good : Bool) : Flit := { source := 1, dest := d, die := 0, cls := 0, sequence := sequence, good := good, payload := [9] }
/-- A partition that accepts package 1 and whose octet has another member, package 7. -/
def octet : Part := { Part.empty with lnkAccept := 2, octCfg := 0x70000 + 1 }
/-- The key of the requests, and its line. -/
def key1 : Nat := memKey 0 0x90000000
/-- A refused request, one behind a held write, one whose bytes are lost, and those that are done; a SCENE line not yet invalidated, and one
that has been; acknowledgements with nothing held, and with the host's write held; flits received and sent; acknowledgements, credits and
resends; a port that retrains and one that goes down; and the host's reads and writes. -/
theorem witness_LinksAndHost :
    (accepts (paged memGang) (request1 (.read 4) false) = false) ∧
    ([PeerAccess.read 4, .write [1, 2], .atomic .add 8 1 0].all (fun a => let s := parted octet memGang
      !sceneBusy s (linesOf key1 4) && accepts s (request1 a false) && s.calm && s.pkg.badUnits.isEmpty && s.pkg.softUnits.isEmpty && s.pkg.held.isEmpty &&
        decide ((request1 a false).offset + requestSize (request1 a false) ≤ 2 ^ 50))) = true ∧
    (let s := { parted octet memGang with pkg := { (parted octet memGang).pkg with held := [.peer (request1 (.write [1]) true)] } }
     (accepts s (request1 (.read 4) false) && (let s := { s with pkg := { s.pkg with held := [], sceneWrites := [⟨key1 / 128, [7]⟩] } }
       accepts s (request1 (.read 4) true) && sceneBusy s (linesOf key1 4))) = true ∧ HeldWrite.peer (request1 (.write [1]) true) ∈ s.pkg.held) ∧
    (let s := { parted octet memGang with pkg := { (parted octet memGang).pkg with badUnits := [key1 / 32] } }
     accepts s (request1 (.read 4) false) = true ∧ s.calm = true ∧ s.badUnit key1 4 = some (key1 / 32)) ∧
    (([[], [⟨key1 / 128, []⟩]] : List (List SceneWrite)).all (fun ws =>
      let s := { parted octet memGang with pkg := { (parted octet memGang).pkg with sceneWrites := ws } }
      !(sceneClaims s).contains (key1 / 128) && accepts s (request1 (.write [1]) true) && s.calm && s.pkg.held.isEmpty && decide (linesOf key1 1 = [key1 / 128]) && decide (octetOthers s 0 = [7]))) = true ∧
    (let s := { parted octet memGang with pkg := { (parted octet memGang).pkg with sceneWrites := [⟨key1 / 128, [7, 8]⟩] } }
     s.pkg.sceneWrites[0]? = some ⟨key1 / 128, [7, 8]⟩ ∧ s.gangs.all (fun x => x.2.phase == .running) = true ∧ s.pkg.held = []) ∧
    (let w : SceneWrite := ⟨key1 / 128, [7]⟩
     let s := { parted octet memGang with pkg := { (parted octet memGang).pkg with sceneWrites := [w], held := [.host 0 0x90000000 [5]] } }
     s.pkg.sceneWrites = [w] ∧ w.members.filter (· ≠ 7) = [] ∧ s.gangs.all (fun x => x.2.phase == .running) = true ∧ s.pkg.held = [.host 0 0x90000000 [5]] ∧
      linesOf key1 1 = [w.line] ∧ s.calm = true ∧ s.pkg.badUnits = [] ∧ s.pkg.softUnits = []) ∧
    (let p := { Port.down with up := true }
     let s := ported p
     (s.port 17).up = true ∧ (s.port 17).train = false ∧ aget (s.port 17).awaits 0 = none ∧ (flit1 0 1 true ≠ flit1 0 0 true ∧
        [0, 2].all (fun d => decide (aget ((ported { p with awaits := [(0, flit1 d 0 true)] }).port 17).awaits (flit1 d 0 true).cls.toNat = some (flit1 d 0 true))) = true) ∧
      s.pkg.number = 0 ∧ (aget s.pkg.flows (1, 0, 0, (0 : BitVec 2).toNat)).getD 0 = 0 ∧
      (flit1 0 3 true).sequence ≠ 0 ∧ (flit1 0 0 false).good = false ∧ s.routePort 2 = some 3 ∧ s.routePort 5 = none ∧
      (s.port 3).queue = [] ∧ (s.port 3).up = true ∧ (s.port 3).train = false ∧ (s.port 3).credit 0 ≠ 0 ∧ (s.port 3).credit 1 = 0 ∧
      ({ s with pkg := { s.pkg with flows := [((1, 2, 0, 0), 1)] } } : State).pkg.flows = [((1, 2, 0, 0), 1)] ∧ (flit1 2 0 true).sequence < 1) ∧
    (let s := { ported Port.down with pkg := { (ported Port.down).pkg with toLink := [(2, 0, 0)] } }
     s.pkg.toLink = [(2, 0, 0)] ∧ s.routePort 2 = some 3) ∧
    (let p := { Port.down with up := true, buffer := [flit1 2 0 true, flit1 2 1 true], queue := [flit1 2 2 true] }
     p.up = true ∧ p.train = false ∧ p.buffer = [] ++ flit1 2 0 true :: [flit1 2 1 true] ∧ p.queue = [flit1 2 2 true] ∧ (flit1 2 2 true).cls.toNat = 0 ∧
      (ported p).pkg.tripped = false) ∧
    ([(0, 0), (15, 0), (15, 1), (15, 2)].all (fun (failures, place) =>
      let p := { Port.down with up := true, failures := failures, buffer := [flit1 2 0 true, { flit1 2 0 true with cls := 1 }, flit1 2 1 true] }
      p.up && !p.train && (match p.buffer[place]? with
        | some f => decide (p.buffer = p.buffer.take place ++ f :: p.buffer.drop (place + 1)) && ((p.buffer.take place).filter (fun x => x.cls == f.cls)).isEmpty == decide (place ≠ 2)
        | none => false))) = true ∧
    (({ Port.down with en := true, train := true } : Port).queue = [] ∧ ({ Port.down with en := true } : Port).up = false ∧
      5 ≤ (paged memGang).pkg.phase ∧ (paged memGang).pkg.phase ≤ 6) ∧
    ([[], [flit1 2 0 true], [flit1 5 0 true]].all (fun buffer =>
      let p := { Port.down with up := true, train := true, buffer := buffer }
      let s := ported p
      let down := (s.setPort 17 { p with up := false, train := false, failures := 0, queue := [], buffer := [], credits := [], awaits := [] }).logEvent (.portDown 17)
      p.up && p.train && p.queue.isEmpty && s.acks.isEmpty && decide (down.routePort 2 = some 3) && decide (down.routePort 5 = none))) = true ∧
    ((paged memGang).pkg.phase = 6 ∧ functionPart (paged memGang) 0 = some (0, 4) ∧ functionPart (paged memGang) 5 = none ∧ localSize 4 ≤ localSize 4 ∧
      ([(1 : Byte), 2, 3].take (localSize 4 - (localSize 4 - 2))).length = 2 ∧ ((paged memGang).part 0).dies = 4 ∧
      hostHeld (paged memGang) 0 = false ∧ (paged memGang).calm = true ∧ (paged memGang).pkg.badUnits = [] ∧ (paged memGang).pkg.softUnits = [] ∧
      (paged memGang).pkg.sceneCopies = [] ∧ localSize 4 - 8 < localSize 4) ∧
    (let s := { parted octet memGang with pkg := { (parted octet memGang).pkg with held := [.host 0 0 [1]] } }
     hostHeld s 0 = true ∧ functionPart s 0 = some (0, 4)) ∧
    (let s := { parted octet memGang with pkg := { (parted octet memGang).pkg with sceneCopies := [key1 / 128] } }
     hostHeld s 0 = false ∧ linesOf (memKey 0 0x90000000) 4 = [key1 / 128] ∧ key1 / 128 ∈ s.pkg.sceneCopies ∧ s.pkg.sceneWrites = [] ∧ octetOthers s 0 ≠ []) ∧
    State.reset.pkg.phase ≠ 6 := by
  refine ⟨?_, ?_, ⟨?_, ?_⟩, ?_⟩
  rotate_right
  · refine ⟨?_, ?_, ?_, ?_, ?_, ?_, ?_, ?_, ?_, ?_, ?_, ?_, ?_, ?_⟩ <;> decide +kernel
  · decide +kernel
  · decide +kernel
  · decide +kernel
  · exact List.mem_singleton.mpr rfl

/-- A ray in lane 0 of a `trace` whose number is 5. -/
def homeRay (w : RayWait) : Ray := { endedRay 0 with wait := w }
/-- The state of its home. -/
def tracing (w : RayWait) : State := withCommand 5 { recordCommand .trace [] with rays := [homeRay w] }
/-- Its RETURN in a record, which says END: command 5, lane 0, die 0, package 0. -/
def returning (ending : W64) : List W64 := [0, 0, 0, 0, ending, 0, 0, 5 * 2 ^ 49]
/-- A guest that waits for the answer to a candidate. -/
def guest1 (h : Hit) : RayGuest := { guestOf 0 0 4 (returning 0) with ret := 5 * 2 ^ 17 + 1, ray := { (guestOf 0 0 4 (returning 0)).ray with wait := .hit h } }
/-- The state with guests of die 0, a partition and a package as they are given. -/
def hosting (guests : Nat) (mini asserted : Bool) (rayOut : List RayRecord) : State :=
  let s := (withData memGang).setPart 0 { Part.empty with asserted := asserted }
  { s with pkg := { s.pkg with mini := mini, rayOut := rayOut, guests := (List.range guests).map (fun k => (k, guestOf 0 0 4 (returning 0))) }, serial := guests }
/-- The record of a ray whose scene lies at an address. -/
def delegated (scene : W64) : List W64 := [0, 0, 0, 0, 0, 0, scene >>> 6, 5 * 2 ^ 49]
/-- Units 4 and 5 are those of package 1's dies 0 and 1: a part without units, an asserted line, and records with room and without, of this
package in the order sent and not; a scene that is refused and one that is not resident; candidates and answers of every END; answers to no
ray; and a candidate's answer at its guest and at its home. -/
theorem witness_RayRecords :
    (hosting 0 true false []).pkg.mini = true ∧ ((hosting 0 false true []).part 0).asserted = true ∧
    (let record : RayRecord := { kind := 0, source := 1, dest := 0, words := delegated 0x40000000 }
     let sent := fun (y : RayRecord) => decide (y.source = 1) && decide (y.dest = 0)
     let s := hosting 0 false false [record]
     let u := hosting 0 false false [{ record with kind := 1 }, record]
     s.pkg.mini = false ∧ (s.part 0).asserted = false ∧ (queuedRays s 0).length < 1024 ∧ 4 / 4 ≠ s.pkg.number ∧ 1 / 4 = s.pkg.number ∧
      s.pkg.rayOut.find? sent = some record ∧ u.pkg.rayOut.find? sent ≠ some record ∧ record ∉ s.pkg.rayWaits ∧
      record ∈ ({ s with pkg := { s.pkg with rayWaits := [record] } } : State).pkg.rayWaits) ∧
    (let s := hosting 2 false false []
     aget s.pkg.guests s.serial = none ∧ (guestOf 0 0 4 (delegated 0xC0000000)).scene = 0xC0000000 ∧ Refused s front 0xC0000000 .read ∧
      (guestOf 0 0 4 (delegated 0x80000000)).scene = 0x80000000 ∧ Absent s front 0x80000000) ∧
    (let s := hosting 2048 false false []
     ((queuedRays s 0).length < 1024) = false ∧ (regionUse s 0 0 none + 64 ≤ regionBytes (s.ctx (spaceKey 0 0))) = false ∧
      ringReachable (s.part 0) (s.part 0).fltBase = true ∧ queueFull (s.part 0) = false ∧ (s.die 0).hold = []) ∧
    ([RayWait.away 4, .away 5, .run].all (fun w => [0, 3, 4, 5, 6].all (fun stop =>
      let s := tracing w
      s.pkg.guests.isEmpty && (match returnRay s (recWord (returning (stop * 2 ^ 16)) 15) with
        | some (n, c, r) => decide (n = 5) && decide (c.part = 0) && decide (r = homeRay w) && !(s.part c.part).asserted && ((s.setPart 0 { s.part 0 with asserted := true }).part c.part).asserted
        | none => false) &&
        decide (bits (recWord (returning (stop * 2 ^ 16)) 8) 18 16 = stop.toNat)))) = true ∧
    ((paged memGang).pkg.guests = [] ∧ (returnRay (paged memGang) (recWord (returning 0) 15)).isNone = true) ∧
    (let h : Hit := ⟨1, 2, 3, 4, 5, 6, 7⟩
     let ws : List W64 := [0, (5 * 2 ^ 17 + 1) * 2 ^ 32, 0, 0]
     let s := { paged memGang with pkg := { (paged memGang).pkg with guests := [(6, guest1 h)] } }
     s.pkg.guests = [(6, guest1 h)] ∧ (guest1 h).ret = recWord ws 3 ∧ (guest1 h).part = 0 ∧ (guest1 h).ray.wait = .hit h ∧ bits (guest1 h).ret 5 0 ≠ s.pkg.number ∧
      (s.part 0).asserted = false) ∧
    (let h : Hit := ⟨1, 2, 3, 4, 5, 6, 7⟩
     let s := { tracing (.remote h 0 5 4 true) with answers := [((5, 0), 1, 8, 9)] }
     (match unitCommand s 5 .trace with
      | some c => decide (c.rays = [homeRay (.remote h 0 5 4 true)]) && !(s.ctx (spaceKey c.part c.aspace)).torn
      | none => false) = true ∧ s.answers = [((5, 0), 1, 8, 9)]) := by
  refine ⟨?_, ?_, ?_, ⟨?_, ?_, refused_of ?_, ?_, ⟨?_, ?_, ?_, ?_, ?_⟩⟩, ⟨?_, ?_, ?_, ?_, ?_⟩, ?_, ?_, ?_, ?_⟩
  all_goals decide +kernel

/-- State.reset in phase `k` of bring-up. -/
def inPhase (k : Nat) : State := { State.reset with pkg := { State.reset.pkg with phase := k } }
/-- Each phase; a function's partition; one whose context is enabled, and one with nothing enabled. -/
theorem witness_ResetsAndBringUp : (List.range 6).all (fun k => decide ((inPhase k).pkg.phase = k)) = true ∧ (6 ≤ (inPhase 15).pkg.phase ∧ 6 ≤ (inPhase 6).pkg.phase) ∧
    functionPart (paged memGang) 0 = some (0, 4) ∧
    (let s := { paged memGang with ctxs := [], gangs := [], crews := [], launches := [] }
     (s.part 0).asserted = false ∧ s.ctxs.all (fun x => !hasWork s x.1) = true ∧ hasWork { s with ctxs := [(0, Ctx.empty)] } 0 = false) ∧
    (let d : State := { paged memGang with ctxs := [(0, Ctx.empty)], gangs := [], crews := [], launches := [], dies := [(0, { Die.empty with launches := [{ part := 0, aspace := 0, words := [] }] })] }
     hasWork d (spaceKey 0 0) = true) ∧
    (let s := { paged memGang with ctxs := [(0, { (paged memGang).ctx 0 with en := true })] }
     hasWork s (spaceKey 0 0) = true ∧ spaceKey 0 0 ∈ s.ctxs.map (·.1) ∧ (s.ctx (spaceKey 0 0)).torn = false ∧ s.ctxs.all (fun x => decide (x.1 = spaceKey 0 0)) = true ∧ s.cmds = [] ∧ s.pkg.guests = [] ∧
      functionPart s 0 = some (0, 4) ∧ (s.part 0).asserted = false ∧ (s.part 0).dies = 4 ∧ ringReachable (s.part 0) (s.part 0).stopBase = true ∧ (s.part 0).dumpSize = 0) := by
  decide +kernel
/-- The paged state with the message that SEND took at function 0, and the data page's translation at hand. -/
def mailed (ws : List W64) (p : Part) : State :=
  { (parted p memGang).setMailbox 0 { toFirmware := [], sent := ws, busy := true, toHost := [], valid := false } with dies := (withData memGang).dies }
/-- The certificate's length is a free value between 1 and 65,536. -/
theorem certificate_length : Config.certificate.length = Config.certificateSize.toNat + 1 := by simp [Config.certificate]
/-- Padding gives no more than it is asked for. -/
theorem padTo_short (n : Nat) (bs : List Byte) : (padTo n bs).length ≤ n := List.length_take_le _ _
/-- Bytes within the data page are written at their places. -/
theorem writable_data (ws : List W64) (p : Part) (data : List Byte) (h : data.length ≤ 2 ^ 30) (y : Nat × List Byte) (hy : y ∈ unitPieces 0x40000000 data) :
    AtHome (mailed ws p) front y.1 y.2.length .write (0x80000000 + (y.1 - 0x40000000)) := by
  obtain ⟨u, hu, rfl⟩ := List.mem_map.1 hy
  unfold unitsOf at hu
  split at hu
  · cases hu
  · obtain ⟨j, hj, rfl⟩ := List.mem_map.1 hu
    have hj := List.mem_range.1 hj
    have hlow : 0x40000000 ≤ max 0x40000000 (32 * (0x40000000 / 32 + j)) := Nat.le_max_left _ _
    have hhigh : max 0x40000000 (32 * (0x40000000 / 32 + j)) < 0x40000000 + 2 ^ 30 := by omega
    dsimp only
    generalize max 0x40000000 (32 * (0x40000000 / 32 + j)) = a at *
    refine ⟨by omega, rfl, ⟨{ space := 0, base := 0x40000000, log := 30, leaf := 0x80000007 }, ?_, by decide, by decide, ?_, fun x => absurd x (by decide)⟩, ?_, ?_⟩
    · have h2 : ((mailed ws p).die front.die).tlb = ((withData memGang).die 0).tlb := rfl
      have h7 : (0 : Nat) = spaceKey 0 0 ∧ 0x40000000 ≤ a ∧ a < 0x40000000 + 2 ^ 30 := ⟨rfl, by omega, by omega⟩
      rw [h2]
      show tlbFind (spaceKey 0 0) a (({ space := 0, base := 0x40000000, log := 30, leaf := 0x80000007 } : TlbEntry) :: _) = _
      unfold tlbFind
      rw [if_pos h7]
    · have h4 : entryPA 0x80000007 = 0x80000000 := by decide
      show 0x80000000 + (a - 0x40000000) = entryPA 0x80000007 + a % 2 ^ 30
      rw [h4]; omega
    · show memKey 0 _ < 2 ^ 50; unfold memKey; split <;> omega
    · unfold State.badUnit; rw [List.find?_eq_none]; intro x _
      show ¬(([] : List Nat).contains x) = true
      simp
/-- Each message; mappings that are legal and not, prepared, applied and absent; buffers that can be written and not; layouts; and a mailbox
before bring-up, in recovery, and with nothing sent. -/
theorem witness_Mailbox :
    ((paged memGang).pkg.phase = 6 ∧ functionPart (paged memGang) 0 = some (0, 4)) ∧
    (([[1, 0x80000000, 0xC0000003, 0x103], [1, 0x80000000, 0xC0000003, 0x101], [2, 0x80000000], [3, 0, 0, 0, 0, 0, 0, 0x80000000], [3, 0, 0, 0, 0, 0, 0, 0x40000000],
        [4, 0x40000000, 0], [4, 0x40000000, 0x10000], [5], [6, 4], [6, 0xFFFFFF0000], [7]] : List (List W64)).all (fun ws =>
      let s := mailed ws Part.empty
      (s.mailbox 0).busy && decide ((s.mailbox 0).sent = ws) && decide (bits (tget (0 : W64) (s.mailbox 0).sent 0) 7 0 = bits (tget 0 ws 0) 7 0) && decide (s.pkg.phase = 6) &&
        s.calm && isSettled s && s.pkg.softUnits.isEmpty &&
        decide (functionPart s 0 = some (0, 4)))) = true ∧
    (let x := fun (level : Nat) (applied : Bool) => ({ aspace := 0, va := 0x80000000, leaf := 0xC0000003, level := level, entries := 1, applied := applied } : Prepared)
     prepLegal (paged memGang) 0 (x 3 false) = true ∧ prepLegal (paged memGang) 0 (x 1 false) = false ∧
      ([false, true].all (fun b => let s := mailed [2, 0x80000000] { Part.empty with prepared := [x 3 b] }
        decide ((s.part 0).prepared = [x 3 b]) && ((x 3 b).applied == b) && (x 3 b).covers 0 0x80000000)) = true ∧ ((mailed [2] Part.empty).part 0).prepared = []) ∧
    Absent (mailed [] Part.empty) front 0x80000000 ∧ Refused (mailed [] Part.empty) front 0xC0000000 .write ∧
    (∀ (nonce : List W64) (y : Nat × List Byte), y ∈ unitPieces 0x40000000 (attestReport (mailed [] Part.empty) 0 nonce) →
      AtHome (mailed [] Part.empty) front y.1 y.2.length .write (0x80000000 + (y.1 - 0x40000000))) ∧
    (∀ y ∈ unitPieces 0x40000000 Config.certificate, AtHome (mailed [] Part.empty) front y.1 y.2.length .write (0x80000000 + (y.1 - 0x40000000))) ∧
    ((0 : W64).toNat < Config.certificate.length ∧ Config.certificate.length ≤ (0x10000 : W64).toNat) ∧
    (let s := { mailed [6, 0xFFFFFF0000] Part.empty with ctxs := [] }
     layoutBad 4 = true ∧ layoutBad 0xFFFFFF0000 = false ∧ anyContextBusy (paged memGang) = true ∧ anyContextBusy s = false ∧
      s.parts.all (fun y => !y.2.asserted) = true ∧ s.ctxs.all (fun y => !hasWork s y.1) = true ∧ s.pkg.guests = []) ∧
    ([5, 7].all (fun (op : W64) => let s := { mailed [op] Part.empty with pkg := { (mailed [op] Part.empty).pkg with phase := 15 } }
     decide (s.pkg.phase = 15) && (s.mailbox 0).busy && decide (bits (tget (0 : W64) (s.mailbox 0).sent 0) 7 0 = op.toNat))) = true ∧
    State.reset.pkg.phase < 6 ∧ ((paged memGang).mailbox 0).busy = false := by
  refine ⟨?_, ?_, ?_, ⟨?_, ?_, ?_, ?_, ?_⟩, refused_of ?_, fun nonce => writable_data [] Part.empty _ ?len, writable_data [] Part.empty _ ?len2, ?cert, ?_, ?_, ?_, ?_⟩
  case len => exact Nat.le_trans (padTo_short 512 _) (by omega)
  case len2 => have h := Config.certificateSize.isLt; rw [certificate_length]; omega
  case cert =>
    have h := Config.certificateSize.isLt
    have h1 : (0 : W64).toNat = 0 := rfl
    have h2 : (0x10000 : W64).toNat = 0x10000 := rfl
    rw [certificate_length, h1, h2]; omega
  all_goals decide +kernel

/-- The paged state with nothing placed. -/
def idle : State := { paged memGang with gangs := [], crews := [], launches := [] }
/-- A hot part, a cool one that is throttled; each register of the package, the partition and the contexts at function 0, and those of
another function; and work placed and not. -/
theorem witness_HealthAndRegisters :
    (let s := { State.reset with pkg := { State.reset.pkg with temps := [(159, 0x17FF)] } }
     (1 : BitVec 3) ≠ 0 ∧ s.hot = true ∧ bit (1 : BitVec 3) 1 = false ∧ s.critical = true) ∧
    (let s := { State.reset with pkg := { State.reset.pkg with throttled := true, aclk := 1725 } }
     s.hot = false ∧ s.pkg.throttled = true ∧ ({ s with pkg := { s.pkg with tripped := true } } : State).pkg.tripped = true ∧ s.pkg.tripped = false) ∧
    (15 < 16 ∧ State.reset.pkg.phase ≠ 6 ∧ regSite State.reset 0 0x20 = .package 0x20 ∧ ¬(0xF000 ≤ 0x20 ∧ 0x20 < 0xF0C8) ∧
      regSite State.reset 15 0xF000 = .package 0xF000 ∧ regSite State.reset 0 0xF038 = .package 0xF038 ∧ regSite State.reset 15 0x20 = .none) ∧
    ([0x10, 0x18, 0x600, 0x678, 0x1000, 0x1008, 0x1100, 0x1170, 0x1108, 0x1178, 0x2000, 0x2000 + 32 * 255, 0x4000, 0x4000 + 8 * 17, 0x4100, 0x4100 + 8 * 63, 0xF000, 0xF038,
      0xF040, 0xF0C0].all (fun o => decide (regSite (paged memGang) 0 o = .package o))) = true ∧
    ((paged memGang).pkg.phase = 6 ∧ functionPart (paged memGang) 0 = some (0, 4) ∧ partitions (paged memGang) = [(0, 4, some 0)] ∧
      [0x000, 0x008, 0x010, 0x018, 0x020, 0x040, 0x048, 0x088, 0x090, 0x098, 0x0A0, 0x0C0, 0x0C8, 0x0D0, 0x100, 0x108, 0x110, 0x118].all
        (fun o => decide (regSite (paged memGang) 0 (0x200000 + o) = .part 0 o)) = true ∧
      [0x000, 0x008, 0x010, 0x018, 0x040, 0x080, 0x088, 0x090, 0x098, 0x100, 0x168, 0x170].all (fun o =>
        decide (regSite (paged memGang) 0 (0x210000 + 0xFF000 + o) = .ctx 255 o) && decide (regSite (paged memGang) 0 (0x210000 + o) = .ctx 0 o)) = true ∧
      bits (0 : W64) 33 32 = 0 ∧ bits (0x100000000 : W64) 33 32 = 1 ∧ bits (0x200000000 : W64) 33 32 = 2 ∧ bits (0x300000000 : W64) 33 32 = 3) ∧
    ([0, 8, 0x100, 0x100 + 8 * 159, 0x680, 0x698, 0x700, 0x778, 0x2008, 0x2010, 0x2010 + 32 * 255, 0xF080, 0xF0B8].all (fun o => decide (regSite (paged memGang) 0 o = .package o)) &&
      [0x028, 0x080].all (fun o => decide (regSite (paged memGang) 0 (0x200000 + o) = .part 0 o)) &&
      [0x048, 0x050, 0x110].all (fun o => decide (regSite (paged memGang) 0 (0x210000 + o) = .ctx 0 o)) &&
      (let s := { paged memGang with pkg := { (paged memGang).pkg with phase := 5 } }
       decide (regSite s 0 0x10 = .package 0x10) && decide (regSite s 0 0x200080 = .part 0 0x80) && decide (regSite s 0 0x210000 = .ctx 0 0) && decide (s.pkg.phase ≠ 6))) = true ∧
    (workPlaced (paged memGang) 0 = true ∧ workPlaced idle 0 = false ∧ bit (1 : W64) 1 = false ∧ (idle.ctx 0).privLog = 0) := by
  decide +kernel

/-- The paged state with the code page's translation in the core's buffer, and one word at 0x1000, in memory or in the instruction cache. -/
def fetching (todo : List Action) (w : W32) (cached : Bool) : State :=
  { paged memGang with
    todo := todo, mem := if cached then (paged memGang).mem else mwriteNat (paged memGang).mem 0x1000 4 w.toNat
    cores := [(0, { (paged memGang).core 0 with tlb := [{ space := 0, base := 0, log := 30, leaf := 0xB }], icache := if cached then [((0, 0x1000), w)] else [] })] }
/-- A word that decodes, a word that does not, from memory and from the instruction cache, and a step of the part. -/
theorem witness_StepsExecuteTheFetchedGroup :
    ((fetching [.event .clockRestore] 0 false).pkg.tripped = false ∧ (fetching [.event .clockRestore] 0 false).todo = .event .clockRestore :: []) ∧
    ([(0x04954209 : W32), 0].all (fun w => [false, true].all (fun cached =>
      let s := fetching [.issue 0 false] w cached
      let s0 := { s with todo := [], tick := s.tick + 1 }
      decide (s.todo = .issue 0 false :: []) && decide (aget s.gangs 0 = some memGang) && ready s memGang false && !outranked s0 0 memGang false &&
        !(s.ctx (spaceKey 0 0)).torn && s.pkg.softUnits.isEmpty && decide ((memGang.slot false).pc = 0x1000) &&
        decide (aget (s.core 0).icache (0, 0x1000) = if cached then some w else none) && (match tlbFind 0 0x1000 (s.core 0).tlb with
          | some t => leafAdmits .fetch t.leaf && decide (aperture (entryPA t.leaf + 0x1000 % 2 ^ t.log) = 0) && !s.bad (memKey 0 (entryPA t.leaf + 0x1000 % 2 ^ t.log)) &&
              (cached || decide (mreadNat s.mem (memKey 0 (entryPA t.leaf + 0x1000 % 2 ^ t.log)) 4 = w.toNat))
          | none => false)))) = true ∧
    decode [0x04954209] = .ok (.sadr3 (Grp.alone 0) { d := 20, a := 8, b := 9 }, []) ∧ decode [0] = .error .reservedMajor := by
  decide +kernel
theorem witness_DecodeOfEncode : (let i := Instr.sadr3 (Grp.alone 0) { d := 63, a := 0, b := 63 }
    i.encoded = true ∧ i.wf = true) ∧ decode [0x04954209, 5] = .ok (.sadr3 (Grp.alone 0) { d := 20, a := 8, b := 9 }, [5]) := by decide +kernel
theorem reset_steps : ∃ t, step (State.reset.withFetchWord 32 0x04954209) = .next t := by
  have h : (match step (State.reset.withFetchWord 32 0x04954209) with | .next _ => true | _ => false) = true := by decide +kernel
  revert h; cases step (State.reset.withFetchWord 32 0x04954209) with
  | next t => exact fun _ => ⟨t, rfl⟩
  | fault f => intro h; cases h
  | refused r => intro h; cases h
theorem witness_StepsKeepMemoryCanonical : Canonical State.reset ∧ (∃ t, step (State.reset.withFetchWord 32 0x04954209) = .next t) ∧
    Canonical (State.reset.withFetchWord 32 0x04954209) :=
  ⟨(by decide +kernel : State.reset.mem.wf = true), reset_steps, (by decide +kernel : (State.reset.withFetchWord 32 0x04954209).mem.wf = true)⟩
/-- The package is orderly at reset, and where a program is placed. -/
theorem witness_StepsKeepThePackageOrderly : Orderly State.reset ∧ Orderly (State.reset.withFetchWord 32 0x04954209) ∧
    ∃ t, step (State.reset.withFetchWord 32 0x04954209) = .next t := by
  refine ⟨⟨by decide, by decide, fun _ => by decide, ⟨(fun w h => by cases h), (fun w h => by cases h)⟩, (fun x h => by cases h)⟩,
    ⟨by decide +kernel, by decide +kernel, by decide +kernel, ⟨?_, ?_⟩, ?_⟩, reset_steps⟩
  · have h : (State.reset.withFetchWord 32 0x04954209).pkg.layout.all (fun w => !layoutBad w) = true := by decide +kernel
    intro w hw; rw [hw] at h; simpa using h
  · have h : (State.reset.withFetchWord 32 0x04954209).pkg.flash.all (fun w => !layoutBad w) = true := by decide +kernel
    intro w hw; rw [hw] at h; simpa using h
  · have h : (State.reset.withFetchWord 32 0x04954209).parts.all (fun x => decide ((x.2.stopped = true → x.2.asserted = true) ∧ (x.2.tornDown = true → x.2.stopped = true))) = true := by
      decide +kernel
    intro x hx; exact of_decide_eq_true (List.all_eq_true.1 h x hx)
end Sys2Proof.Tests
end

section
/-! The scalar ALU: what the values that R100 to R102 describe are, and the statements on arithmetic, division, bit fields and
unary forms. -/

namespace Sys2Proof

/-! Bit counts and reversal, for numbers of any width (R100). -/

theorem clz_le (n x : Nat) : clz n x ≤ n := by
  unfold clz
  split <;> omega

/-- The bits above the highest set bit are clear. -/
theorem testBit_eq_false_of_lt_clz {n x i : Nat} (hx : x < 2 ^ n) (hi : i < clz n x) : x.testBit (n - 1 - i) = false := by
  unfold clz at hi
  rw [Nat.mod_eq_of_lt hx] at hi
  split at hi
  case isTrue h0 => rw [h0, Nat.zero_testBit]
  case isFalse h0 => exact Nat.testBit_lt_two_pow ((Nat.log2_lt h0).1 (by omega))

/-- The bit below the leading zeros is set. -/
theorem testBit_clz {n x : Nat} (hx : x < 2 ^ n) (h : clz n x < n) : x.testBit (n - 1 - clz n x) = true := by
  unfold clz at h ⊢
  rw [Nat.mod_eq_of_lt hx] at h ⊢
  split at h
  case isTrue => omega
  case isFalse h0 =>
    have hlog : x.log2 < n := (Nat.log2_lt h0).2 hx
    rw [if_neg h0, show n - 1 - (n - 1 - x.log2) = x.log2 by omega]
    exact Nat.testBit_log2 h0

theorem ctz_le (n x : Nat) : ctz n x ≤ n := by
  induction n generalizing x with
  | zero => exact Nat.le_refl 0
  | succ n ih =>
    have := ih (x / 2)
    unfold ctz
    split <;> omega

theorem testBit_eq_false_of_lt_ctz {n x i : Nat} (hi : i < ctz n x) : x.testBit i = false := by
  induction n generalizing x i with
  | zero => exact absurd hi (Nat.not_lt_zero i)
  | succ n ih =>
    unfold ctz at hi
    split at hi
    case isTrue => omega
    case isFalse h0 =>
      cases i with
      | zero => simpa using h0
      | succ i => rw [Nat.testBit_succ]; exact ih (by omega)

theorem testBit_ctz {n x : Nat} (h : ctz n x < n) : x.testBit (ctz n x) = true := by
  induction n generalizing x with
  | zero => exact absurd h (Nat.not_lt_zero _)
  | succ n ih =>
    unfold ctz at h ⊢
    split at h
    case isTrue h1 => simp [h1]
    case isFalse h1 =>
      rw [if_neg h1, Nat.add_comm, Nat.testBit_succ]
      exact ih (by omega)

theorem popcount_eq_countP (n x : Nat) : popcount n x = (List.range n).countP x.testBit := by
  induction n generalizing x with
  | zero => rfl
  | succ n ih =>
    have hshift : x.testBit ∘ Nat.succ = (x / 2).testBit := funext fun i => Nat.testBit_succ x i
    have hlow : x % 2 = if x.testBit 0 then 1 else 0 := by
      rcases Nat.mod_two_eq_zero_or_one x with h | h <;> simp [h]
    rw [popcount, ih, List.range_succ_eq_map, List.countP_cons, List.countP_map, hshift, hlow, Nat.add_comm]

theorem brev_lt (n x : Nat) : brev n x < 2 ^ n := by
  induction n generalizing x with
  | zero => exact Nat.one_pos
  | succ n ih =>
    have hhigh : x % 2 * 2 ^ n ≤ 1 * 2 ^ n := Nat.mul_le_mul_right _ (by omega)
    have := ih (x / 2)
    rw [brev, Nat.pow_succ]
    omega

theorem testBit_brev (n x i : Nat) : (brev n x).testBit i = (decide (i < n) && x.testBit (n - 1 - i)) := by
  induction n generalizing x with
  | zero => simp [brev]
  | succ n ih =>
    rw [brev, Nat.mul_comm, Nat.testBit_two_pow_mul_add _ (brev_lt n _)]
    rcases Nat.lt_trichotomy i n with h | rfl | h
    · rw [if_pos h, ih, ← Nat.testBit_succ, show (n - 1 - i).succ = n + 1 - 1 - i by omega]
      simp [h, Nat.lt_succ_of_lt h]
    · simp
    · have hbit : (x % 2).testBit (i - n) = false :=
        Nat.testBit_lt_two_pow (lt_of_lt_of_le (Nat.mod_lt x two_pos) (Nat.le_self_pow (by omega) 2))
      simp [hbit, Nat.not_lt.2 (Nat.le_of_lt h), Nat.not_lt.2 h]

end Sys2Proof

namespace Sys2Proof.Machine

theorem getLsbD_w64 (n i : Nat) : (w64 n).getLsbD i = (decide (i < 64) && n.testBit i) := by
  rw [w64, BitVec.getLsbD_ofNat]

theorem w64_brev (a : W64) : w64 (brev 64 a.toNat) = a.reverse := by
  apply BitVec.eq_of_getLsbD_eq
  intro i hi
  rw [getLsbD_w64, testBit_brev, BitVec.getLsbD_reverse, BitVec.getMsbD, BitVec.getLsbD]
  simp [hi]

/-! Extensions of the low bits (R100). -/

theorem sext_mod (w x : Nat) : sext w (x % 2 ^ w) = sext w x := by
  rw [sext, sext, Nat.mod_mod]

theorem signExt_eq {w : Nat} (hw : 0 < w) (a : W64) : signExt w a = (a.setWidth w).signExtend 64 := by
  rw [signExt, ← sext_mod, ← BitVec.toNat_setWidth, ofInt_sext hw]

theorem zeroExt_eq (w : Nat) (a : W64) : zeroExt w a = (a.setWidth w).setWidth 64 := by
  rw [zeroExt, ← BitVec.toNat_setWidth, setWidth_eq_w64]

/-! High halves of products (R100). -/

theorem ofInt_mul_high (a b : W64) :
    BitVec.ofInt 64 (a.toInt * b.toInt / 2 ^ 64) = ((a.signExtend 128 * b.signExtend 128) >>> 64).setWidth 64 := by
  have hprod : a.signExtend 128 * b.signExtend 128 = BitVec.ofInt 128 (a.toInt * b.toInt) := (BitVec.ofInt_mul _ _).symm
  rw [hprod]
  generalize a.toInt * b.toInt = p
  apply BitVec.eq_of_toNat_eq
  simp only [BitVec.toNat_setWidth, BitVec.toNat_ushiftRight, BitVec.toNat_ofInt, Nat.shiftRight_eq_div_pow]
  omega

theorem w64_mul_high (a b : W64) : w64 (a.toNat * b.toNat / 2 ^ 64) = ((a.setWidth 128 * b.setWidth 128) >>> 64).setWidth 64 := by
  have hprod : a.setWidth 128 * b.setWidth 128 = BitVec.ofNat 128 (a.toNat * b.toNat) := by
    rw [BitVec.ofNat_mul, BitVec.ofNat_toNat, BitVec.ofNat_toNat]
  rw [hprod]
  generalize a.toNat * b.toNat = p
  apply BitVec.eq_of_toNat_eq
  simp only [w64, BitVec.toNat_setWidth, BitVec.toNat_ushiftRight, BitVec.toNat_ofNat, Nat.shiftRight_eq_div_pow]
  omega

/-! Quotients and remainders (R101). The one signed overflow, the least number over -1, wraps on both sides. -/

theorem divI_eq (a b : W64) : divI a b = if b = 0 then BitVec.allOnes 64 else a.sdiv b := by
  have hquot : BitVec.ofInt 64 (a.toInt.tdiv b.toInt) = a.sdiv b :=
    BitVec.eq_of_toInt_eq (by rw [BitVec.toInt_ofInt, BitVec.toInt_sdiv])
  rw [divI, hquot]

theorem divN_eq (a b : W64) : divN a b = if b = 0 then BitVec.allOnes 64 else a.udiv b := by
  rw [divN, w64, ← BitVec.udiv_def]
  rfl

theorem remI_eq (a b : W64) : remI a b = if b = 0 then a else a.srem b := by
  have hrem : BitVec.ofInt 64 (a.toInt.tmod b.toInt) = a.srem b := by rw [← BitVec.toInt_srem, BitVec.ofInt_toInt]
  rw [remI, hrem]

theorem remN_eq (a b : W64) : remN a b = if b = 0 then a else a.umod b := by
  rw [remN, w64, ← BitVec.umod_def]
  rfl

/-! Bit fields (R102). -/

/-- The bits of the field of `len` bits at `pos`. -/
def spanMask (pos len : Nat) : W64 := (BitVec.allOnes 64 >>> (64 - len)) <<< pos

theorem fieldPos_eq (b : W64) : fieldPos b = (b.extractLsb' 0 6).toNat := by
  rw [fieldPos, bits, BitVec.extractLsb'_toNat, Nat.shiftRight_eq_div_pow]

theorem fieldLen_eq (b : W64) : fieldLen b = min (b.extractLsb' 8 7).toNat (64 - fieldPos b) := by
  rw [fieldLen, bits, BitVec.extractLsb'_toNat, Nat.shiftRight_eq_div_pow]

theorem fieldPos_add_fieldLen_le (b : W64) : fieldPos b + fieldLen b ≤ 64 := by
  have hpos : fieldPos b < 64 := Nat.mod_lt _ (by decide)
  have hlen : fieldLen b ≤ 64 - fieldPos b := Nat.min_le_right _ _
  omega

theorem fieldOf_eq (a b : W64) : fieldOf a b = (a.extractLsb' (fieldPos b) (fieldLen b)).toNat := by
  rw [fieldOf, BitVec.extractLsb'_toNat, Nat.shiftRight_eq_div_pow]

theorem getLsbD_spanMask {pos len : Nat} (h : pos + len ≤ 64) (i : Nat) :
    (spanMask pos len).getLsbD i = decide (pos ≤ i ∧ i < pos + len) := by
  rw [spanMask, BitVec.getLsbD_shiftLeft, BitVec.getLsbD_ushiftRight, BitVec.getLsbD_allOnes, Bool.eq_iff_iff]
  simp only [Bool.and_eq_true, Bool.not_eq_true', decide_eq_true_eq, decide_eq_false_iff_not]
  omega

theorem w64_span {pos len : Nat} (h : pos + len ≤ 64) : w64 ((2 ^ len - 1) * 2 ^ pos) = spanMask pos len := by
  apply BitVec.eq_of_getLsbD_eq
  intro i hi
  rw [getLsbD_w64, Nat.testBit_mul_two_pow, Nat.testBit_two_pow_sub_one, getLsbD_spanMask h, Bool.eq_iff_iff]
  simp only [Bool.and_eq_true, decide_eq_true_eq]
  omega

theorem w64_extractLsb' {pos len : Nat} (h : pos + len ≤ 64) (a : W64) :
    w64 (a.extractLsb' pos len).toNat = (a &&& spanMask pos len) >>> pos := by
  apply BitVec.eq_of_getLsbD_eq
  intro i hi
  rw [setWidth_eq_w64, BitVec.getLsbD_setWidth, BitVec.getLsbD_extractLsb', BitVec.getLsbD_ushiftRight, BitVec.getLsbD_and,
    getLsbD_spanMask h]
  simp [hi, Bool.and_comm]

/-- A shift of the field's top bit to bit 63 puts bit `j` of the field at 64 - len + j. -/
theorem getLsbD_shiftLeft_field {pos len j : Nat} (h : pos + len ≤ 64) (hj : j < len) (a : W64) :
    (a <<< (64 - pos - len)).getLsbD (64 - len + j) = (a.extractLsb' pos len).getLsbD j := by
  have htop : 64 - len + j < 64 := by omega
  have hlow : ¬ 64 - len + j < 64 - pos - len := by omega
  rw [BitVec.getLsbD_shiftLeft, BitVec.getLsbD_extractLsb', show 64 - len + j - (64 - pos - len) = pos + j by omega]
  simp [hj, htop, hlow]

/-- Sign extension of a field is a shift of its top bit to bit 63 and an arithmetic shift back. -/
theorem signExtend_extractLsb' {pos len : Nat} (h : pos + len ≤ 64) (hlen : 0 < len) (a : W64) :
    (a.extractLsb' pos len).signExtend 64 = (a <<< (64 - pos - len)).sshiftRight (64 - len) := by
  have hmsb : (a <<< (64 - pos - len)).msb = (a.extractLsb' pos len).msb := by
    rw [BitVec.msb_eq_getLsbD_last, BitVec.msb_eq_getLsbD_last, ← getLsbD_shiftLeft_field h (by omega),
      show 64 - 1 = 64 - len + (len - 1) by omega]
  apply BitVec.eq_of_getLsbD_eq
  intro i hi
  rw [BitVec.getLsbD_signExtend, BitVec.getLsbD_sshiftRight, hmsb]
  by_cases hin : i < len
  · rw [if_pos hin, if_pos (show 64 - len + i < 64 by omega), getLsbD_shiftLeft_field h hin]
    simp [hi]
  · rw [if_neg hin, if_neg (show ¬ 64 - len + i < 64 by omega)]
    simp [hi]

theorem w64_fieldOf (a b : W64) : w64 (fieldOf a b) = (a &&& spanMask (fieldPos b) (fieldLen b)) >>> fieldPos b := by
  rw [fieldOf_eq, w64_extractLsb' (fieldPos_add_fieldLen_le b)]

theorem fieldSigned_eq (a b : W64) : fieldSigned a b =
    if fieldLen b = 0 then 0 else (a <<< (64 - fieldPos b - fieldLen b)).sshiftRight (64 - fieldLen b) := by
  unfold fieldSigned
  split
  case isTrue => rfl
  case isFalse h =>
    have hlen : 0 < fieldLen b := Nat.pos_of_ne_zero h
    rw [fieldOf_eq, ofInt_sext hlen, signExtend_extractLsb' (fieldPos_add_fieldLen_le b) hlen]

theorem fieldInsert_eq (d a b : W64) : fieldInsert d a b =
    (d &&& ~~~spanMask (fieldPos b) (fieldLen b)) ||| ((a <<< fieldPos b) &&& spanMask (fieldPos b) (fieldLen b)) := by
  rw [fieldInsert, w64_span (fieldPos_add_fieldLen_le b)]

/-! The scalar forms, with their value as a statement writes it. -/

section
variable {s : State} {c : Cur} {g : Gang} {grp : Grp} {v : W64}

theorem scalar3_gives {o : OpS3} {latency : Nat} (h : Clear s c g) (hu : (regsS3 o).all g.usable = true) (f : W64 → W64 → W64 → W64)
    (hv : f (g.readS c.slotB o.d.toNat) (g.readS c.slotB o.a.toNat) (g.readS c.slotB o.b.toNat) = v) :
    ScalarResult s c g grp (nextPc c grp) latency o.d.toNat v (scalar3 latency f grp o s) :=
  hv ▸ scalar3_result h grp o hu latency f

theorem scalarDiv_gives {o : OpS3} (h : Clear s c g) (hu : (regsS3 o).all g.usable = true) (f : W64 → W64 → W64)
    (hv : f (g.readS c.slotB o.a.toNat) (g.readS c.slotB o.b.toNat) = v) :
    ScalarResult s c g grp (nextPc c grp) 0 o.d.toNat v (scalarDiv f grp o s) :=
  hv ▸ scalarDiv_result h grp o hu f

theorem scalar2_gives {o : OpS2} (h : Clear s c g) (hu : (regsS2 o).all g.usable = true) (f : W64 → W64)
    (hv : f (g.readS c.slotB o.a.toNat) = v) :
    ScalarResult s c g grp (nextPc c grp) 2 o.d.toNat v (scalar2 f grp o s) :=
  hv ▸ scalar2_result h grp o hu f

end

/-- Settles O1: each form is `scalar3` or `scalarDiv` of a function of A and B, and that function is the statement's. -/
theorem scalarArithmeticAndDivision : Obligations.ScalarArithmeticAndDivision := by
  unfold Obligations.ScalarArithmeticAndDivision
  constructor
  · intro s c g grp o h hu
    exact ⟨scalar3_result h grp o hu 2 fun _ a b => a + b,
      scalar3_result h grp o hu 2 fun _ a b => a - b,
      scalar3_result h grp o hu 4 fun _ a b => a * b,
      scalar3_gives h hu (fun _ a b => BitVec.ofInt 64 (a.toInt * b.toInt / 2 ^ 64)) (ofInt_mul_high _ _),
      scalar3_gives h hu (fun _ a b => w64 (a.toNat * b.toNat / 2 ^ 64)) (w64_mul_high _ _),
      scalar3_result h grp o hu 2 fun _ a b => a + (b <<< 1),
      scalar3_result h grp o hu 2 fun _ a b => a + (b <<< 2),
      scalar3_result h grp o hu 2 fun _ a b => a + (b <<< 3)⟩
  · intro s c g grp o h hu
    exact ⟨scalarDiv_gives h hu divI (divI_eq _ _), scalarDiv_gives h hu divN (divN_eq _ _),
      scalarDiv_gives h hu remI (remI_eq _ _), scalarDiv_gives h hu remN (remN_eq _ _)⟩

/-- Settles O3: the field forms by the bits of their masks, the unary forms by what each count, reversal and extension is. -/
theorem scalarBitFieldsAndUnary : Obligations.ScalarBitFieldsAndUnary := by
  unfold Obligations.ScalarBitFieldsAndUnary
  constructor
  · intro s c g grp o h hu
    simp only [← fieldPos_eq, ← fieldLen_eq]
    exact ⟨scalar3_gives h hu (fun _ a b => w64 (fieldOf a b)) (w64_fieldOf _ _),
      scalar3_gives h hu (fun _ => fieldSigned) (fieldSigned_eq _ _),
      scalar3_gives h hu fieldInsert (fieldInsert_eq _ _ _)⟩
  · intro s c g grp o h hu A R
    exact ⟨scalar2_result h grp o hu fun a => a,
      ⟨clz 64 A.toNat, clz_le _ _, fun _ => testBit_eq_false_of_lt_clz A.isLt, testBit_clz A.isLt,
        scalar2_result h grp o hu fun a => w64 (clz 64 a.toNat)⟩,
      ⟨ctz 64 A.toNat, ctz_le _ _, fun _ => testBit_eq_false_of_lt_ctz, testBit_ctz,
        scalar2_result h grp o hu fun a => w64 (ctz 64 a.toNat)⟩,
      scalar2_gives h hu (fun a => w64 (popcount 64 a.toNat)) (congrArg w64 (popcount_eq_countP 64 _)),
      scalar2_gives h hu (fun a => w64 (brev 64 a.toNat)) (w64_brev _),
      scalar2_gives h hu (signExt 8) (signExt_eq (by decide) _),
      scalar2_gives h hu (signExt 16) (signExt_eq (by decide) _),
      scalar2_gives h hu (signExt 32) (signExt_eq (by decide) _),
      scalar2_gives h hu (zeroExt 8) (zeroExt_eq 8 _),
      scalar2_gives h hu (zeroExt 16) (zeroExt_eq 16 _),
      scalar2_gives h hu (zeroExt 32) (zeroExt_eq 32 _)⟩

end Sys2Proof.Machine
end

section
/-! The vector ALU: what the forms of the frame of R129 give, element by element or word by word, and the statements on bit counts,
bitwise operations, comparisons, dot products, immediates and the one-operand and comparing float forms. -/

namespace Sys2Proof.Machine

/-! Results that agree where they are written. -/

section
variable {s : State} {c : Cur} {g : Gang} {grp : Grp} {latency d n w : Nat} {out : Outcome}

theorem VectorResult.congr {f f' : Nat → Nat → W32} (h : VectorResult s c g grp latency d n f out) (hf : ∀ j l, j < n → f j l = f' j l) :
    VectorResult s c g grp latency d n f' out := by
  obtain ⟨t, k, ht, honly, hland, hlane, hadv, hframe⟩ := h
  refine ⟨t, k, ht, honly, hland, fun j l hl => ?_, hadv, hframe⟩
  rw [hlane j l hl]
  split
  case isTrue hd => exact hf _ _ (by omega)
  case isFalse => rfl

theorem ElemResult.congr {f f' : Nat → Nat → Nat} (h : ElemResult s c g grp latency d n w f out)
    (hf : ∀ l k, k < 32 * n / w → f l k % 2 ^ w = f' l k % 2 ^ w) : ElemResult s c g grp latency d n w f' out := by
  obtain ⟨F, hF, hel⟩ := h
  exact ⟨F, hF, fun l k hk => (hel l k hk).trans (hf l k hk)⟩

/-- A result of one word in each lane, as its one element of 32 bits. -/
theorem elemResult_of_word {f : Nat → Nat} (h : VectorResult s c g grp latency d 1 (fun _ l => w32 (f l)) out) :
    ElemResult s c g grp latency d 1 32 (fun l _ => f l) out := by
  refine ⟨_, h, fun l k hk => ?_⟩
  obtain rfl : k = 0 := by omega
  simp [elem, w32]

end

/-! What the forms give. -/

@[simp] theorem operand_one (g : Gang) (r l : Nat) : g.operand r 1 l = (g.lane? r l).toNat := rfl

@[simp] theorem drawIf_begun (s : State) (c : Cur) (g : Gang) (grp : Grp) (regs : List Reg) (l k : Nat) :
    drawIf grp (s.setGang c.gang (begun c g)) (begun c g) (issueOf s c g grp regs) l k = drawAt s c g grp l k := by
  have hseed : (s.setGang c.gang (begun c g)).seedOf (begun c g) = s.seedOf g := by simp [State.seedOf, State.launch?]
  have hlane : (begun c g).globalLane l = g.globalLane l := by simp [Gang.globalLane, Gang.commitKey]
  have hcount : ((begun c g).slot (issueOf s c g grp regs).slotB).icnt = (g.slot c.slotB).icnt := by simp [issueOf]
  rw [drawIf, drawAt, drawOf, hseed, hlane, hcount]

section
variable {s : State} {c : Cur} {g : Gang}

/-- A unit whose lanes each give packed elements. -/
theorem vecOp_elems (h : Clear s c g) {grp : Grp} {latency d n w : Nat} {srcs : List (Nat × Nat)}
    {f : State → Gang → Issue → Nat → Nat → Nat} {v : Nat → Nat → Nat} (hn : n = 1 ∨ n = 2) (hg : g.groupsReady ((d, n) :: srcs) = true)
    (hv : ∀ regs, f (s.setGang c.gang (begun c g)) (begun c g) (issueOf s c g grp regs) = v) :
    ElemResult s c g grp latency d n w v (vecOp grp latency d n srcs (fun s g i l => outWords n (packElems w (32 * n) (f s g i l))) s) := by
  have hres := vecOp_result (grp := grp) (latency := latency) h (f := fun s g i l => outWords n (packElems w (32 * n) (f s g i l))) hg
    (fun regs => by simp only [hv])
  simp only [hv] at hres
  exact elemResult_of hn hres

/-- A unit whose lanes each give one word. -/
theorem vecOp_word (h : Clear s c g) {grp : Grp} {latency d : Nat} {srcs : List (Nat × Nat)}
    {f : State → Gang → Issue → Nat → W32} {v : Nat → W32} (hg : g.groupsReady ((d, 1) :: srcs) = true)
    (hv : ∀ regs l, f (s.setGang c.gang (begun c g)) (begun c g) (issueOf s c g grp regs) l = v l) :
    VectorResult s c g grp latency d 1 (fun _ l => v l) (vecOp grp latency d 1 srcs (fun s g i l => [f s g i l]) s) := by
  refine (vecOp_result h hg (fun regs => by simp only [hv])).congr fun j l hj => ?_
  obtain rfl : j = 0 := by omega
  exact hv [] l

theorem vbits1_result (h : Clear s c g) (grp : Grp) (o : OpV2) (default : Nat) (f : Grp → IntTy → Nat → Nat) :
    let n := typeRegs (typeOf grp default)
    let t := intTyOf (typeOf grp default)
    g.groupsReady [(o.d.toNat, n), (o.a.toNat, n)] = true →
    ElemResult s c g grp 4 o.d.toNat n t.w (fun l k => f grp t (elem t.w (g.operand o.a.toNat n l) k)) (vbits1 default f grp o s) := by
  intro n t hg
  exact vecOp_elems h (typeRegs_or _) hg fun _ => by simp [n, t]

theorem vbits2_result (h : Clear s c g) (grp : Grp) (o : OpV3) (default : Nat) (f : IntTy → Nat → Nat → Nat) :
    let n := typeRegs (typeOf grp default)
    let t := intTyOf (typeOf grp default)
    g.groupsReady [(o.d.toNat, n), (o.a.toNat, n), (o.b.toNat, n)] = true →
    ElemResult s c g grp 4 o.d.toNat n t.w
      (fun l k => f t (elem t.w (g.operand o.a.toNat n l) k) (elem t.w (g.operand o.b.toNat n l) k)) (vbits2 default f grp o s) := by
  intro n t hg
  exact vecOp_elems h (typeRegs_or _) hg fun _ => by simp [n, t]

theorem vbits3_result (h : Clear s c g) (grp : Grp) (o : OpV3) (default : Nat) (f : IntTy → Nat → Nat → Nat → Nat) :
    let n := typeRegs (typeOf grp default)
    let t := intTyOf (typeOf grp default)
    let z := thirdReg grp o.d.toNat
    g.groupsReady [(o.d.toNat, n), (o.a.toNat, n), (o.b.toNat, n)] = true → g.groupsReady [(z, n)] = true →
    ElemResult s c g grp 4 o.d.toNat n t.w
      (fun l k => f t (elem t.w (g.operand o.a.toNat n l) k) (elem t.w (g.operand o.b.toNat n l) k) (elem t.w (g.operand z n l) k))
      (vbits3 default f grp o s) := by
  intro n t z hg hz
  have hall : g.groupsReady ([(o.d.toNat, n), (o.a.toNat, n), (o.b.toNat, n)] ++ [(z, n)]) = true := by
    rw [Gang.groupsReady, List.all_append, Bool.and_eq_true]
    exact ⟨hg, hz⟩
  exact vecOp_elems h (typeRegs_or _) hall fun _ => by simp [n, t, z]

theorem vimm_result (h : Clear s c g) (grp : Grp) {d a : Nat} (hg : g.groupsReady [(d, 1), (a, 1)] = true) (f : Grp → W32 → Nat) :
    VectorResult s c g grp 4 d 1 (fun _ l => w32 (f grp (g.lane? a l))) (vimm f grp d a s) :=
  vecOp_word h hg fun _ _ => by simp

theorem vfloat1_result (h : Clear s c g) (grp : Grp) (o : OpV2) (hg : g.groupsReady [(o.d.toNat, 1), (o.a.toNat, 1)] = true)
    (f : Grp → Fmt → Nat → Nat → Nat) :
    let t := fmtOf (typeOf grp 7)
    ElemResult s c g grp 5 o.d.toNat 1 t.width
      (fun l k => f grp t (drawAt s c g grp l k) (floatElem t grp.fields.abs grp.fields.nega (g.lane? o.a.toNat l).toNat k))
      (vfloat1 f grp o s) :=
  vecOp_elems h (.inl rfl) hg fun _ => by simp

theorem vfloat2_result (h : Clear s c g) (grp : Grp) (o : OpV3)
    (hg : g.groupsReady [(o.d.toNat, 1), (o.a.toNat, 1), (o.b.toNat, 1)] = true) (f : Grp → Fmt → Nat → Nat → Nat → Nat) :
    let t := fmtOf (typeOf grp 7)
    ElemResult s c g grp 5 o.d.toNat 1 t.width
      (fun l k => f grp t (drawAt s c g grp l k) (floatElem t grp.fields.abs grp.fields.nega (g.lane? o.a.toNat l).toNat k)
        (floatElem t grp.fields.abs grp.fields.negb (g.lane? o.b.toNat l).toNat k))
      (vfloat2 f grp o s) :=
  vecOp_elems h (.inl rfl) hg fun _ => by simp

end

/-! Bit fields of a lane (R137). -/

/-- The top bit of a number that has no higher one. -/
theorem testBit_top {n x : Nat} (hn : 0 < n) (hx : x < 2 ^ n) : x.testBit (n - 1) = decide (2 ^ (n - 1) ≤ x) := by
  have hmsb := BitVec.msb_eq_decide (BitVec.ofNat n x)
  rwa [BitVec.msb_eq_getLsbD_last, BitVec.getLsbD_ofNat, BitVec.toNat_ofNat, Nat.mod_eq_of_lt hx,
    decide_eq_true (Nat.sub_one_lt_of_lt hn), Bool.true_and] at hmsb

theorem wrapTo_sext {len x : Nat} (hlen : 0 < len) (hle : len ≤ 32) (hx : x < 2 ^ len) :
    wrapTo 32 (sext len x) = if x.testBit (len - 1) = true then 2 ^ 32 - 2 ^ len + x else x := by
  have hpow : 2 ^ len ≤ 2 ^ 32 := Nat.pow_le_pow_right two_pos hle
  rw [testBit_top hlen hx, wrapTo, sext, Nat.mod_eq_of_lt hx]
  generalize 2 ^ len = p at *
  by_cases htop : 2 ^ (len - 1) ≤ x
  · simp only [htop, decide_true, if_true]
    omega
  · simp only [htop, decide_false, if_false, Bool.false_eq_true]
    omega

theorem vfieldLen_le (b : Nat) : vfieldLen b ≤ 32 := by unfold vfieldLen; omega

/-- What `vbfe` makes of an element and its field descriptor. -/
def vfieldExtract (t : IntTy) (a b : Nat) : Nat :=
  let x := a / 2 ^ vfieldPos b % 2 ^ vfieldLen b
  if vfieldLen b = 0 then 0 else if t.signed then wrapTo 32 (sext (vfieldLen b) x) else x

/-- What `vbfi` makes of an element, its field descriptor and the word it changes. -/
def vfieldInsert (_ : IntTy) (a b c : Nat) : Nat :=
  let m := (2 ^ vfieldLen b - 1) * 2 ^ vfieldPos b
  (c &&& (2 ^ 32 - 1 - m)) ||| (a * 2 ^ vfieldPos b &&& m)

theorem exec_vbfe (grp : Grp) (o : OpV3) (s : State) : exec (.vbfe grp o) s = vbits2 2 vfieldExtract grp o s := rfl

theorem exec_vbfi (grp : Grp) (o : OpV3) (s : State) : exec (.vbfi grp o) s = vbits3 2 vfieldInsert grp o s := rfl

/-- A signed field has copies of its top bit above it. -/
theorem vfieldExtract_eq (t : IntTy) (a b : Nat) :
    let x := a / 2 ^ vfieldPos b % 2 ^ vfieldLen b
    vfieldExtract t a b = if vfieldLen b = 0 then 0
      else if t.signed = true ∧ x.testBit (vfieldLen b - 1) = true then 2 ^ 32 - 2 ^ vfieldLen b + x else x := by
  intro x
  unfold vfieldExtract
  split
  case isTrue => rfl
  case isFalse hlen =>
    show (if t.signed = true then wrapTo 32 (sext (vfieldLen b) x) else x) = _
    rw [wrapTo_sext (Nat.pos_of_ne_zero hlen) (vfieldLen_le b) (Nat.mod_lt _ (Nat.two_pow_pos _)), ite_and]

/-! Words as numbers of 32 bits. -/

@[simp] theorem w32_toNat (x : W32) : w32 x.toNat = x := by rw [w32, BitVec.ofNat_toNat, BitVec.setWidth_eq]

theorem w32_wrapTo (x : Int) : w32 (wrapTo 32 x) = BitVec.ofInt 32 x := by
  apply BitVec.eq_of_toNat_eq
  rw [w32, wrapTo, BitVec.toNat_ofNat, BitVec.toNat_ofInt, Nat.mod_eq_of_lt (by omega)]

theorem w32_mul_two_pow (x : W32) (n : Nat) : w32 (x.toNat * 2 ^ n) = x <<< n := by
  apply BitVec.eq_of_toNat_eq
  rw [w32, BitVec.toNat_ofNat, BitVec.toNat_shiftLeft, Nat.shiftLeft_eq]

theorem w32_div_two_pow (x : W32) (n : Nat) : w32 (x.toNat / 2 ^ n) = x >>> n := by
  rw [← Nat.shiftRight_eq_div_pow, ← BitVec.toNat_ushiftRight, w32_toNat]

theorem w32_sext_div_two_pow (x : W32) (n : Nat) : w32 (wrapTo 32 (sext 32 x.toNat / (2 ^ n : Nat))) = x.sshiftRight n := by
  rw [w32_wrapTo, sext_toInt (by decide), ← Int.shiftRight_eq_div_pow, BitVec.sshiftRight]

/-! The integer types of 32 bits. -/

theorem intTyOf_word {code : Nat} (h : code ≤ 2) : (intTyOf code).w = 32 := by
  interval_cases code <;> rfl

theorem val_word_signed (x : W32) : ({ w := 32, signed := true } : IntTy).val x.toNat = x.toInt := sext_toInt (by decide) x

theorem val_word_unsigned (x : W32) : ({ w := 32, signed := false } : IntTy).val x.toNat = x.toNat := by
  rw [IntTy.val, if_neg Bool.false_ne_true, Nat.mod_eq_of_lt x.isLt]

theorem ofInt_val_word {t : IntTy} (h : t.w = 32) (x : W32) : BitVec.ofInt 32 (t.val x.toNat) = x := by
  obtain ⟨w, signed⟩ := t
  subst h
  cases signed
  · rw [val_word_unsigned, BitVec.ofInt_natCast, ← w32, w32_toNat]
  · rw [val_word_signed, BitVec.ofInt_toInt]

theorem ofInt_toInt_word (v : W64) : BitVec.ofInt 32 v.toInt = v.setWidth 32 := by
  rw [← BitVec.signExtend, BitVec.signExtend_eq_setWidth_of_le v (by decide)]

/-- A sum that is not clamped is the sum of the words. -/
theorem w32_out_add {t : IntTy} (h : t.w = 32) (x : W32) (v : W64) : w32 (t.out false (t.val x.toNat + v.toInt)) = x + v.setWidth 32 := by
  rw [IntTy.out, h, if_neg Bool.false_ne_true, w32_wrapTo, BitVec.ofInt_add, ofInt_val_word h, ofInt_toInt_word]

/-- A sum under SAT is the nearest value of the type (R92). -/
theorem w32_out_add_signed (x : W32) (y : Int) :
    w32 ((intTyOf 1).out true ((intTyOf 1).val x.toNat + y)) = BitVec.ofInt 32 (max (-2 ^ 31) (min (2 ^ 31 - 1) (x.toInt + y))) := by
  rw [← val_word_signed]
  exact w32_wrapTo _

theorem w32_out_add_unsigned (x : W32) (y : Int) :
    w32 ((intTyOf 2).out true ((intTyOf 2).val x.toNat + y)) = BitVec.ofInt 32 (max 0 (min (2 ^ 32 - 1) (x.toNat + y))) := by
  rw [← val_word_unsigned]
  exact w32_wrapTo _

/-! Sums of products, copies and immediates (R138 to R140). -/

theorem foldl_add_eq_sum (f : Nat → Int) (l : List Nat) (x : Int) : l.foldl (fun y k => y + f k) x = x + (l.map f).sum := by
  induction l generalizing x with
  | nil => exact (add_zero x).symm
  | cons k l ih => rw [List.foldl_cons, ih, List.map_cons, List.sum_cons, add_assoc]

/-- The words of a register or pair. -/
theorem outWords_operand (g : Gang) {n j : Nat} (hn : n = 1 ∨ n = 2) (hj : j < n) (r l : Nat) :
    tget 0 (outWords n (g.operand r n l)) j = g.lane? (r + j) l := by
  have hlow := (g.lane? r l).isLt
  rw [outWords, tget_map_range, if_pos hj]
  rcases hn with rfl | rfl
  · obtain rfl : j = 0 := by omega
    rw [operand_one, Nat.mul_zero, pow_zero, Nat.div_one, w32_toNat, Nat.add_zero]
  · rw [Gang.operand, if_pos rfl]
    obtain rfl | rfl : j = 0 ∨ j = 1 := by omega
    · rw [Nat.mul_zero, pow_zero, Nat.div_one]
      apply BitVec.eq_of_toNat_eq
      rw [w32, BitVec.toNat_ofNat, Nat.add_mul_mod_self_right, Nat.mod_eq_of_lt hlow]
      rfl
    · rw [Nat.mul_one, Nat.add_mul_div_right _ _ (Nat.two_pow_pos 32), Nat.div_eq_of_lt hlow, Nat.zero_add, w32_toNat]

section
variable {s : State} {c : Cur} {g : Gang}

theorem vdot_result (h : Clear s c g) (grp : Grp) (o : OpV3) (default m : Nat)
    (hg : g.groupsReady [(o.d.toNat, 1), (o.a.toNat, 1), (o.b.toNat, 1), (thirdReg grp o.d.toNat, 1)] = true) :
    let t := intTyOf (typeOf grp default)
    let acc : IntTy := { w := 32, signed := t.signed }
    let X := fun l k => t.val (elem t.w (g.lane? o.a.toNat l).toNat k)
    let Y := fun l k => t.val (elem t.w (g.lane? o.b.toNat l).toNat k)
    t.w * m = 32 → ElemResult s c g grp 5 o.d.toNat 1 32
      (fun l _ => acc.out grp.fields.sat
        (acc.val (g.lane? (thirdReg grp o.d.toNat) l).toNat + ((List.range m).map (fun k => X l k * Y l k)).sum))
      (vdot default grp o s) := by
  intro t acc X Y hm
  have hpos : 0 < t.w := Nat.pos_of_ne_zero fun hw => by simp [hw] at hm
  have hcount : 32 / t.w = m := Nat.div_eq_of_eq_mul_right hpos hm.symm
  simp only [← foldl_add_eq_sum, ← hcount]
  exact elemResult_of_word (vecOp_word h hg fun _ _ => by simp [t, acc, X, Y])

theorem vcmp_result (h : Clear s c g) (grp : Grp) (o : OpV3) (rel : Int → Int → Bool) :
    let n := typeRegs (typeOf grp 1)
    let t := intTyOf (typeOf grp 1)
    let X := fun l k => t.val (elem t.w (g.operand o.a.toNat n l) k)
    let Y := fun l k => t.val (elem t.w (g.operand o.b.toNat n l) k)
    g.groupsReady [(o.d.toNat, n), (o.a.toNat, n), (o.b.toNat, n)] = true →
    ElemResult s c g grp 4 o.d.toNat n t.w (fun l k => if rel (X l k) (Y l k) then 2 ^ t.w - 1 else 0) (vcmp rel grp o s) :=
  fun hg => vbits2_result h grp o 1 _ hg

theorem vmov_result (h : Clear s c g) (grp : Grp) (o : OpV2) :
    let n := typeRegs (typeOf grp 1)
    g.groupsReady [(o.d.toNat, n), (o.a.toNat, n)] = true →
    VectorResult s c g grp 4 o.d.toNat n (fun j l => g.lane? (o.a.toNat + j) l) (execVmov grp o s) := by
  intro n hg
  refine (vecOp_result h hg fun _ => rfl).congr fun j l hj => ?_
  rw [operand_begun]
  exact outWords_operand g (typeRegs_or _) hj _ l

theorem vli_result (h : Clear s c g) (grp : Grp) (o : OpVL) (hg : g.groupsReady [(o.d.toNat, 1)] = true) :
    VectorResult s c g grp 4 o.d.toNat 1 (fun _ _ => (longSigned grp.limms o.imm).setWidth 32) (execVli grp o s) :=
  vecOp_word h hg fun _ _ => by rw [immX_eq (by decide)]

theorem vaddi_result (h : Clear s c g) (grp : Grp) (o : OpVI) (hg : g.groupsReady [(o.d.toNat, 1), (o.a.toNat, 1)] = true) :
    let t := intTyOf (typeOf grp 1)
    VectorResult s c g grp 4 o.d.toNat 1
      (fun _ l => w32 (t.out grp.fields.sat (t.val (g.lane? o.a.toNat l).toNat + (longSigned grp.limms o.imm).toInt)))
      (execVaddi grp o s) := by
  rw [← immX_eq (by decide)]
  exact vimm_result h grp hg
    (fun grp x => (intTyOf (typeOf grp 1)).out grp.fields.sat ((intTyOf (typeOf grp 1)).val x.toNat + (immX grp o.imm).toInt))

/-- A bitwise form with an immediate. -/
theorem vimm_bitwise (h : Clear s c g) (grp : Grp) (o : OpVI) (hg : g.groupsReady [(o.d.toNat, 1), (o.a.toNat, 1)] = true)
    (f : W32 → W32 → W32) :
    VectorResult s c g grp 4 o.d.toNat 1 (fun _ l => f (g.lane? o.a.toNat l) ((longSigned grp.limms o.imm).setWidth 32))
      (vimm (fun grp x => (f x ((immX grp o.imm).setWidth 32)).toNat) grp o.d.toNat o.a.toNat s) :=
  (vimm_result h grp hg _).congr fun _ _ _ => by rw [w32_toNat, immX_eq (by decide)]

end

/-! Exponent and significand of an element (R144). -/

/-- The exponent of a value, as an element of a format. -/
def exponentCode (t : Fmt) : FVal → Nat
  | .fin _ m e => wrapTo t.width (floorExp m e)
  | .zero _ => 2 ^ (t.width - 1)
  | .inf _ => 2 ^ (t.width - 1) - 1
  | .nan _ _ => 2 ^ (t.width - 1) - 1

/-- The significand of an element `x` of a format, given its value. -/
def significandCode (t : Fmt) (x : Nat) : FVal → Nat
  | .fin neg m e => (FVal.fin neg m (e - floorExp m e)).round t .rtz false 0
  | .zero _ => x
  | .inf _ => x
  | .nan n p => nanCode t n p

theorem exec_vfexp (grp : Grp) (o : OpV2) (s : State) :
    exec (.vfexp grp o) s = vfloat1 (fun _ t _ x => exponentCode t (t.val x)) grp o s := by
  show execVfexp grp o s = _
  unfold execVfexp
  congr 1
  funext _ t _ x
  cases t.val x <;> rfl

theorem exec_vfmant (grp : Grp) (o : OpV2) (s : State) :
    exec (.vfmant grp o) s = vfloat1 (fun _ t _ x => significandCode t x (t.val x)) grp o s := by
  show execVfmant grp o s = _
  unfold execVfmant
  congr 1
  funext _ t _ x
  cases t.val x <;> rfl

/-! The lesser and the greater element (R142). -/

/-- The greater or the lesser of two elements; the first where neither is. -/
def extreme (greater : Bool) (t : Fmt) (x y : Nat) : Nat :=
  if greater then (if (t.val x).ltZ (t.val y) then y else x) else if (t.val y).ltZ (t.val x) then y else x

/-- With one NaN operand the other one, and with two the first. -/
theorem fminmax_numbers (greater : Bool) (t : Fmt) (x y : Nat) :
    fminmax greater false t x y =
      if (t.val x).isNan then (if (t.val y).isNan then quiet t x else y) else if (t.val y).isNan then x else extreme greater t x y := by
  cases hx : (t.val x).isNan <;> cases hy : (t.val y).isNan <;> simp [fminmax, extreme, hx, hy]

/-- With a NaN operand, the first one. -/
theorem fminmax_nans (greater : Bool) (t : Fmt) (x y : Nat) :
    fminmax greater true t x y =
      if (t.val x).isNan then quiet t x else if (t.val y).isNan then quiet t y else extreme greater t x y := by
  cases hx : (t.val x).isNan <;> cases hy : (t.val y).isNan <;> simp [fminmax, extreme, hx, hy]

section
variable {s : State} {c : Cur} {g : Gang}

/-- A form of two operands that draws nothing, with its value as a statement writes it. -/
theorem vfloat2_gives (h : Clear s c g) (grp : Grp) (o : OpV3)
    (hg : g.groupsReady [(o.d.toNat, 1), (o.a.toNat, 1), (o.b.toNat, 1)] = true) (f : Fmt → Nat → Nat → Nat) {v : Nat → Nat → Nat}
    (hv : ∀ x y, f (fmtOf (typeOf grp 7)) x y = v x y) :
    let t := fmtOf (typeOf grp 7)
    ElemResult s c g grp 5 o.d.toNat 1 t.width
      (fun l k => v (floatElem t grp.fields.abs grp.fields.nega (g.lane? o.a.toNat l).toNat k)
        (floatElem t grp.fields.abs grp.fields.negb (g.lane? o.b.toNat l).toNat k))
      (vfloat2 (fun _ t _ => f t) grp o s) :=
  (vfloat2_result h grp o hg _).congr fun _ _ _ => by rw [hv]

end

/-- Settles O9: each form is `vbits1`, `vbits2` or `vbits3` of a function of elements, and that function is the statement's. -/
theorem vectorUnaryAndBitwise : Obligations.VectorUnaryAndBitwise := by
  unfold Obligations.VectorUnaryAndBitwise
  constructor
  · intro s c g grp o h code n w X R hg
    refine ⟨vbits1_result h grp o 2 (fun _ t a => clz t.w a) hg, vbits1_result h grp o 2 (fun _ t a => ctz t.w a) hg,
      vbits1_result h grp o 2 (fun _ t a => if a = 0 then 0 else ctz t.w a + 1) hg, ?_,
      fun l k => brev w (X l k), fun l k i hi => ?_, vbits1_result h grp o 2 (fun _ t a => brev t.w a) hg⟩
    · simp only [← popcount_eq_countP]
      exact vbits1_result h grp o 2 (fun _ t a => popcount t.w a) hg
    · rw [testBit_brev, decide_eq_true hi, Bool.true_and]
  · intro s c g grp o h code n t z X Y Z R hg
    refine ⟨vbits2_result h grp o 2 (fun _ a b => a &&& b) hg, vbits2_result h grp o 2 (fun _ a b => a ||| b) hg,
      vbits2_result h grp o 2 (fun _ a b => a ^^^ b) hg,
      vbits2_result h grp o 2 (fun t a b => a &&& (2 ^ t.w - 1 - b)) hg, ?_, ?_, ?_, ?_, ?_⟩
    · simp only [Nat.shiftLeft_eq]
      exact vbits2_result h grp o 2 (fun t a b => a * 2 ^ (b % t.w)) hg
    · simp only [Nat.shiftRight_eq_div_pow]
      exact vbits2_result h grp o 2 (fun t a b => a / 2 ^ (b % t.w)) hg
    · exact (vbits2_result h grp o 2 (fun t a b => wrapTo t.w (sext t.w a / (2 ^ (b % t.w) : Nat))) hg).congr
        fun l k _ => by simp only [wrapTo, Nat.cast_pow, Nat.cast_ofNat]; rfl
    · intro hz
      simp only [ite_not]
      exact vbits3_result h grp o 2 (fun _ a b c => if c = 0 then b else a) hg hz
    · intro hn hw pos len field
      have hone : ∀ k, k < 32 * n / t.w → k = 0 := fun k hk => by rw [hn, hw] at hk; omega
      rw [exec_vbfe, exec_vbfi]
      refine ⟨(vbits2_result h grp o 2 _ hg).congr fun l k hk => ?_, fun hz => (vbits3_result h grp o 2 _ hg hz).congr fun l k hk => ?_⟩
      · rw [hone k hk, vfieldExtract_eq]
        rfl
      · rw [hone k hk]
        rfl

/-- Settles O10: comparisons by their relation, dot products as sums over the elements, immediates as operations on words. -/
theorem vectorCompareDotAndImmediates : Obligations.VectorCompareDotAndImmediates := by
  unfold Obligations.VectorCompareDotAndImmediates
  constructor
  · intro s c g grp o h
    refine ⟨?_, ?_, ?_⟩
    · intro code n t X Y R hg
      exact ⟨vcmp_result h grp o (fun x y => x = y) hg, vcmp_result h grp o (fun x y => x ≠ y) hg, vcmp_result h grp o (fun x y => x < y) hg,
        vcmp_result h grp o (fun x y => x ≤ y) hg, vcmp_result h grp o (fun x y => y < x) hg, vcmp_result h grp o (fun x y => y ≤ x) hg⟩
    · intro n hg
      exact vmov_result h grp _ hg
    · intro z Dot hg
      exact ⟨vdot_result h grp o 5 4 hg, vdot_result h grp o 3 2 hg⟩
  · intro s c g grp h
    refine ⟨vli_result h grp, fun o hg => ?_, fun o hg => ?_⟩
    · intro X v R
      have hadd := vaddi_result h grp o hg
      refine ⟨fun hty hsat => hadd.congr fun _ l _ => ?_, fun hty hsat => hadd.congr fun _ l _ => ?_,
        fun hty hsat => hadd.congr fun _ l _ => ?_, vimm_bitwise h grp o hg (fun x y => x &&& y),
        vimm_bitwise h grp o hg (fun x y => x ||| y), vimm_bitwise h grp o hg (fun x y => x ^^^ y)⟩
      · rw [hsat, w32_out_add (intTyOf_word hty)]
      · rw [hsat, hty, w32_out_add_signed]
      · rw [hsat, hty, w32_out_add_unsigned]
    · intro X R
      exact ⟨(vimm_result h grp hg (fun _ x => x.toNat * 2 ^ o.n.toNat)).congr fun _ _ _ => w32_mul_two_pow _ _,
        (vimm_result h grp hg (fun _ x => x.toNat / 2 ^ o.n.toNat)).congr fun _ _ _ => w32_div_two_pow _ _,
        (vimm_result h grp hg (fun _ x => wrapTo 32 (sext 32 x.toNat / (2 ^ o.n.toNat : Nat)))).congr fun _ _ _ => w32_sext_div_two_pow _ _⟩

/-- Settles O12: each form is `vfloat1` or `vfloat2` of a function of elements; extremes by which operands are NaN. -/
theorem floatCompareAndUnary : Obligations.FloatCompareAndUnary := by
  unfold Obligations.FloatCompareAndUnary
  constructor
  · intro s c g grp o h t p X Y R Less More Numbers Nans Rel hg
    exact ⟨vfloat2_gives h grp o hg (fminmax false false) (fminmax_numbers false t),
      vfloat2_gives h grp o hg (fminmax true false) (fminmax_numbers true t),
      vfloat2_gives h grp o hg (fminmax false true) (fminmax_nans false t),
      vfloat2_gives h grp o hg (fminmax true true) (fminmax_nans true t),
      vfloat2_result h grp o hg (fun _ t _ x y => if (t.val x).eqV (t.val y) then 2 ^ t.width - 1 else 0),
      vfloat2_result h grp o hg (fun _ t _ x y => if (t.val x).lt (t.val y) then 2 ^ t.width - 1 else 0),
      vfloat2_result h grp o hg (fun _ t _ x y => if (t.val x).lt (t.val y) || (t.val x).eqV (t.val y) then 2 ^ t.width - 1 else 0),
      vfloat2_result h grp o hg (fun _ t _ x y => if (t.val x).isNan || (t.val y).isNan then 2 ^ t.width - 1 else 0),
      vfloat2_result h grp o hg (fun _ t _ x y => x % t.signBit + y / t.signBit * t.signBit)⟩
  · intro s c g grp o h t p X R hg
    refine ⟨vfloat1_result h grp o hg (fun _ t _ x => x % t.signBit),
      vfloat1_result h grp o hg (fun _ t _ x => if x < t.signBit then x + t.signBit else x - t.signBit),
      vfloat1_result h grp o hg (fun _ t _ x => classBits t x),
      vfloat1_result h grp o hg (fun grp t r x => roundIntegral (rndOf grp) r t x),
      fun x => exponentCode t (t.val x), fun x => significandCode t x (t.val x), ?_, ?_, fun x => ⟨?_, ?_, ?_, ?_⟩⟩
    · rw [exec_vfexp]
      exact vfloat1_result h grp o hg (fun _ t _ x => exponentCode t (t.val x))
    · rw [exec_vfmant]
      exact vfloat1_result h grp o hg (fun _ t _ x => significandCode t x (t.val x))
    · exact fun _ _ _ hx => ⟨congrArg (exponentCode t) hx, congrArg (significandCode t x) hx⟩
    · exact fun _ hx => ⟨congrArg (exponentCode t) hx, congrArg (significandCode t x) hx⟩
    · exact fun _ hx => ⟨congrArg (exponentCode t) hx, congrArg (significandCode t x) hx⟩
    · exact fun _ _ hx => ⟨congrArg (exponentCode t) hx, congrArg (significandCode t x) hx⟩

end Sys2Proof.Machine
end
